-- ==== Sys2Proof/Word.lean ====
section
/-! DEFINITION. The word types of the Laniong L9 and their plainest arithmetic (R7, R10, R12, R54). -/

namespace Sys2Proof

/-- A 64-bit scalar value or virtual address (R54, R78). -/
abbrev Word := BitVec 64
/-- One 32-bit lane of a vector register (R78). -/
abbrev Lane := BitVec 32
/-- One byte of memory (R7). -/
abbrev Byte := BitVec 8
/-- A 9-bit cause code, class × 64 + kind × 8 + detail (R9). -/
abbrev Code := BitVec 9
/-- A set of lanes, bit i for lane i (R78). -/
abbrev Mask := BitVec 32

/-- Bits [hi:lo] of a word, bit lo lowest (R7). -/
def bits {w : Nat} (x : BitVec w) (hi lo : Nat) : Nat :=
  x.toNat / 2 ^ lo % 2 ^ (hi + 1 - lo)

/-- One bit of a word (R7). -/
def bit {w : Nat} (x : BitVec w) (i : Nat) : Bool := x.getLsbD i

/-- The cause code of a class, a kind and a detail (R9). -/
def codeOf (cls kind detail : Nat) : Code := BitVec.ofNat 9 (cls * 64 + kind * 8 + detail)

/-- The class of a cause code (R9). -/
def Code.cls (c : Code) : Nat := c.toNat / 64
/-- The kind of a cause code (R9). -/
def Code.kind (c : Code) : Nat := c.toNat / 8 % 8
/-- The detail of a cause code (R9). -/
def Code.detail (c : Code) : Nat := c.toNat % 8

/-- The number of set bits (R93, R103). -/
def popcount {w : Nat} (x : BitVec w) : Nat :=
  (List.range w).foldl (fun n i => if x.getLsbD i then n + 1 else n) 0

/-- The lanes of a mask in ascending order (R12). -/
def lanesOf (m : Mask) : List Nat := (List.range 32).filter (fun i => m.getLsbD i)

/-- The single-lane mask of lane i. -/
def laneBit (i : Nat) : Mask := BitVec.ofNat 32 (2 ^ i)

/-- x rounded down to a multiple of n. -/
def alignDown (x n : Nat) : Nat := x - x % n
/-- x rounded up to a multiple of n (R156). -/
def roundUp (x n : Nat) : Nat := (x + n - 1) / n * n

end Sys2Proof
end

