-- ==== Sys2Proof/Config.lean ====
section
/-! DEFINITION. What the manual leaves to the implementation or leaves open: free values, with no body. -/

namespace Sys2Proof

/-- A value that no rule states (log 7): TRAPVA and TRAPDATA of a trap whose rule gives neither. -/
opaque Config.freeWord : Nat → BitVec 64

/-- The bytes that only the device's keys and measurements decide: digests, certificates, signatures (R480). -/
opaque Config.secretByte : Nat → BitVec 8

/-- The bytes that the signed image decides: the versions that SERVICEINFO reports, by the image in force and the place
in the table (R445). -/
opaque Config.imageByte : Nat → Nat → BitVec 8

end Sys2Proof
end

