-- ==== Sys2Proof/Machine/Cells.lean ====
section
/-! DEFINITION. The one form in which the model holds sparse data: a list of keys and values, keys rising, no value
equal to what an unlisted key reads as. Memory, scratch, register files, tiles, bitmaps and tables of records are
all of this form. -/

namespace Sys2Proof.Machine

/-- Sparse data by key. -/
abbrev Cells (α : Type) := List (Nat × α)

/-- What key j reads as; d is what an unlisted key reads as. -/
def Cells.get {α : Type} (d : α) : Cells α → Nat → α
  | [], _ => d
  | (k, v) :: m, j => if k = j then v else if j < k then d else Cells.get d m j

/-- Key j set to v. Writing d removes the entry, so equal contents are equal lists. -/
def Cells.set {α : Type} [DecidableEq α] (d : α) : Cells α → Nat → α → Cells α
  | [], j, v => if v = d then [] else [(j, v)]
  | (k, x) :: m, j, v =>
      if k < j then (k, x) :: Cells.set d m j v
      else if k = j then
        if v = d then m.dropWhile (fun e => e.1 ≤ j) else (j, v) :: m
      else if v = d then (k, x) :: m else (j, v) :: (k, x) :: m

/-- The canonical form: keys strictly rising, no value equal to d. -/
def Cells.wf {α : Type} [DecidableEq α] (d : α) : Cells α → Bool
  | [] => true
  | [(_, v)] => decide (v ≠ d)
  | (k, v) :: (k', v') :: m => decide (v ≠ d) && decide (k < k') && Cells.wf d ((k', v') :: m)

/-- Records by number; an absent record is none. -/
abbrev Tab (α : Type) := Cells (Option α)

/-- The record under a number. -/
def Tab.find {α : Type} (m : Tab α) (k : Nat) : Option α := Cells.get none m k
/-- A record put under a number. -/
def Tab.put {α : Type} [DecidableEq α] (m : Tab α) (k : Nat) (v : α) : Tab α := Cells.set none m k (some v)
/-- The record under a number removed. -/
def Tab.del {α : Type} [DecidableEq α] (m : Tab α) (k : Nat) : Tab α := Cells.set none m k none
/-- The record under a number changed, if there is one. -/
def Tab.upd {α : Type} [DecidableEq α] (m : Tab α) (k : Nat) (f : α → α) : Tab α :=
  match m.find k with
  | some v => m.put k (f v)
  | none => m
/-- The numbers and records in ascending order of number. -/
def Tab.all {α : Type} (m : Tab α) : List (Nat × α) :=
  m.filterMap (fun e => e.2.map (fun v => (e.1, v)))
/-- The numbers in ascending order. -/
def Tab.keys {α : Type} (m : Tab α) : List Nat := (Tab.all m).map (·.1)
/-- The least number that is free, from n upwards, among the first `fuel`. -/
def Tab.fresh {α : Type} (m : Tab α) : Nat :=
  match (Tab.keys m).max? with
  | some k => k + 1
  | none => 0

end Sys2Proof.Machine
end

