-- ==== Sys2Proof/Syntax.lean ====
section
/-! DEFINITION. The instructions and steps of the L9: one constructor of Instr for each row of the
opcode table. Rows 0 to 195 are Halpi words (02_instruction_words.md and the chapters); rows 196 to 333
are the indivisible steps of the device, its packets, graph nodes and services. -/

namespace Sys2Proof

/-- A vector register v0 to v127 (R29). -/
abbrev VReg := Fin 128
/-- A scalar register s0 to s63 (R29). -/
abbrev SReg := Fin 64
/-- A predicate p0 to p7 (R29). -/
abbrev PReg := Fin 8
/-- A token t0 to t7 (R282). -/
abbrev Tok := Fin 8
/-- A ring q0 to q7 (R263). -/
abbrev RingN := Fin 8
/-- An accumulator tile a0 to a15 (R308). -/
abbrev Tile := Fin 16
/-- A lookahead count (R31). -/
abbrev La := Fin 16
/-- A wait mask, bit k for token tk (R33). -/
abbrev Wait := BitVec 8
/-- A scope entry 0 to 31 (R221). -/
abbrev Scope := Fin 32

/-- A guard: p, complemented when neg (R30). G = 0 is p0 itself, which reads all ones. -/
structure Guard where
  neg : Bool
  p : PReg
deriving DecidableEq, Repr

/-- No guard: all lanes of em (R30). -/
def Guard.always : Guard := ⟨false, 0⟩

/-- Signed (.s) or unsigned (.n) (R54, R88). -/
inductive Sgn | sg | un
deriving DecidableEq, Repr

/-- Integer conditions, coded as CC of R88. -/
inductive Cc | eq | ne | lt | le | gt | ge
deriving DecidableEq, Repr

/-- Float conditions, coded as CC of R112. -/
inductive Fcc | eq | ne | lt | le | gt | ge | un | ord
deriving DecidableEq, Repr

/-- Rounding modes, coded as RM of R60. -/
inductive Rm | rne | rtz | rdn | rup
deriving DecidableEq, Repr

/-- Half format, coded as HF of R112. -/
inductive Hf | f16 | bf16
deriving DecidableEq, Repr

/-- Conversion types, coded as ST and DT of R126. -/
inductive CvtTy | f32 | f16 | bf16 | s32 | n32
deriving DecidableEq, Repr

/-- np8 block length: 16 or 32 (R68, R127). -/
inductive Bl | b16 | b32
deriving DecidableEq, Repr

/-- Reduction operations, coded as OPR of R132. -/
inductive RedOp | add | minS | maxS | minN | maxN | and | or | xor | fadd | fmin | fmax
deriving DecidableEq, Repr

/-- Memory reductions, coded as OPR of R241. -/
inductive MemRed | add | minS | maxS | minN | maxN | and | or | xor | fadd | exch
deriving DecidableEq, Repr

/-- Access sizes 1, 2, 4, 8, 16 bytes, coded as SZ of R203. -/
inductive Sz | b | h | w | d | q
deriving DecidableEq, Repr

/-- A vector register, or a scalar that serves every lane (SB of R88, R112, R203). -/
inductive VSrc | vec (r : VReg) | sca (r : SReg)
deriving DecidableEq, Repr

/-- Scalar shift amount: a scalar, or the immediate SH (R92). -/
inductive ShAmt | reg (r : SReg) | imm (n : Fin 64)
deriving DecidableEq, Repr

/-- Vector shift amount (R102). -/
inductive VShAmt | src (b : VSrc) | imm (n : Fin 64)
deriving DecidableEq, Repr

/-- Lane amount of VROT, VEXT and VINS (R131). -/
inductive LaneSel | reg (r : SReg) | imm (k : Fin 32)
deriving DecidableEq, Repr

/-- Destination and mode of VVOTE (R133). -/
inductive Vote | any (d : PReg) | all (d : PReg) | uni (d : PReg) | ballot (d : SReg)
deriving DecidableEq, Repr

/-- A link register: scalar, or the vector pair v(2k):v(2k+1) (R163). -/
inductive Link | sca (r : SReg) | vec (k : Fin 64)
deriving DecidableEq, Repr

/-- Value of CADD: scalar bits [31:0] or IMM (R231). -/
inductive CVal | reg (r : SReg) | imm (n : BitVec 15)
deriving DecidableEq, Repr

/-- Completion add of a copy: the counter scalar and the scope (R288). -/
structure CAdd where
  ctr : SReg
  sc : Scope
deriving DecidableEq, Repr

/-- Lane copy sizes (R288). -/
inductive CSz | w | d | q
deriving DecidableEq, Repr

/-- Destination types of MDRAIN, coded as DT of R319. -/
inductive DrainTy | f32 | bf16 | f16 | s32 | s8 | np8
deriving DecidableEq, Repr

/-- Accumulator types of MDRAIN (AT of R319). -/
inductive AccTy | f32 | s32
deriving DecidableEq, Repr

/-- Operand formats of the matrix engine, coded as BFMT of R315. -/
inductive MFmt | s8 | n8 | np8 | bf16 | f16
deriving DecidableEq, Repr

/-- Destination of MDRAIN: registers (DS = 0) or scratch (DS = 1) (R319). -/
inductive DrainDst | reg (d : VReg) | scr (b : SReg)
deriving DecidableEq, Repr

/-- TLBI kinds, coded as KIND of R360. -/
inductive TlbiKind | all | pasid | va | range
deriving DecidableEq, Repr

/-- BMODE transitions, coded as TR of R430. -/
inductive BankTr | way | ring | scratch
deriving DecidableEq, Repr

/-- MSIB modes, coded as MODE of R453. -/
inductive MsiMode | off | one | data
deriving DecidableEq, Repr

/-- PRGR response codes, coded as RC of R456. -/
inductive PrgCode | ok | inv | fail
deriving DecidableEq, Repr

/-- One half of a PAIR word (R36). Vector halves first, then scalar halves. -/
inductive Half
  | vadd (d a : VReg) | vsub (d a : VReg) | vmul (d a : VReg)
  | vand (d a : VReg) | vor (d a : VReg) | vxor (d a : VReg)
  | vshl (d a : VReg) | vshr (d a : VReg) | vsra (d a : VReg)
  | vmin (n : Sgn) (d a : VReg) | vmax (n : Sgn) (d a : VReg)
  | vmov (d a : VReg) | vaddi (d a : VReg) (x : BitVec 10) | vmovi (d : VReg) (x : BitVec 10)
  | vfadd (rm : Rm) (d a : VReg) | vfsub (rm : Rm) (d a : VReg) | vfmul (rm : Rm) (d a : VReg)
  | vfmin (d a : VReg) | vfmax (d a : VReg)
  | vhadd (rm : Rm) (d a : VReg) | vhmul (rm : Rm) (d a : VReg)
  | sadd (d a : SReg) | ssub (d a : SReg) | sand (d a : SReg) | sor (d a : SReg) | sxor (d a : SReg)
  | sshl (d a : SReg) | sshr (d a : SReg) | smov (d a : SReg)
  | saddi (d a : SReg) (x : BitVec 10) | smovi (d : SReg) (x : BitVec 10)
deriving DecidableEq, Repr

/-- The storage that a SECDED error hits (R187, R426, R413 kinds 4 and 5). -/
inductive EccSite
  | registerFile (vector : Bool) (team : Nat)   -- R413: 0x16A vector file, 0x16B scalar or predicate file
  | l1Clean (core sector : Nat)
  | l1Dirty (core sector byte : Nat)
  | scratchBank (team off : Nat)                -- the byte that it struck
  | ringBank (team : Nat)
  | tile (team : Nat)
  | latch (core q : Nat)
  | counterStore (team : Nat)
  | l2Tag (pa : Nat)
  | mscTag (pa : Nat)
  | hbm (pa : Nat)
  | lpddrCxl (pa : Nat)
  | tlb (core : Nat)
deriving DecidableEq, Repr

/-- What the outside party's answer to a driver's request was (R436, R443, R444, R460): a status, 0 for success,
and a result value. -/
structure Answer where
  status : Code
  result : BitVec 32
  data : List Byte
deriving DecidableEq, Repr

/-- The causes of a reset (R478). -/
inductive ResetCause | powerOn | pin | resumeAbandoned | recoveryBoot | lifeCycle
deriving DecidableEq, Repr

/-- Life-cycle states, coded in this order in ATTEST (R479, R480). -/
inductive LifeCycle | manufacture | provisioned | deployed | retired
deriving DecidableEq, Repr

/-- Where verification of the image at reset finds one (R481). -/
inductive BootSource | flash | nvme | ntb
deriving DecidableEq, Repr

/-- The three modes of R24. -/
inductive Mode | compute | system | prologue
deriving DecidableEq, Repr

/-- One constructor for each row of spec/opcode_table.json, in the table's order. -/
inductive Instr where
  -- FORM 0x0 SCALAR (R90 to R98)
  | sadd (d a b : SReg)
  | ssub (d a b : SReg)
  | smul (d a b : SReg)
  | smulh (n : Sgn) (d a b : SReg)
  | sdiv (n : Sgn) (la : La) (d a b : SReg)
  | srem (n : Sgn) (la : La) (d a b : SReg)
  | sand (d a b : SReg)
  | sor (d a b : SReg)
  | sxor (d a b : SReg)
  | sshl (d a : SReg) (b : ShAmt)
  | sshr (d a : SReg) (b : ShAmt)
  | ssra (d a : SReg) (b : ShAmt)
  | smin (n : Sgn) (d a b : SReg)
  | smax (n : Sgn) (d a b : SReg)
  | sclz (d a : SReg)
  | spopc (d a : SReg)
  | sbfx (sx : Bool) (d a : SReg) (pos : Fin 64) (len : BitVec 7)
  | sbfi (d a : SReg) (pos : Fin 64) (len : BitVec 7)
  | scmp (cc : Cc) (n : Sgn) (d : PReg) (a b : SReg)
  | ssel (g : Guard) (d a b : SReg) (sel : Guard)
  | smov (d a : SReg)
  | saddi (d a : SReg) (imm : BitVec 30)
  | smovi (d : SReg) (imm : BitVec 30)
  | smoviL (d : SReg) (lit : BitVec 64)
  | slit (d : SReg) (lit : BitVec 64)
  | saddr (d a b : SReg) (sc : Fin 8) (disp : BitVec 19)
  -- FORM 0x1 VINT (R99 to R109)
  | vadd (d a : VReg) (b : VSrc)
  | vsub (d a : VReg) (b : VSrc)
  | vmul (d a : VReg) (b : VSrc)
  | vmulh (n : Sgn) (d a : VReg) (b : VSrc)
  | vmad (d a : VReg) (b : VSrc)
  | vadds (n : Sgn) (d a : VReg) (b : VSrc)
  | vsubs (n : Sgn) (d a : VReg) (b : VSrc)
  | vand (d a : VReg) (b : VSrc)
  | vor (d a : VReg) (b : VSrc)
  | vxor (d a : VReg) (b : VSrc)
  | vshl (d a : VReg) (b : VShAmt)
  | vshr (d a : VReg) (b : VShAmt)
  | vsra (d a : VReg) (b : VShAmt)
  | vmin (n : Sgn) (d a : VReg) (b : VSrc)
  | vmax (n : Sgn) (d a : VReg) (b : VSrc)
  | vabs (sat : Bool) (d a : VReg)
  | vclz (d a : VReg)
  | vpopc (d a : VReg)
  | vbfx (sx : Bool) (d a : VReg) (pos : Fin 64) (len : BitVec 7)
  | vbfi (d a : VReg) (pos : Fin 64) (len : BitVec 7)
  | vcmp (cc : Cc) (n : Sgn) (d : PReg) (a : VReg) (b : VSrc)
  | vsel (g : Guard) (d a : VReg) (b : VSrc) (sel : Guard)
  | vmov (d a : VReg)
  | vmovi (d : VReg) (imm : BitVec 30)
  | vmoviL (d : VReg) (lit : BitVec 32)
  | vaddi (d a : VReg) (imm : BitVec 30)
  | vbcast (hi : Bool) (d : VReg) (a : SReg)
  | vaddr (n : Sgn) (d a b : VReg) (sc : Fin 8) (disp : BitVec 19)
  | vdp4 (na nb : Sgn) (d a : VReg) (b : VSrc)
  -- FORM 0x2 VFLT (R115 to R125)
  | vfadd (rm : Rm) (d a : VReg) (b : VSrc)
  | vfsub (rm : Rm) (d a : VReg) (b : VSrc)
  | vfmul (rm : Rm) (d a : VReg) (b : VSrc)
  | vfma (rm : Rm) (d a : VReg) (b : VSrc)
  | vfnma (rm : Rm) (d a : VReg) (b : VSrc)
  | vfmin (d a : VReg) (b : VSrc)
  | vfmax (d a : VReg) (b : VSrc)
  | vfabs (d a : VReg)
  | vfneg (d a : VReg)
  | vfcmp (cc : Fcc) (d : PReg) (a : VReg) (b : VSrc)
  | vfclass (d a : VReg)
  | vfrcp (la : La) (d a : VReg)
  | vfrsq (la : La) (d a : VReg)
  | vfdiv (la : La) (rm : Rm) (d a : VReg) (b : VSrc)
  | vfsqrt (la : La) (rm : Rm) (d a : VReg)
  | vfexp2 (la : La) (d a : VReg)
  | vflog2 (la : La) (d a : VReg)
  | vfrnd (rm : Rm) (d a : VReg)
  | vhadd (hf : Hf) (rm : Rm) (d a : VReg) (b : VSrc)
  | vhmul (hf : Hf) (rm : Rm) (d a : VReg) (b : VSrc)
  | vhfma (hf : Hf) (rm : Rm) (d a : VReg) (b : VSrc)
  | vfdot2 (hf : Hf) (rm : Rm) (d a : VReg) (b : VSrc)
  -- FORM 0x3 XLANE (R126 to R138)
  | vcvt (dt st : CvtTy) (rm : Rm) (dhi shi : Bool) (d a : VReg)
  | vnpk (bl : Bl) (d a : VReg)
  | vnupk (bl : Bl) (p : Fin 16) (mid : Bool) (d a : VReg)
  | vshuf (d a b : VReg)
  | vrot (d a : VReg) (k : LaneSel)
  | vred (la : La) (op : RedOp) (rm : Rm) (d : SReg) (a : VReg)
  | vscan (la : La) (op : RedOp) (rm : Rm) (d a : VReg)
  | vvote (v : Vote) (a : PReg)
  | vext (sx : Bool) (d : SReg) (a : VReg) (k : LaneSel)
  | vins (d : VReg) (a : SReg) (k : LaneSel)
  | vlane (le : Bool) (d : VReg) (a : PReg)
  | plog (tt : BitVec 4) (d a b : PReg)
  | pset (d : PReg) (a : SReg)
  | pget (d : SReg) (a : PReg)
  | emrd (d : SReg)
  | emwr (a : SReg)
  -- FORM 0xC PAIR (R35 to R38): the constructor names half H0; h1 is half H1
  | pairVadd (d a : VReg) (h1 : Half)
  | pairVsub (d a : VReg) (h1 : Half)
  | pairVmul (d a : VReg) (h1 : Half)
  | pairVand (d a : VReg) (h1 : Half)
  | pairVor (d a : VReg) (h1 : Half)
  | pairVxor (d a : VReg) (h1 : Half)
  | pairVshl (d a : VReg) (h1 : Half)
  | pairVshr (d a : VReg) (h1 : Half)
  | pairVsra (d a : VReg) (h1 : Half)
  | pairVmin (n : Sgn) (d a : VReg) (h1 : Half)
  | pairVmax (n : Sgn) (d a : VReg) (h1 : Half)
  | pairVmov (d a : VReg) (h1 : Half)
  | pairVaddi (d a : VReg) (x : BitVec 10) (h1 : Half)
  | pairVmovi (d : VReg) (x : BitVec 10) (h1 : Half)
  | pairVfadd (rm : Rm) (d a : VReg) (h1 : Half)
  | pairVfsub (rm : Rm) (d a : VReg) (h1 : Half)
  | pairVfmul (rm : Rm) (d a : VReg) (h1 : Half)
  | pairVfmin (d a : VReg) (h1 : Half)
  | pairVfmax (d a : VReg) (h1 : Half)
  | pairVhadd (rm : Rm) (d a : VReg) (h1 : Half)
  | pairVhmul (rm : Rm) (d a : VReg) (h1 : Half)
  | pairSadd (d a : SReg) (h1 : Half)
  | pairSsub (d a : SReg) (h1 : Half)
  | pairSand (d a : SReg) (h1 : Half)
  | pairSor (d a : SReg) (h1 : Half)
  | pairSxor (d a : SReg) (h1 : Half)
  | pairSshl (d a : SReg) (h1 : Half)
  | pairSshr (d a : SReg) (h1 : Half)
  | pairSmov (d a : SReg) (h1 : Half)
  | pairSaddi (d a : SReg) (x : BitVec 10) (h1 : Half)
  | pairSmovi (d : SReg) (x : BitVec 10) (h1 : Half)
  -- FORM 0xF (R40)
  | ext (payload : BitVec 60)
  -- FORM 0x4 MEM (R203 to R210, R241)
  | ld (wt : Wait) (la : La) (sz : Sz) (n : Sgn) (d a : VReg) (disp : BitVec 17)
  | st (g : Guard) (wt : Wait) (sz : Sz) (d a : VReg) (disp : BitVec 17)
  | lds (wt : Wait) (la : La) (sz : Sz) (n : Sgn) (d : VReg) (a : VSrc) (disp : BitVec 17)
  | sts (g : Guard) (wt : Wait) (sz : Sz) (d : VReg) (a : VSrc) (disp : BitVec 17)
  | ldro (wt : Wait) (la : La) (sz : Sz) (n : Sgn) (d a : VReg) (disp : BitVec 17)
  | sld (wt : Wait) (la : La) (sz : Sz) (n : Sgn) (sp : Bool) (d a : SReg) (disp : BitVec 17)
  | sst (g : Guard) (wt : Wait) (sz : Sz) (sp : Bool) (d a : SReg) (disp : BitVec 17)
  | red (g : Guard) (wt : Wait) (la : La) (wide : Bool) (op : MemRed) (sc : Scope) (ret : Option VReg) (a b : VReg)
  | roinv (wt : Wait)
  | pref (wt : Wait) (l2 : Bool) (a : VSrc) (disp : BitVec 17)
  -- FORM 0x5 CTR (R231, R271)
  | cadd (la : La) (ret : Option SReg) (a : SReg) (v : CVal) (rel : Option Scope)
  | caddv (g : Guard) (la : La) (ret : Option VReg) (a b : VReg) (rel : Option Scope)
  | cwait (a b : SReg) (acq : Option Scope)
  | cwaita (d a : SReg) (cnt : Fin 4) (acq : Option Scope)
  | cread (la : La) (d a : SReg) (acq : Option Scope)
  | ctest (d : PReg) (a b : SReg) (acq : Option Scope)
  | cset (a b : SReg)
  | qpush (g : Guard) (q : RingN) (a : VReg) (x : Option SReg)
  | qpop (la : La) (acq : Bool) (q : RingN) (d : VReg) (p : PReg) (x : Option SReg)
  | qinfo (la : La) (q : RingN) (d : SReg) (x : Option SReg)
  -- FORM 0x6 CTL (R161)
  | bra (disp : BitVec 30)
  | braL (target : BitVec 56)
  | brc (g : Guard) (disp : BitVec 30)
  | brd (g : Guard) (tok : BitVec 8) (disp : BitVec 22)
  | join (tok : BitVec 8)
  | call (link : Link) (disp : BitVec 30)
  | callL (link : Link) (target : BitVec 56)
  | ret (link : Link)
  | jmpi (link : Link) (b : SReg)
  | sdbnz (d : SReg) (disp : BitVec 30)
  | yieldW (wt : Wait) (disp : BitVec 22)
  | waitt (wt : Wait)
  | stop
  | trap (n : Fin 8) (payload : BitVec 20)
  | nop
  -- FORM 0x7 COPY (R288)
  | cpy (wt : Wait) (tok : Tok) (ds ss : Bool) (sz : CSz) (d a : VReg) (ca : Option CAdd)
  | cpyt (wt : Wait) (tok : Tok) (ps st : Bool) (d a : SReg) (ca : Option CAdd)
  | cpyf (wt : Wait) (tok : Tok) (ds : Bool) (sz : Sz) (d a : SReg) (ca : Option CAdd)
  | cpyq (wt : Wait) (la : La) (tok : Tok) (d : SReg)
  | cpyx (wt : Wait) (tok : Tok)
  -- FORM 0x8 MTX (R319)
  | baton (wt : Wait)
  | bpass (wt : Wait) (a : Option SReg)
  | mbq (wt : Wait) (c : Bool) (q : Fin 4) (a : VReg)
  | mbqs (wt : Wait) (tok : Tok) (c : Bool) (q : Fin 4) (a : SReg)
  | mma (wt : Wait) (tok : Tok) (rep : BitVec 8) (fs : Bool) (d : Tile) (a b : SReg)
  | mzero (wt : Wait) (d : Tile) (cnt : Fin 16)
  | mloada (wt : Wait) (d : Tile) (a : SReg)
  | mdrain (wt : Wait) (la : La) (dst : DrainDst) (a : Tile) (rg nrg : Fin 8) (dt : DrainTy) (ty : AccTy) (rm : Rm) (bl : Bl)
  | mcmpr (wt : Wait) (fmt : MFmt) (bl : Bl) (d a b : SReg)
  | mstat (wt : Wait) (la : La) (tok : Tok) (clr : Bool) (d : SReg)
  -- FORM 0x9 IO (R449, R465)
  | dbw (a b : SReg)
  | iold (la : La) (cfg : Bool) (sz : Sz) (d a : SReg) (disp : BitVec 19)
  | iost (cfg : Bool) (sz : Sz) (a b : SReg) (disp : BitVec 19)
  -- FORM 0xA SYS (R427, R359, R360, R379, R447, R453, R456, R457); the D field of SRD is read by its number
  | srd (la : La) (num : BitVec 12) (d : Fin 128)
  | swr (num : BitVec 12) (a : SReg)
  | fpflagsWrite (a : SReg)
  | stageqWrite (a : SReg)
  | eret
  | tlbi (kind : TlbiKind) (g : Bool) (a : SReg)
  | pgharv (clr : Bool) (d a : SReg)
  | cscope (a : SReg) (e : Fin 32)
  | bmode (tr : BankTr) (q : RingN)
  | msib (mode : MsiMode) (a : SReg)
  | atsinv (all : Bool) (a : SReg)
  | prgr (rc : PrgCode) (a : SReg)
  | svcall (a : SReg) (n : Fin 64)
  | park (a b : SReg) (acq : Option Scope)
  | plaunch (a : SReg)
  | pcancel
  | prepeat (a : SReg) (n : BitVec 8)
  | halt (a : SReg)
  -- steps of the cores
  | haltWake (gid slot : Nat)
  | resultWrite (gid slot pid : Nat) (part : Option (Nat × Mask))
  | issueCycle (core : Nat)
  | swapExchange (core : Nat)
  | pendingAgeExpiry (core : Nat)
  | homeCounterOp (op : Nat)
  | coldMoveTick (home : Nat)
  | counterAnswer (ans : Nat)
  | waiterRefusalLimit (op : Nat)
  | writebackTimer (core sector : Nat) (evict : Bool)
  | pageWalk (core pasid va : Nat)
  | parkThreshold (team : Nat)
  | parkSave (team : Nat)
  | teamRelaunch (team core : Nat)
  | watchdogExpiry (ctx : Nat)
  | copyEngineStart (die : Nat)
  | copyChunk (copy : Nat)
  | cpyComplete (copy : Nat)
  | engineOpPerform (core : Nat)
  | mmaStep (core : Nat)
  | batonGrant (core : Nat)
  | ringPublish (team ring : Nat)
  | ringRefill (team ring : Nat)
  | teamEnd (team : Nat)
  | teamStop (team : Nat)
  | faultLogFullTimeout (hub : Nat)
  | debugBudgetExpiry (team : Nat)
  | sramEccError (site : EccSite) (double : Bool)
  -- front end: queues and packets
  | qcbReread (queue : Nat)
  | packetTake (queue : Nat)
  | launch (queue : Nat)
  | copyPacket (queue : Nat)
  | caddPacket (queue : Nat)
  | cwaitPacket (queue : Nat)
  | write (queue : Nat)
  | wrsig (queue : Nat)
  | graph (queue : Nat)
  | marker (queue : Nat)
  | prologueRun (launch : Nat)
  | prologueTimeout (team : Nat)
  | admission (launch : Nat)
  | teamDispatch (launch core : Nat)
  | launchEnd (launch : Nat)
  | timeSliceExpiry (queue : Nat)
  | preempt (team : Nat) (cause : Fin 8)
  | staging (launch lin : Nat)
  | arbiterAging (arb : Nat)
  -- graph nodes
  | kernelNode (graph node : Nat)
  | copyNode (graph node : Nat)
  | caddNode (graph node : Nat)
  | cwaitNode (graph node : Nat)
  | condNode (graph node : Nat)
  | loopNode (graph node : Nat)
  | switchNode (graph node : Nat)
  | endNode (graph node : Nat)
  | graphEnd (graph : Nat)
  | graphWatchdog (graph : Nat)
  -- memory engines
  | tmeMigration (pasid va frame tier : Nat)
  | pageClear (pa : Nat)
  | wipeRegionClear (region : Nat)
  -- Vetiver services: call is the pending call's number
  | serviceOverrun (call : Nat)
  | echo (call : Nat)
  | qattach (call : Nat)
  | qdetach (call : Nat)
  | ctxcreate (call : Nat)
  | ctxkill (call : Nat)
  | ctxresume (call : Nat)
  | ctxsuspend (call : Nat)
  | pagereq (call frame : Nat)
  | pageout (call : Nat)
  | map (call frame : Nat)
  | unmap (call : Nat)
  | protect (call : Nat)
  | migrate (call frame : Nat)
  | harvest (call : Nat)
  | scopeset (call : Nat)
  | iolease (call : Nat)
  | iorelease (call : Nat)
  | dbbind (call : Nat)
  | dbunbind (call : Nat)
  | msibind (call : Nat)
  | msiunbind (call : Nat)
  | nvmeadmin (call : Nat) (ans : Answer)
  | nvmeqpair (call : Nat) (ans : Answer)
  | nvmeqdel (call : Nat) (ans : Answer)
  | nicqcreate (call : Nat) (ans : Answer)
  | nicqdelete (call : Nat) (ans : Answer)
  | nicfilter (call : Nat) (ans : Answer)
  | atsctl (call : Nat)
  | atsinval (call : Nat)
  | funcinfo (call : Nat)
  | ntbwindow (call : Nat)
  | peerattach (call : Nat) (ans : Answer)
  | peerdetach (call : Nat) (ans : Answer)
  | iderefresh (call : Nat) (ans : Answer)
  | spdmmeasure (call : Nat) (ans : Answer)
  | attest (call : Nat)
  | cxlonline (call : Nat) (ans : Answer)
  | cxloffline (call frame : Nat) (ans : Answer)
  | portreset (call : Nat) (ans : Answer)
  | flr (call : Nat) (ans : Answer)
  | retention (call : Nat)
  | poweralarm (call : Nat)
  | fwupdate (call : Nat) (ans : Answer)
  | faultinject (call : Nat)
  | svcDebug (call : Nat)
  | logread (call : Nat)
  | clocksync (call : Nat) (ans : Answer)
  | serviceinfo (call : Nat)
  -- the root complex
  | doorbellWrite (dw : Nat)
  | dbpFollow (binding : Nat)
  | msiWrite (addr size data : Nat)
  | atsTranslationRequest (fn pasid va : Nat) (write : Bool)
  | pageRequest (fn pasid va prg : Nat) (last rd wr : Bool)
  | inboundDma (fn pasid va : Nat) (write : Bool) (data : List Byte)
  | inboundCounterWrite (pasid va size data : Nat)
  | inboundFetchadd (pasid va size data : Nat) (fetchAdd : Bool)
  | peerFetchaddCompletion (op : Nat) (err : Option (Fin 8)) (old : BitVec 64)
  | requestTimeout (req : Nat)
  | linkDown (sub : Nat)
  | peerReset (peer : Nat) (linkLost : Bool)
  | ideIntegrityFailure (sub stream : Nat) (sequence : Bool)
  | ideRefreshTimeout (sub stream : Nat)
  | quarantineSeal (ctx : Nat)
  | powerAlarmRaise (amps : Nat)
  | powerAlarmLower
  | retentionEntry (cause : Fin 3)
  | resume (lostCxl : List Nat) (refreshFailed : Bool)
  | thermalTrip (die : Nat)
  | reset (cause : ResetCause) (boot : BootSource)
  | lifeCycleChange (tgt : LifeCycle) (signed : Bool)
  | logicalTimeTick (core : Nat)
  | aerErrorReport (dw : Nat)
  | atsInvalidateCompletion (req : Nat)
  | linkRetrained (sub : Nat)
  | svcallQueueTimeout (gid slot : Nat)
  | configurationWriteCompletion (req : Nat) (err : Option (Fin 8))
  | supplyRemoval
deriving DecidableEq, Repr

end Sys2Proof
end

