-- ==== Sys2Proof/Machine/Event.lean ====
section
/-! DEFINITION. The steps that no word of a fragment makes, as data: what the model holds of the steps that are due. Each has
the name and the fields of its constructor of Instr, but bankSwitch, the progress of a BMODE, and
scratchStage, the staging of a placed team's scratch slices, and piece, one piece of an access of several. -/

namespace Sys2Proof.Machine

/-- A step of the device that is not an instruction word. -/
inductive Event where
  | haltWake (gid slot : Nat)
  | resultWrite (gid slot pid : Nat) (part : Option (Nat × Mask))
  | issueCycle (core : Nat)
  | swapExchange (core : Nat)
  | pendingAgeExpiry (core : Nat)
  | homeCounterOp (op : Nat)
  | coldMoveTick (home : Nat)
  | counterAnswer (ans : Nat)
  | waiterRefusalLimit (op : Nat)
  | writebackTimer (core sector : Nat) (evict : Bool)
  | pageWalk (core pasid va : Nat)
  | parkThreshold (team : Nat)
  | parkSave (team : Nat)
  | teamRelaunch (team core : Nat)
  | watchdogExpiry (ctx : Nat)
  | copyEngineStart (die : Nat)
  | copyChunk (copy : Nat)
  | cpyComplete (copy : Nat)
  | engineOpPerform (core : Nat)
  | mmaStep (core : Nat)
  | batonGrant (core : Nat)
  | ringPublish (team ring : Nat)
  | ringRefill (team ring : Nat)
  | bankSwitch (team : Nat)
  | scratchStage (team : Nat)
  | piece (torn k : Nat)
  | teamEnd (team : Nat)
  | teamStop (team : Nat)
  | faultLogFullTimeout (hub : Nat)
  | debugBudgetExpiry (team : Nat)
  | sramEccError (site : EccSite) (double : Bool)
  -- front end: queues and packets
  | qcbReread (queue : Nat)
  | packetTake (queue : Nat)
  | launch (queue : Nat)
  | copyPacket (queue : Nat)
  | caddPacket (queue : Nat)
  | cwaitPacket (queue : Nat)
  | write (queue : Nat)
  | wrsig (queue : Nat)
  | graph (queue : Nat)
  | marker (queue : Nat)
  | prologueRun (launch : Nat)
  | prologueTimeout (team : Nat)
  | admission (launch : Nat)
  | teamDispatch (launch core : Nat)
  | launchEnd (launch : Nat)
  | timeSliceExpiry (queue : Nat)
  | preempt (team : Nat) (cause : Fin 8)
  | staging (launch lin : Nat)
  | arbiterAging (arb : Nat)
  -- graph nodes
  | kernelNode (graph node : Nat)
  | copyNode (graph node : Nat)
  | caddNode (graph node : Nat)
  | cwaitNode (graph node : Nat)
  | condNode (graph node : Nat)
  | loopNode (graph node : Nat)
  | switchNode (graph node : Nat)
  | endNode (graph node : Nat)
  | graphEnd (graph : Nat)
  | graphWatchdog (graph : Nat)
  -- memory engines
  | tmeMigration (pasid va frame tier : Nat)
  | pageClear (pa : Nat)
  | wipeRegionClear (region : Nat)
  -- Vetiver services: call is the pending call's number
  | serviceOverrun (call : Nat)
  | echo (call : Nat)
  | qattach (call : Nat)
  | qdetach (call : Nat)
  | ctxcreate (call : Nat)
  | ctxkill (call : Nat)
  | ctxresume (call : Nat)
  | ctxsuspend (call : Nat)
  | pagereq (call frame : Nat)
  | pageout (call : Nat)
  | map (call frame : Nat)
  | unmap (call : Nat)
  | protect (call : Nat)
  | migrate (call frame : Nat)
  | harvest (call : Nat)
  | scopeset (call : Nat)
  | iolease (call : Nat)
  | iorelease (call : Nat)
  | dbbind (call : Nat)
  | dbunbind (call : Nat)
  | msibind (call : Nat)
  | msiunbind (call : Nat)
  | nvmeadmin (call : Nat) (ans : Answer)
  | nvmeqpair (call : Nat) (ans : Answer)
  | nvmeqdel (call : Nat) (ans : Answer)
  | nicqcreate (call : Nat) (ans : Answer)
  | nicqdelete (call : Nat) (ans : Answer)
  | nicfilter (call : Nat) (ans : Answer)
  | atsctl (call : Nat)
  | atsinval (call : Nat)
  | funcinfo (call : Nat)
  | ntbwindow (call : Nat)
  | peerattach (call : Nat) (ans : Answer)
  | peerdetach (call : Nat) (ans : Answer)
  | iderefresh (call : Nat) (ans : Answer)
  | spdmmeasure (call : Nat) (ans : Answer)
  | attest (call : Nat)
  | cxlonline (call : Nat) (ans : Answer)
  | cxloffline (call frame : Nat) (ans : Answer)
  | portreset (call : Nat) (ans : Answer)
  | flr (call : Nat) (ans : Answer)
  | retention (call : Nat)
  | poweralarm (call : Nat)
  | fwupdate (call : Nat) (ans : Answer)
  | faultinject (call : Nat)
  | svcDebug (call : Nat)
  | logread (call : Nat)
  | clocksync (call : Nat) (ans : Answer)
  | serviceinfo (call : Nat)
  -- the root complex
  | doorbellWrite (dw : Nat)
  | dbpFollow (binding : Nat)
  | msiWrite (addr size data : Nat)
  | atsTranslationRequest (fn pasid va : Nat) (write : Bool)
  | pageRequest (fn pasid va prg : Nat) (last rd wr : Bool)
  | inboundDma (fn pasid va : Nat) (write : Bool) (data : List Byte)
  | inboundCounterWrite (pasid va size data : Nat)
  | inboundFetchadd (pasid va size data : Nat) (fetchAdd : Bool)
  | peerFetchaddCompletion (op : Nat) (err : Option (Fin 8)) (old : BitVec 64)
  | requestTimeout (req : Nat)
  | linkDown (sub : Nat)
  | peerReset (peer : Nat) (linkLost : Bool)
  | ideIntegrityFailure (sub stream : Nat) (sequence : Bool)
  | ideRefreshTimeout (sub stream : Nat)
  | quarantineSeal (ctx : Nat)
  | powerAlarmRaise (amps : Nat)
  | powerAlarmLower
  | retentionEntry (cause : Fin 3)
  | resume (lostCxl : List Nat) (refreshFailed : Bool)
  | thermalTrip (die : Nat)
  | reset (cause : ResetCause) (boot : BootSource)
  | lifeCycleChange (tgt : LifeCycle) (signed : Bool)
  | logicalTimeTick (core : Nat)
  | aerErrorReport (dw : Nat)
  | atsInvalidateCompletion (req : Nat)
  | linkRetrained (sub : Nat)
  | svcallQueueTimeout (gid slot : Nat)
  | configurationWriteCompletion (req : Nat) (err : Option (Fin 8))
  | supplyRemoval
deriving DecidableEq, Repr

end Sys2Proof.Machine
end

