-- ==== Sys2Proof/Machine/State.lean ====
section
/-! DEFINITION. The state of the device as plain data: cores, groups, fragments, teams, counters and homes, copies,
engines, the front end, the hubs, the root complex and memory. Groups are numbered gid = 16 × team + GRPID,
fragments 64 × gid + slot. -/

namespace Sys2Proof.Machine

-- Register results that have not been written yet ---------------------------------------------------------------

/-- One register value that an instruction writes: a lane of a vector register, a scalar, or bits of a predicate. -/
inductive RegVal
  | v (r lane : Nat) (x : Lane)
  | s (r : Nat) (x : Word)
  | p (r : Nat) (lanes x : Mask)
deriving DecidableEq, Repr

/-- A register that a pending result will write (R31). -/
inductive PendReg
  | v (r : Nat)
  | s (r : Nat)
  | p (r : Nat)
deriving DecidableEq, Repr

/-- A trap to raise: its cause, and TRAPVA and TRAPDATA where a rule gives them. -/
structure Fail where
  code : Code
  va : Option Word := none
  data : Option Word := none
  decode : Bool := false          -- raised by a decode check of R44
deriving DecidableEq, Repr

/-- A pending result (R31), or the result of an interlocked word until its latency has passed (R84): the registers, the values
once they are known, flags to OR into FPFLAGS (R64), the ck from which it may be written, and a trap found with the data (R201, 0x078). -/
structure Pend where
  regs : List PendReg
  vals : Option (List RegVal) := none
  flags : BitVec 5 := 0
  due : Nat := 0                  -- ck before which it is not written (R89, R110, R205)
  short : Bool := false           -- an interlocked result: no long-latency dependence (R89, R110, R145)
  fp : Bool := false              -- a floating-point result (R64)
  drain : Bool := false           -- a drain into scratch (R328)
  written : Bool := false         -- its values are in the registers; its flags are not set yet (R64)
  bad : Option Fail := none
  pc : Word := 0                  -- the word that opened it
  slot : Nat := 0                 -- the fragment slot of that word
  need : Nat := 0                 -- answers of a CADDV.ret still to come
  got : List RegVal := []         -- lanes of a CADDV.ret answered so far
deriving DecidableEq, Repr

-- Fragments -----------------------------------------------------------------------------------------------------

/-- The states of a live fragment (R144). -/
inductive FragSt
  | active | pending | waitC | waitT | waitL | waitB | stallT | join
deriving DecidableEq, Repr

/-- What a waiting fragment waits for. -/
inductive WaitFor
  | none
  | results (l : List Nat)        -- the pending results its next word touches (R31)
  | acquire                       -- the answers to its acquires (R251)
  | busy (ck : Nat)               -- the end of what its word does, which takes until that ck
  | answer                        -- a counter, ring, copy or hub answer
  | tokens (m : Wait)             -- every named token at zero (R33, R178)
  | engineQueue                   -- a place in the engine queue, or the end of an MMA.rep (R310)
  | page (va : Nat)               -- the page of an address, which the page service resolves (R353)
  | pageHere                      -- the end of a fault park whose page has come (R353)
  | accesses (lanes ops : List Nat) -- accesses that used translations which its TLBI dropped: lane copies and counter operations (R360)
  | service                       -- a place in the service call queue (R447)
  | deadline (ck since : Nat)     -- HALT, entered at ck since (R432)
  | park                          -- the wait of PARK (R431)
  | baton                         -- the grant of the baton, in BATON (R312)
  | heldBaton                     -- the grant of the baton that its team held when it was saved (R314)
deriving DecidableEq, Repr

/-- A fragment in a slot (R78, R144, R145, R170). -/
structure Frag where
  em : Mask
  pc : Word
  st : FragSt
  why : WaitFor := .none
  rcd : Option Nat := none        -- innermost record
  jpc : Word := 0                 -- address of the JOIN it waits at
  active : Option Nat := none     -- ck at which it entered the active set; none outside it
  ready : Option Nat := none      -- ready age (R145): none while not ready
  waitedAt : Option Nat := none   -- ck at which it was seen to wait while in the active set (R147)
  wins : List (Nat × Nat) := []   -- results it opened or inherited, and the words that each window still covers (R31, R32)
  acquires : List Nat := []       -- its acquires that are not answered (R251)
  counted : Option Word := none   -- address of the word that its windows have counted last (R32)
deriving DecidableEq, Repr

/-- A reconvergence record (R170). -/
structure Rec where
  tok : BitVec 8
  exp : Mask
  par : Option Nat
deriving DecidableEq, Repr

/-- A held entry (R170): READY, or JOINED at jpc. -/
structure Held where
  em : Mask
  pc : Word
  rcd : Option Nat
  joined : Bool
  jpc : Word
  wins : List (Nat × Nat) := []   -- open windows of a READY entry (R32)
  acquires : List Nat := []       -- its acquires that are not answered (R251)
deriving DecidableEq, Repr

/-- Trap fields: of a system group's registers (R424, R433), or of a team's context record (R420). -/
structure TrapRegs where
  v : Bool := false
  code : Code := 0
  pc : Word := 0
  va : Word := 0
  data : Word := 0
  em : Mask := 0
  slot : Nat := 0
  grp : Nat := 0
  ck : Nat := 0                   -- CLOCK when it was raised
  atIssue : Bool := false         -- raised at issue, not by a copy, the engine or a ring (R415)
  seq : Nat := 0                  -- order of issue of the copy or operation that raised it (R415)
deriving DecidableEq, Repr

/-- The registers of a group (R78). s0 and p0 are constants and are not held. -/
structure Group where
  v : Cells Lane := []            -- key 32 × register + lane
  s : Cells Word := []
  p : Cells Mask := []
  pends : Tab Pend := []          -- pending results by number, oldest first
  fpflags : BitVec 5 := 0         -- NV DZ OF UF NX (R63)
  tok : Cells Nat := []           -- t0 to t7 (R282)
  recs : Tab Rec := []
  held : List Held := []
  trap : TrapRegs := {}           -- system groups (R433)
  vbase : Word := 0               -- VBASE (R433)
  slot : Nat := 0                 -- its group slot and home fragment slot (R143)
deriving DecidableEq, Repr

/-- Which fragment a word acts for. -/
structure Cur where
  gid : Nat
  slot : Nat
deriving DecidableEq, Repr

/-- The team of a group number. -/
def Cur.team (c : Cur) : Nat := c.gid / 16
/-- GRPID (R85). -/
def Cur.grp (c : Cur) : Nat := c.gid % 16
/-- The number of a fragment. -/
def Cur.fid (c : Cur) : Nat := 64 * c.gid + c.slot

-- Counters --------------------------------------------------------------------------------------------------------

/-- A counter after its operand has been checked (R212, R213, R230): the null counter, a word of memory at a
physical address, a scratch counter of a team, or a peer's counter behind an NTB window. -/
inductive Ctr
  | null
  | mem (pa : Nat)
  | scr (team idx : Nat)
  | peer (pa : Nat)
deriving DecidableEq, Repr

/-- Who waits or asks at a home (R222, R224): a fragment's operation (with its pair of a CWAITA), a queue's tail
wait or CWAIT packet, or a CWAIT node of a graph. -/
inductive Who
  | frag (fid pair : Nat)
  | tail (queue : Nat)
  | packet (queue : Nat)
  | node (graph node : Nat)
  | token (gid tok copy : Nat)    -- a copy's completion add: its answer ends the copy and lowers the token (R282)
  | msi (hub : Nat)               -- an interrupt converter (R452)
  | port (hub : Nat) (ret : Bool) -- inbound adds of hosts and peers (R229, R230)
  | nobody
deriving DecidableEq, Repr

/-- What a counter operation does at its home (R218 to R220). -/
inductive CtrDo
  | add (v : Word)
  | wait (t : Word)
  | read
  | test (t : Word)
  | set (v : Word)
deriving DecidableEq, Repr

/-- A counter operation on its way to its home (R220), with its scope, whether it releases or acquires, the pending
result that its answer fills, the lanes a CADDV request serves, and the team that issued it. -/
structure CtrOp where
  ctr : Ctr
  act : CtrDo
  who : Who
  scope : Option Nat := none      -- scope entry of .rel or .acq
  pend : Option Nat := none       -- number of the pending result (old value, CREAD, CTEST)
  reg : Nat := 0                  -- destination register
  lanes : List (Nat × Word) := [] -- CADDV lanes with their values
  team : Nat := 0
  pasid : Nat := 0
  va : Word := 0                  -- the operand, for TRAPVA
  seq : Nat := 0                  -- order of issue of one fragment's operations
  since : Nat := 0
  retried : Bool := false         -- refused at its home (R224)
  pc : Word := 0
deriving DecidableEq, Repr

/-- What a home answers. -/
inductive AnsVal
  | reached
  | value (x : Word)
  | bool (b : Bool)
  | trap (code : Code)
  | done
deriving DecidableEq, Repr

/-- An answer on its way to its asker (R223, R237). -/
structure Ans where
  op : CtrOp
  val : AnsVal
deriving DecidableEq, Repr

/-- A waiter entry (R222). -/
structure Waiter where
  op : CtrOp
  t : Word
  ctx : Nat
deriving DecidableEq, Repr

/-- A counter home (R217, R224): general and reserved entries, oldest first, and the retry queue. -/
structure Home where
  general : List Waiter := []
  reserved : List Waiter := []
  retry : List CtrOp := []
deriving DecidableEq, Repr

-- Teams -----------------------------------------------------------------------------------------------------------

/-- What a ring operation does at its home (R273 to R275): the records of a push, the lanes of em of a pop with its first register and
its predicate, or the first register of a reading. -/
inductive RingDo
  | push (recs : List (BitVec 256))
  | pop (em : Mask) (d p : Nat) (acq : Bool)
  | info (d : Nat)
deriving DecidableEq, Repr

/-- A ring operation that its home has received (R270): who issued it, by X = 1 or not, from which cluster core index, and the pending
result that it fills. -/
structure RingOp where
  act : RingDo
  who : Cur
  x : Bool
  idx : Nat
  pend : Nat := 0
  pc : Word
  since : Nat                     -- ck of its arrival
  due : Nat                       -- ck before which its fragment or its result does not go on (R276)
  seq : Nat                       -- its place among the counter operations of its fragment (R255)
deriving DecidableEq, Repr

/-- An accepted push that has not been published: its records, its fragment, and its place in the order of R220 (R273). -/
structure Batch where
  count : Nat
  fid : Nat
  seq : Nat
deriving DecidableEq, Repr

/-- A ring (R267, R269): counts, capacity, declared occupancy, banks added, and its records from HEAD to TAIL with
the on-chip ones first. -/
structure Ring where
  tail : Nat := 0
  pub : Nat := 0
  head : Nat := 0
  cap : Nat
  base : Nat                      -- capacity declared (R263)
  w : Nat
  spilled : Nat := 0
  added : Nat := 0                -- banks added by BMODE (R279)
  recs : Cells (BitVec 256) := [] -- key: record number
  batches : List Batch := []      -- accepted pushes not yet published, oldest first (R273)
  arrived : List RingOp := []     -- operations of cluster peers that have arrived, in the order of R270
  held : List RingOp := []        -- pushes held until a spill slot is free, oldest first (R269)
deriving DecidableEq, Repr

/-- Where a team is in its life (R151 to R155, R179, R374, R415). -/
inductive RunSt
  | placed                        -- placed and not yet dispatched: its scratch slices are being written (R389)
  | resident
  | parking (step : Nat)          -- steps 1 to 4 of R152
  | parked
  | preempting                    -- a pre-emption waits for its save (R418)
  | stopped                       -- trapped; the stop of R415 is due
  | trapped                       -- stopped: its entry is logged and the service decides (R417)
  | relaunch                      -- saved or pre-empted, and queued for relaunch (R154, R374)
  | ended
deriving DecidableEq, Repr

/-- The debug block of a team (R420, R446). -/
structure Debug where
  cmp : Cells Word := []          -- comparators 0 to 3: address [63:3], mode [1:0]
  step : Bool := false
  budget : Option Nat := none
  skip : Bool := false
  stepped : Bool := false         -- a word has issued since STEP last stopped the team
deriving DecidableEq, Repr

/-- A BMODE of a team (R430): who issued it, its transition, and the ck at which its switch began. -/
structure Switch where
  who : Cur
  pc : Word
  tr : BankTr
  q : Nat
  begun : Option Nat := none
deriving DecidableEq, Repr

-- Copies and the engine ----------------------------------------------------------------------------------------------

/-- A layout record as read (R292). -/
structure LayoutRec where
  bcols : Nat
  brows : Nat
  planes : Nat
  inner : Nat
  order : List Nat
  ndim : Nat
  esz : Nat
  size : List Nat
  width : Nat
  shift : Nat
  unit : Nat
  smode : Nat
  stride : List Int
deriving DecidableEq, Repr

/-- What a bulk copy does (R297, R299, R370, R388). -/
inductive CopyKind
  | tensor (l : LayoutRec) (store scr : Bool) (base packed : Word) (org : List Int) (ext : List Nat)
  | fill (scr : Bool) (dst : Word) (len : Nat) (size : Nat) (v : BitVec 128)
  | linear (src dst : Word) (len : Nat)
deriving DecidableEq, Repr

/-- A completion add of a packet or node: the counter operand, the value, and the release scope (R369). -/
structure DoneAdd where
  ctr : Word
  val : Nat
  scope : Option Nat
deriving DecidableEq, Repr

/-- Who a copy answers to when it ends. -/
inductive CopyFor
  | group (gid tok : Nat)
  | packet (queue idx : Nat) (done : Option DoneAdd)
  | node (graph node : Nat) (done : Option DoneAdd)
deriving DecidableEq, Repr

/-- The completion add of a copy (R290): its counter, operand and scope entry. -/
structure CopyAdd where
  ctr : Ctr
  va : Word
  scope : Nat
deriving DecidableEq, Repr

/-- Where a checked piece of a copy lies: memory, scratch of a team, or the scratchpad of a system core. -/
inductive At
  | mem (pa : Nat)
  | scr (team off : Nat)
  | pad (core off : Nat)
deriving DecidableEq, Repr

/-- What a scratch address names after its checks. -/
inductive Scr
  | cell (team off : Nat)
  | pad (core off : Nat)          -- the scratchpad of a system core, which its groups share (R199)
  | counter (team idx : Nat)
deriving DecidableEq, Repr

/-- A code with the address at which it arose. -/
abbrev Bad := Code × Nat

/-- A piece of an access that is performed piece by piece (R200, R246). What it reads goes under a number of the access. -/
inductive Piece
  | load (k pa type n va : Nat)                 -- as an ordinary load reads
  | ro (k launch pa n va : Nat)                 -- on the read-only path
  | scr (k : Nat) (x : Scr) (n : Nat)
  | store (pa : Nat) (l : List Byte)            -- as an ordinary store writes
  | get (l : List (Nat × At × Nat))             -- one granule of what a copy or an endpoint reads: number, place, bytes
  | put (l : List (At × List (Byte × Bool)))    -- one granule of what it writes, with poison marks
  | red (k pa n : Nat) (op : MemRed) (b : Nat)  -- a lane of a RED: in L1 whole, at the home its read
  | redPut (pa : Nat) (l : List Byte)           -- the write of a RED at the home (R260)
deriving DecidableEq, Repr

/-- What follows the last piece of an access. -/
inductive After
  | nothing
  | load (gid pid : Nat) (vec : Bool) (sz : Sz) (n : Sgn) (d : Nat) (lanes : List (Nat × Nat)) -- each lane with its pieces
  | red (gid pid : Nat) (wide : Bool) (d : Nat) (lanes : List Nat)
  | chunk (copy lo hi : Nat) (dst : List At)    -- a chunk has been read
  | chunkEnds (copy hi : Nat)
  | lanes (copy : Nat)                          -- the lanes of a CPY have been read
  | laneEnds (copy : Nat)
  | reply (fn : Nat)                            -- an endpoint's read is answered
deriving DecidableEq, Repr

/-- An access whose pieces are being performed (R200): its core's L1 if it uses one, the pieces to do, what was read, the poison met. -/
structure Torn where
  core : Option Nat := none
  team : Option Nat := none
  todo : Tab Piece := []
  got : Tab (List (Byte × Bool)) := []
  bad : Tab Bad := []
  next : After := .nothing
deriving DecidableEq, Repr

/-- An outstanding bulk copy (R286, R300 to R304). -/
structure Copy where
  kind : CopyKind
  own : CopyFor
  ctr : Option CopyAdd := none
  prog : Nat := 0
  running : Bool := false
  stalled : Bool := false         -- on a fault that the page service resolves (R301)
  faultVa : Nat := 0
  failed : Bool := false          -- stopped at a fault that it raised in its team (R301)
  cancel : Bool := false
  adding : Bool := false          -- every chunk is performed; its completion add is on its way
  die : Nat := 0
  pc : Word := 0
  pasid : Nat := 0
  team : Nat := 0
deriving DecidableEq, Repr

/-- An outstanding lane copy (R291): source and destination of each active lane, in lane order. -/
structure LaneCopy where
  gid : Nat
  tok : Nat
  size : Nat
  lanes : List (At × At)
  ctr : Option CopyAdd := none
  pc : Word := 0
  pasid : Nat := 0
  cancel : Bool := false
  adding : Bool := false          -- its writes are made; its completion add is on its way
deriving DecidableEq, Repr

/-- A format block as read (R315). -/
structure FmtBlk where
  anb : Nat
  bmid : Bool
  bp : Nat
  bbl : Nat
  bsc : Bool
  bfmt : Nat
  abl : Nat
  asc : Bool
  afmt : Nat
  ascale : Nat
  bscale : Nat
  astep : Nat
  bstream : Nat
  bstep : Nat
deriving DecidableEq, Repr

/-- An engine operation (R310). -/
inductive EngOp
  | mbq (q : Nat) (c : Bool) (data : Cells Byte)
  | mbqs (q : Nat) (c : Bool) (addr : Nat) (tok : Nat)
  | mma (f : FmtBlk) (tile a : Nat) (comp : Bool) (rep prog tok : Nat)
  | mzero (tile cnt : Nat)
  | mloada (tile : Nat) (data : Cells Lane)
  | mdrain (tile rg nrg : Nat) (dt : DrainTy) (ty : AccTy) (rm : Rm) (bl : Bl) (dst : Option Nat) (reg pend : Nat) (em : Mask)
deriving DecidableEq, Repr

/-- A queued engine operation: who issued it, and when its step began. -/
structure EngEnt where
  op : EngOp
  who : Cur
  pc : Word
  narrow : Bool := false
  id : Nat := 0                   -- order of issue
  failed : Bool := false          -- stopped at a fault that it raised in its team (R324)
deriving DecidableEq, Repr

/-- A team: a compute team of a grid, a system group's team, or the run of a launch prologue, by its kind. -/
structure Team where
  kind : Mode
  launch : Nat := 0
  lin : Nat := 0                  -- TEAMLIN (R85)
  core : Nat := 0                 -- COREID; cores of systemCore base and above are system cores
  groups : Nat := 1
  nregs : Nat := 128
  ctx : Nat := 0                  -- context number (R340)
  pasid : Nat := 0
  dims : Nat × Nat × Nat := (1, 1, 1)
  clu : Nat × Nat := (1, 1)       -- cols, rows (R140)
  idx : Nat := 0                  -- cluster core index
  peers : List Nat := []          -- teams of the cluster by cluster core index (R196)
  run : RunSt := .resident
  scratch : Cells Byte := []      -- key: team-relative address
  bs : Nat := 0
  switches : List Switch := []    -- its BMODEs, oldest first; the first one's switch may be in progress (R430)
  scnt : Cells Word := []         -- scratch counters 0 to 63 (R213)
  rings : Tab Ring := []
  ringOrder : List Nat := []      -- rings that BMODE gave banks to, newest first (R279)
  spill : Option Nat := none      -- its spill area (R265)
  ntiles : Nat := 0
  tiles : Cells Lane := []        -- key: tile × 4096 + 64r + c (R308)
  dsat : Bool := false
  fnan : Bool := false
  iovf : Bool := false            -- ENGSTAT (R330)
  thresh : Nat := 20              -- park threshold in microseconds (R151)
  npark : Nat := 0
  nfail : Nat := 0
  gsync : Bool := false
  paged : Bool := false
  stagePos : Nat := 0             -- bytes of its scratch slices that are written (R389)
  eligible : Option Nat := none   -- ck since which it is park-eligible (R151)
  parkNow : Bool := false         -- PARK or a fault park is in force (R431, R353)
  trap : TrapRegs := {}           -- trap fields of its record (R420)
  dbg : Debug := {}
  ended : List Nat := []          -- groups that have ended (R179)
  queue : Nat := 0                -- queue of its launch; hub of a prologue run
  packet : Nat := 0
  level : Nat := 0                -- priority after aging
  watch : Nat := 0                -- a prologue's start (R378)
  savedBaton : Option Nat := none -- the group that held the baton when saved (R314)
  savedQueue : List Nat := []     -- its entries of the baton queue when saved
  savedLatches : List (Nat × Bool × Cells Byte) := []
  savedOps : List EngEnt := []    -- its stopped MMA.rep, or operations stopped at a fault (R314, R415)
  installed : Bool := true        -- false until its saved quarters are installed again (R314)
  cause : Code := 0               -- why it is pre-empted (R413, R417)
  saveAt : Option Nat := none     -- the save area it took (R157)
  unlogged : Bool := false        -- the entry of the trap that stopped it is not written yet (R416)
  extra : Bool := false           -- that area was set aside for it alone at retention entry (R474)
deriving DecidableEq, Repr

/-- A B-quarter latch with its tags (R307, R309). -/
structure Latch where
  valid : Bool := false
  team : Nat := 0
  comp : Bool := false
  data : Cells Byte := []
deriving DecidableEq, Repr

-- Cores -----------------------------------------------------------------------------------------------------------------

/-- The mode of a configurable bank (R182, R186): an L1 way, SCRATCH bank `num` of a team, a RING bank that a team got at dispatch
(nth = 0) or by its nth BMODE to ring q (R279), or a bank that BMODE is switching. -/
inductive BankMode
  | way
  | scratch (team num : Nat)
  | ring (team q nth : Nat)
  | switching (team : Nat)
deriving DecidableEq, Repr

/-- A 64-byte sector of L1 (R188, R190, R191). -/
structure Sector where
  data : Cells Byte := []         -- key 0 to 63
  dirty : BitVec 64 := 0
  lt : Nat := 0                   -- LT when it was filled
  oldest : Option Nat := none     -- ck of its oldest unwritten store
deriving DecidableEq, Repr

/-- A cached translation of one page (R346, R348); table is the tag of a G = 1 leaf. -/
structure TlbEnt where
  pasid : Nat
  table : Option Nat := none
  vpn : Nat                       -- the page's first 64 KiB unit
  pte : Word
  size : Nat                      -- page size in 64 KiB units
deriving DecidableEq, Repr

/-- A core (R17, R18). -/
structure Core where
  lt : Nat := 0                   -- logical time (R191)
  l1 : Tab Sector := []           -- key: physical address div 64
  ro : Tab Sector := []           -- read-only sectors; key: (launch + 1) × 2^40 + physical address div 64 (R208)
  lines : Tab Nat := []           -- lines of L1, key: sector key div 4, and the way that holds each (R188)
  pad : Cells Byte := []          -- the scratchpad of a system core (R199)
  banks : Cells BankMode := []    -- banks 8 to 23, unlisted WAY
  tlb : List TlbEnt := []
  holder : Option Nat := none     -- gid that holds the baton (R307)
  grantTo : Option Nat := none    -- the target of a BPASS that waits for the engine (R312)
  batonQ : List Nat := []
  latches : Tab Latch := []       -- quarters 0 to 3
  engine : List EngEnt := []      -- oldest first, at most 16
  narrow : Bool := false
  nck : BitVec 32 := 0
  pipes : Nat × Nat := (0, 0)     -- a ck, and the ALU pipes that a VNPK still occupies in it (R110)
  dtuFree : Nat := 0              -- ck at which the DTU accepts again (R110)
  divFree : Nat := 0              -- ck at which the scalar divider accepts again (R89)
deriving DecidableEq, Repr

-- The front end ------------------------------------------------------------------------------------------------------------

/-- A kernel descriptor as read (R375). -/
structure Desc where
  regs : Nat := 32
  groups : Nat := 1
  cols : Nat := 1
  rows : Nat := 1
  acct : Nat := 0
  gsync : Bool := false
  paged : Bool := false
  park : Nat := 0
  nws : Nat := 0
  entry : Word := 0
  scr : Nat := 0
  plen : Nat := 0
  wset : Word := 0
  prol : Word := 0
  rings : List (Nat × Nat × Nat) := []   -- ring, capacity, worst case
deriving DecidableEq, Repr

/-- A working-set range as read (R380). -/
structure WRange where
  va : Nat
  bytes : Nat
  stride : Nat
  soff : Nat
  sbank : Nat
  hbm : Bool
  prio : Nat
  intent : Nat
  target : Nat
deriving DecidableEq, Repr

/-- A packet as taken (R367 to R369). -/
structure Packet where
  idx : Nat
  type : Nat
  ord : Bool
  sc : Nat
  bar : Bool
  f : List Word                   -- the words at offsets 8, 16, 24, 32, 40
  desc : Option Desc := none      -- the kernel descriptor of a LAUNCH, read when the packet was taken (R375)
deriving DecidableEq, Repr

/-- The step of the packet in progress (R371). -/
inductive PStep
  | idle                          -- no packet taken
  | taken
  | prologue (run : Nat)
  | admission
  | again (run : Nat)             -- step 3: waiting for an earlier launch of a PREPEAT
  | copying (copy : Nat)
  | waiting
  | waitAgain                     -- a CWAIT whose queue was suspended: it waits afresh on resumption (R372)
  | room                          -- GRAPH, step 1
  | loading                       -- GRAPH, step 2
deriving DecidableEq, Repr

/-- An attached queue (R364 to R367). -/
structure Queue where
  pasid : Nat
  hub : Nat
  qcb : Nat                       -- physical address of the QCB
  prio : Nat
  ctx : Nat
  base : Word
  lsz : Nat
  tail : Word
  head : Word
  fault : Word
  scope : Word
  slice : Nat                     -- microseconds
  park : Nat
  wdog : Nat                      -- milliseconds
  refuse : Nat                    -- microseconds, 0 disabling
  ppool : Nat                     -- 64 KiB units
  pool : Nat := 0                 -- its park pool's address (R157)
  fields : Nat
  next : Nat := 0
  step : PStep := .idle
  fcause : Code := 0
  fpc : Word := 0
  fidx : Nat := 0
  mark : Word := 0
  pkt : Option Packet := none
  launch : Option Nat := none     -- launch or graph of the packet in progress
  live : List Nat := []           -- indices of packets that retired and have not ended
  halted : Bool := false
  stopped : Bool := false         -- the directory entry stops taking (R363)
  suspended : Bool := false       -- R372
  detach : Bool := false
  tailWait : Bool := false        -- its waiter on TAIL is placed
  reached : Bool := false         -- TAIL has reached NEXT + 1, or advanced while taking has stopped (R363)
  malformed : Bool := false       -- the last reread of word 0 found it malformed (R366)
  detached : Bool := false        -- it has left its FE; packets of it that had retired still run (R365)
  sliceStart : Option Nat := none
  sliceUsed : Nat := 0            -- cks of the slice that ran before its last resident team left (R374)
  since : Nat := 0                -- ck of its last reread (R363)
  deps : Option (List Nat) := some []  -- fields of the launches that ended; none after another producer (R394)
deriving DecidableEq, Repr

/-- The step of a launch (R371, R378, R379). -/
inductive LaunchStep
  | prologue                      -- its prologue waits for an engine
  | inPrologue
  | admission
  | admitted
deriving DecidableEq, Repr

/-- What a launch answers to. -/
inductive LaunchFor
  | packet (queue idx : Nat)
  | node (graph node : Nat)
deriving DecidableEq, Repr

/-- A launch (R375 to R395). -/
structure Launch where
  desc : Desc
  queue : Nat
  own : LaunchFor
  pasid : Nat
  ctx : Nat
  dims : Nat × Nat × Nat := (1, 1, 1)
  grid : Word := 0
  args : Word := 0
  arg0 : Word := 0                -- the packet's argument block, in s1 of every prologue run (R378)
  done : Option DoneAdd := none
  ranges : List WRange := []
  lease : List Nat := []          -- leased 64 KiB pages
  leaves : List Nat := []         -- the addresses of their leaves
  step : LaunchStep := .admission
  total : Nat := 0                -- T
  nextTeam : Nat := 0             -- next TEAMLIN to dispatch
  left : Nat := 0                 -- teams that have not ended
  fieldsRan : List Nat := []      -- R394
  staged : List Nat := []         -- TEAMLINs whose L2 slices are staged
  charged : List Nat := []        -- lines that it is charged for (R386)
  paid : List Nat := []           -- lines that it was charged for and is not charged for again (R386)
  unplaced : List Nat := []       -- TEAMLINs that were placed and whose staging was cancelled, ascending (R390)
  waits : Nat := 0                -- ck at which it last took cores, or was admitted (R373)
  spill : Nat × Nat := (0, 0)     -- spill areas: base and bytes of all of them (R265)
  reserve : Nat × Nat := (0, 0)   -- park reserve: base and bytes (R158)
  cold : Nat × Nat := (0, 0)      -- cold waiter reservation (R225)
  run : Nat := 0                  -- run index of its prologue (R378)
  repeats : Bool := false         -- its prologue ended with PREPEAT and runs again (R379)
  failed : Option Code := none
  since : Nat := 0
  deps : Option (List Nat) := some []  -- fields of the launches it depends on; none when some producer is none (R394)
deriving DecidableEq, Repr

/-- A loaded node (R398, R402). -/
structure GNode where
  word : Word                     -- its structure word
  table : List Nat := []          -- SWITCH
  arr : Nat := 0
  it : Nat := 0
  running : Bool := false
  due : Bool := false             -- started, its effect not yet made
  asked : Option CtrOp := none    -- CWAIT: the wait that a suspension withdrew, asked afresh on resumption (R408)
  args : List Word := []          -- the argument fields read so far, while a start reads them one by one (R404)
deriving DecidableEq, Repr

/-- A running graph (R400 to R408). -/
structure Graph where
  va : Word
  arg : Word
  queue : Nat
  idx : Nat                       -- its packet's index
  pasid : Nat
  done : Option DoneAdd := none
  nodes : Tab GNode := []
  ended : Bool := false           -- END has started
  fault : Option (Code × Word) := none
  counted : Bool := false         -- its fault was a trap that R415 has counted
  since : Nat := 0                -- ck of the last start or end of a node
  deps : Option (List Nat) := some []  -- fields of its KERNEL nodes' launches; none after another node (R394)
deriving DecidableEq, Repr

/-- A context (R340, R159, R221, R459). -/
structure Ctx where
  pasid : Nat
  scopes : Tab (BitVec 1536) := []  -- entries 8 to 31 (R221, R429)
  wdog : Nat := 1000              -- milliseconds (R159)
  watch : Nat := 0                -- ck since which its watchdog counts
  killed : Bool := false
  suspended : Bool := false
  queues : List Nat := []
deriving DecidableEq, Repr

/-- An arbiter (R391): waiting requests as class and age, oldest first. -/
structure Arbiter where
  waiting : List (Nat × Nat) := []
  grants : Nat := 0
deriving DecidableEq, Repr

-- Memory engines and pages -----------------------------------------------------------------------------------------------

/-- A write that its home holds (R356, R361): its address and bytes, and whether they are marked poisoned (R187). -/
structure HeldWrite where
  pa : Nat
  data : List Byte
  bad : Bool := false
deriving DecidableEq, Repr

/-- A page migration in step 5 (R356): its leaves name the new frames, and the writes that its homes hold wait for the ATS
invalidations. -/
structure Migration where
  pasid : Nat
  va : Nat
  frame : Nat                     -- the first new frame, a physical address
  old : Nat                       -- the first old frame
  units : Nat                     -- 1, or 32 for a 2 MiB run
  held : List HeldWrite := []
deriving DecidableEq, Repr

/-- A saved team's trap and cause (R417, R420) with its place (R157, R416). -/
structure FaultEntry where
  queue : Nat := 0
  pasid : Nat := 0
  ctx : Nat := 0
  cend : Bool := false
  lend : Bool := false
  res : Bool := false
  code : Code := 0
  lin : Nat := 0
  pc : Word := 0
  va : Word := 0
  data : Word := 0
  record : Nat := 0
  packet : Nat := 0
  clock : Nat := 0
  team : Option Nat := none       -- the stopped team whose trap it reports; FAULT rises once it is written (R415)
deriving DecidableEq, Repr

/-- A numbered I/O lease (R458): direction 0 TO_DEVICE, 1 FROM_DEVICE, 2 BIDIR. -/
structure IoLease where
  pasid : Nat
  va : Nat
  bytes : Nat
  dir : Nat
deriving DecidableEq, Repr

/-- A quarantined range of a context that ended (R459). -/
structure Quar where
  ctx : Nat
  pasid : Nat
  pages : List (Nat × Nat)        -- virtual page address, physical address
  leases : List Nat := []         -- first addresses of its leases
  sealed : Bool := false
deriving DecidableEq, Repr

-- The root complex -----------------------------------------------------------------------------------------------------------

/-- A DBP binding (R448, R450). -/
structure Binding where
  pasid : Nat
  dbaddr : Nat
  qbase : Nat
  depth : Nat
  esz : Nat
  ctr : Ctr                       -- PUB
  pubVa : Word
  cons : Option Ctr := none
  follow : Bool
  seen : Word := 0                -- PUB at the last observation
  last : Option Nat := none       -- last tail written
  overrunLogged : Bool := false   -- 0x107 has been logged
deriving DecidableEq, Repr

/-- An accepted DBW whose doorbell write has not been made (R449). -/
structure Dw where
  binding : Nat
  tail : BitVec 32
  who : Cur
  team : Nat
  lin : Nat
  pc : Word
  sent : Bool := false
deriving DecidableEq, Repr

/-- An MSI binding (R451). -/
structure MsiBind where
  pasid : Nat
  ctr : Ctr
  va : Word
  data : Bool                     -- ADDDATA
  installing : Bool := false      -- its MSIB has issued but not completed (R452)
  valid : Bool := true            -- false while the first MSIB for it installs
deriving DecidableEq, Repr

/-- An endpoint queue that a driver made (R443, R444): kinds 0 to 2 a NIC's transmit, receive and completion queues, 3 an NVMe
queue pair; the pages of its doorbells. -/
structure EpQueue where
  id : Nat
  kind : Nat
  ctx : Nat
  pasid : Nat
  cq : Nat := 0xFFFF
  dbs : List Nat := []
deriving DecidableEq, Repr

/-- A function of an endpoint (R436, R445, R457). -/
structure Func where
  rid : Nat
  port : Nat
  sub : Nat
  state : Nat := 0
  driver : Nat := 0xFF            -- index in the image's driver table
  vid : Nat := 0
  did : Nat := 0
  cls : Nat := 0
  ats : Bool := false
  pri : Bool := false
  pasidEn : Bool := false
  refuse : Bool := false          -- translated requests refused (R457)
  master : Bool := false          -- Bus Master Enable (R436)
  speed : Nat := 0
  width : Nat := 0
  bars : List (Nat × Nat) := []   -- physical address and log2 of the size
  pasids : List Nat := []         -- PASIDs bound to it (R454)
  queues : List EpQueue := []
  filters : List Nat := []
  groups : List (Nat × Nat × Nat) := []  -- page request groups held: PASID, PRG index, requests (R455)
  pageReqs : Nat := 0             -- page requests outstanding (R455)
  given : List (Nat × Nat) := []  -- translations given to it: PASID, 64 KiB page (R454)
  stream : Option Nat := none
deriving DecidableEq, Repr

/-- A window of an NTB sub-link (R442, R462). -/
structure NtbWin where
  inbound : Bool
  ctr : Bool := false             -- attribute CTR
  pasid : Nat := 0
  off : Nat
  size : Nat
  tgt : Nat
deriving DecidableEq, Repr

/-- An IDE stream (R461): selective streams 0 to 63; 64 is the link stream of its sub-link. -/
structure Stream where
  keyed : Bool := false
  refreshing : Option Nat := none -- ck at which its transmitters switched
  insecure : Bool := false
deriving DecidableEq, Repr

/-- A sub-link (R434, R437, R442, R461, R464). mode: 0 root port, 1 NTB, 2 CXL, 3 disabled. -/
structure Sub where
  mode : Nat := 0
  width : Nat := 16
  parts : Nat := 1                -- sub-links of the port
  speed : Nat := 0
  up : Bool := false
  ide : Bool := false
  wins : Tab NtbWin := []         -- window number, plus 64 when inbound
  streams : Tab Stream := []
  cxlBytes : Nat := 0             -- installed capacity (R464)
  reported : Nat := 0             -- capacity that the device reports
  sanitized : Bool := false       -- the Sanitize command went to it (R361)
  peer : Option Nat := none       -- attached peer (R463)
  session : Nat := 0
deriving DecidableEq, Repr

/-- An outstanding request of the device (R437, R465). -/
inductive ReqKind
  | iold (gid slot pend reg size : Nat) (cfg : Bool)
  | cfgWrite (gid slot : Nat)
  | fetchAdd (op : CtrOp)
  | atsInv (who : Option Cur) (fn : Nat) (call : Option Nat)
  | driver (fn kind : Nat) (call : Option Nat)
deriving DecidableEq, Repr

structure Req where
  kind : ReqKind
  sub : Nat
  addr : Nat
  since : Nat
  team : Nat
  pc : Word
  va : Word
deriving DecidableEq, Repr

/-- A TLP that the device sends: address, bytes; none for a read. -/
structure Tlp where
  sub : Nat
  addr : Nat
  cfg : Bool := false
  data : Option (List Byte) := none
  size : Nat := 0
  poison : Bool := false
  refused : Bool := false         -- a completion with Unsupported Request or Completer Abort
deriving DecidableEq, Repr

/-- A service call (R439, R447): queued, or running since a ck. -/
structure Call where
  num : Nat
  hub : Nat
  block : Word
  ctr : Ctr
  ctrVa : Word
  pasid : Nat
  team : Nat
  lin : Nat
  since : Nat
  begun : Option Nat := none
  args : List Word := []
  step : Nat := 0
  overrun : Bool := false
  launch : Option Nat := none     -- the launch whose lease needs the page (R383)
  tier : Option Nat := none       -- a tier other than the leaf's (R383)
  who : Option Cur := none        -- a fragment whose call the queue has not accepted yet (R447)
  pc : Word := 0
  hold : Option Nat := none       -- since when a live update holds it (R482)
  longHold : Bool := false        -- that it is held beyond the bound has been logged
deriving DecidableEq, Repr

/-- A page request (R455, R468). -/
structure PageReq where
  fn : Nat
  pasid : Nat
  va : Nat
  prg : Nat
  last : Bool
  rd : Bool
  wr : Bool
deriving DecidableEq, Repr

/-- A hub (R14, R433, R416, R439, R452, R455). -/
structure Hub where
  fedir : Word := 0
  flogbase : Word := 0
  flogcfg : Nat := 6
  flogpctr : Word := 0
  flogcctr : Word := 0
  serrcnt : Word := 0
  banksel : Nat := 0
  flog : List FaultEntry := []    -- entries not yet written, oldest first
  fullSince : Option Nat := none  -- ck since which the fault log is full
  lastSoft : Cells Nat := []      -- structure: 1 + ck of its last soft-error entry (R426)
  msi : Tab MsiBind := []
  msiHeld : List (Nat × Nat × Nat) := []-- messages held while their binding installs: binding, bytes, value
  msiFull : Option Nat := none    -- ck of the last 0x12F
  prqBase : Word := 0             -- page request queue (R468)
  prqCtr : Word := 0
  prq : List PageReq := []
  recovery : Bool := false        -- its recovery core has been started (R424)
deriving DecidableEq, Repr

/-- The power state (R472, R474 to R477); `resuming n` has n steps of R476 behind it. -/
inductive Power
  | running
  | entering (cause : Code)       -- retention entry is in progress (R474)
  | retention
  | resuming (step : Nat)
  | off                           -- the supplies are removed (R472)
deriving DecidableEq, Repr

/-- Reasons for which the machine stops. -/
inductive Fault
  /-- Raised by every step after the supplies have been removed (R472). Safe: the spec gives an unpowered device no
  behaviour but loss of its state. -/
  | unpowered
deriving DecidableEq, Repr

/-- Reasons for which an instruction has no meaning. -/
inductive Refusal
  /-- Raised by an arm of exec whose instruction has no meaning yet. Safe. -/
  | notModelled (mnemonic : String)
deriving DecidableEq, Repr

/-- The state of the device. -/
structure State where
  clock : Nat := 0                          -- CLOCK (R19)
  mem : Cells Byte := []                    -- physical memory; unlisted bytes read zero (R361); from 2^60 the page service's backing
  poison : Cells Bool := []                 -- poisoned bytes (R187, R201)
  grants : Cells Bool := []                 -- write-grant bitmap, by 64 KiB frame (R358)
  wiped : Cells Bool := []                  -- wipe map: true where a region has been cleared (R361)
  wipeHeld : List HeldWrite := []           -- writes held until their region is cleared
  migrations : List Migration := []
  leases : Cells Nat := []                  -- lease count of a page, by the address of its leaf (R351)
  backing : Cells Bool := []                -- pages saved by PAGEOUT (R441), by PASID × 2^40 + page
  teams : Tab Team := []
  groups : Tab Group := []
  frags : Tab Frag := []
  cores : Tab Core := []
  fieldTlb : Tab (List TlbEnt) := []        -- by field
  tte : Tab (List TlbEnt) := []             -- by die
  ta : Tab (List TlbEnt) := []              -- by hub
  homes : Tab Home := []                    -- by home number
  cold : List Waiter := []                  -- cold waiter lists (R225), oldest first
  ops : Tab CtrOp := []                     -- counter operations on their way
  answers : Tab Ans := []                   -- answers on their way
  copies : Tab Copy := []
  copyQueue : Tab (List Nat) := []          -- engine queue of each die, oldest first (R286)
  laneCopies : Tab LaneCopy := []
  torn : Tab Torn := []                     -- the model's: accesses whose pieces are being performed (R200)
  queues : Tab Queue := []                  -- attached queues
  launches : Tab Launch := []
  graphs : Tab Graph := []
  ctxs : Tab Ctx := []                      -- by CTXID
  sysPasids : List Nat := []                -- PASIDs of the system image (R340)
  devAlloc : Cells Nat := []                -- areas of the device-structure range that the FE set aside: base, bytes
  stageq : Word := 0x2020202020202020
  arbiters : Tab Arbiter := []
  hubs : Tab Hub := []
  bindings : Tab Binding := []
  dws : Tab Dw := []
  ioLeases : Tab IoLease := []
  quarantine : Tab Quar := []
  subs : Tab Sub := []                      -- sub-link 8 × port + k
  funcs : Tab Func := []                    -- by the layout of PRGR's bits [22:0]
  reqs : Tab Req := []
  sent : List Tlp := []                     -- traffic sent to endpoints and peers, oldest first
  peers : Tab Nat := []                     -- peer number: sub-link
  calls : Tab Call := []
  fwVersion : Nat := 0
  fwMinimum : Nat := 0
  alarmAt : Nat := 18000                    -- amperes (R473)
  alarm : Bool := false
  power : Power := .running
  thermtrip : Bool := true                  -- THERMTRIP_N, high (R472)
  life : LifeCycle := .manufacture
  events : List Code := []                  -- event record of the security block (R478)
  sessions : Nat := 0                       -- debug sessions since reset (R480)
  cur : Cur := ⟨0, 0⟩                       -- the model's: the fragment whose word is being issued
  issueQ : List Cur := []                   -- the model's: fragments chosen to issue in this ck
  agenda : List Event := []                 -- the model's: steps that are due
  again : List Event := []                  -- the model's: steps offered again at the next ck
  order : List Nat := []                    -- the model's: which due step comes next
  tear : List Bool := []                    -- the model's: which accesses of several pieces are performed piece by piece
  nextId : Nat := 0                         -- the model's: fresh numbers
  fresh : Nat := 0                          -- the model's: counter behind free values
deriving DecidableEq, Repr

/-- The device at the end of the reset wipe (R478, R361): every field at the value that the rules or, where they
give none, the log state. Nothing is attached, resident or listed; two hubs stand at their register resets. -/
def State.reset : State :=
  { hubs := [(0, some { prqBase := 0xBFFFC00000#64, prqCtr := 0xBFFFD00000#64 })
             , (1, some { prqBase := 0xBFFFC80000#64, prqCtr := 0xBFFFD00010#64 })] }

end Sys2Proof.Machine
end

