-- ==== Sys2Proof/Machine/Operands.lean ====
section
/-! DEFINITION. Registers and operands: the register classes of R29 with their constants, guards and active lanes
(R30), the operand forms of the field tables, and the writing of results. -/

namespace Sys2Proof.Machine

-- Registers -------------------------------------------------------------------------------------------------------

/-- Scalar r; s0 reads zero (R29). -/
def Group.sget (g : Group) (r : Nat) : Word := if r = 0 then 0 else Cells.get 0 g.s r
/-- Scalar r written; a write to s0 is discarded (R29). -/
def Group.sset (g : Group) (r : Nat) (x : Word) : Group :=
  if r = 0 then g else { g with s := Cells.set 0 g.s r x }
/-- Lane i of vector register r. -/
def Group.vget (g : Group) (r i : Nat) : Lane := Cells.get 0 g.v (32 * r + i)
/-- Lane i of vector register r written. -/
def Group.vset (g : Group) (r i : Nat) (x : Lane) : Group := { g with v := Cells.set 0 g.v (32 * r + i) x }
/-- Predicate r; p0 reads all ones (R29). -/
def Group.pget (g : Group) (r : Nat) : Mask := if r = 0 then BitVec.allOnes 32 else Cells.get 0 g.p r
/-- The bits of predicate r that `lanes` names written; a write to p0 is discarded (R29). -/
def Group.pset (g : Group) (r : Nat) (lanes x : Mask) : Group :=
  if r = 0 then g
  else { g with p := Cells.set 0 g.p r (Cells.get 0 g.p r &&& ~~~lanes ||| (x &&& lanes)) }
/-- Count of token t (R282). -/
def Group.tget (g : Group) (t : Nat) : Nat := Cells.get 0 g.tok t
/-- Count of token t written. -/
def Group.tset (g : Group) (t n : Nat) : Group := { g with tok := Cells.set 0 g.tok t n }

/-- Lane i of the vector pair at r, as a 64-bit value: low word in the even register (R29). -/
def Group.pairGet (g : Group) (r i : Nat) : Word := (g.vget (r + 1) i ++ g.vget r i).cast rfl
/-- The two lane values of a 64-bit value for the pair at r. -/
def pairVals (r i : Nat) (x : Word) : List RegVal :=
  [.v r i (x.extractLsb' 0 32), .v (r + 1) i (x.extractLsb' 32 32)]

/-- One register value written. -/
def Group.put (g : Group) : RegVal → Group
  | .v r i x => g.vset r i x
  | .s r x => g.sset r x
  | .p r m x => g.pset r m x

/-- Register values written in order. -/
def Group.puts (g : Group) (l : List RegVal) : Group := l.foldl Group.put g

/-- FPFLAGS with flags ORed in (R62, R63). -/
def Group.raiseFlags (g : Group) (f : BitVec 5) : Group := { g with fpflags := g.fpflags ||| f }

-- Guards and lanes ---------------------------------------------------------------------------------------------

/-- The lanes of a guard or selector: its predicate, complemented when negated (R30, R96). -/
def Group.guard (g : Group) (x : Guard) : Mask := if x.neg then ~~~(g.pget x.p.val) else g.pget x.p.val
/-- active(): the lanes of em that the guard admits (R12, R30). -/
def activeLanes (f : Frag) (g : Group) (x : Guard) : Mask := f.em &&& g.guard x
/-- The guard of a scalar or branch instruction is true when em AND g is not zero (R30). -/
def guardTrue (f : Frag) (g : Group) (x : Guard) : Bool := activeLanes f g x != 0

-- Operand forms -------------------------------------------------------------------------------------------------

/-- Lane i of a source that may be a scalar serving every lane (SB of R88 and R112). -/
def Group.src (g : Group) (b : VSrc) (i : Nat) : Lane :=
  match b with
  | .vec r => g.vget r.val i
  | .sca r => (g.sget r.val).setWidth 32

/-- A scalar shift amount (R92). -/
def Group.amount (g : Group) (b : ShAmt) : Nat :=
  match b with
  | .reg r => (g.sget r.val).toNat
  | .imm n => n.val

/-- A vector shift amount in lane i (R102). -/
def Group.vamount (g : Group) (b : VShAmt) (i : Nat) : Nat :=
  match b with
  | .src x => (g.src x i).toNat
  | .imm n => n.val

/-- A lane number (R131). -/
def Group.laneSel (g : Group) (k : LaneSel) : Nat :=
  match k with
  | .reg r => (g.sget r.val).toNat % 32
  | .imm k => k.val

/-- The value of CADD (R234): bits [31:0] of a scalar, or IMM. -/
def Group.cval (g : Group) (v : CVal) : Word :=
  match v with
  | .reg r => ((g.sget r.val).setWidth 32).setWidth 64
  | .imm n => n.setWidth 64

-- The fragment whose word is being issued ------------------------------------------------------------------------

/-- The fragment of a word with its group and team. -/
structure Now where
  t : Team
  g : Group
  f : Frag

/-- The fragment c with its group and team, if all three exist. -/
def State.at' (s : State) (c : Cur) : Option Now :=
  match s.teams.find c.team, s.groups.find c.gid, s.frags.find c.fid with
  | some t, some g, some f => some ⟨t, g, f⟩
  | _, _, _ => none

/-- The fragment whose word is being issued. -/
def State.now (s : State) : Option Now := s.at' s.cur

def State.putTeam (s : State) (t : Nat) (x : Team) : State := { s with teams := s.teams.put t x }
def State.putGroup (s : State) (c : Cur) (x : Group) : State := { s with groups := s.groups.put c.gid x }
def State.putFrag (s : State) (c : Cur) (x : Frag) : State := { s with frags := s.frags.put c.fid x }
def State.updTeam (s : State) (t : Nat) (h : Team → Team) : State := { s with teams := s.teams.upd t h }
def State.updGroup (s : State) (c : Cur) (h : Group → Group) : State := { s with groups := s.groups.upd c.gid h }
def State.updFrag (s : State) (c : Cur) (h : Frag → Frag) : State := { s with frags := s.frags.upd c.fid h }
/-- A core changed; a core that has no record yet is an idle one. -/
def State.core (s : State) (k : Nat) : Core := (s.cores.find k).getD {}
def State.putCore (s : State) (k : Nat) (x : Core) : State := { s with cores := s.cores.put k x }
def State.hub (s : State) (h : Nat) : Hub := (s.hubs.find h).getD {}
def State.putHub (s : State) (h : Nat) (x : Hub) : State := { s with hubs := s.hubs.put h x }
/-- Steps that become due, after those that are due already. -/
def State.due (s : State) (l : List Event) : State := { s with agenda := s.agenda ++ l }

-- Cores -----------------------------------------------------------------------------------------------------------

/-- The number by which the model names system core n (R16); smaller numbers are compute cores. DEDUCED (log 39). -/
def sysCore (n : Nat) : Nat := 2048 + n
/-- The number by which the model names the prologue engines of a hub. -/
def feCore (h : Nat) : Nat := 4096 + h
def isSysCore (k : Nat) : Bool := 2048 ≤ k && k < 4096
def isFeCore (k : Nat) : Bool := 4096 ≤ k
/-- The hub of a core: its own for a system core or a prologue, the die's for a compute core (R14). -/
def hubOfCore (k : Nat) : Nat :=
  if isFeCore k then k - 4096 else if isSysCore k then (k - 2048) / 16 else k / 768
/-- The die of a compute core; the die whose bulk engines serve a hub's parties (R15, R286). -/
def dieOfCore (k : Nat) : Nat := if 2048 ≤ k then 4 * hubOfCore k else k / 192
/-- The field of a compute core (R15). -/
def fieldOfCore (k : Nat) : Nat := k / 96
/-- Fragment slots below this number are home slots (R143, R150). -/
def homeSlots (k : Nat) : Nat := if isSysCore k then 8 else 32
/-- All fragment slots of a core (R17, R18). -/
def fragSlots (k : Nat) : Nat := if isSysCore k then 16 else 64
/-- Places of the active set (R17, R18). -/
def activePlaces (k : Nat) : Nat := if isSysCore k then 4 else 8

/-- The team is in the park sequence (R152). -/
def Team.isParking (t : Team) : Bool :=
  match t.run with
  | .parking _ => true
  | _ => false

/-- The team holds resources of its core (R152, R415). -/
def Team.onCore (t : Team) : Bool :=
  match t.run with
  | .placed => true
  | .resident => true
  | .parking _ => true
  | .stopped => true
  | .trapped => t.saveAt.isNone
  | .preempting => true
  | .parked => false
  | .relaunch => false
  | .ended => false

-- Results ---------------------------------------------------------------------------------------------------------

/-- The register classes of pending results and of hazards are the same. -/
def RegVal.reg : RegVal → PendReg
  | .v r _ _ => .v r
  | .s r _ => .s r
  | .p r _ _ => .p r

/-- Per-lane results for the lanes of a mask. -/
def laneVals (m : Mask) (h : Nat → List RegVal) : List RegVal := (lanesOf m).flatMap h

end Sys2Proof.Machine
end

