-- ==== Sys2Proof/Machine/Memory.lean ====
section
/-! DEFINITION. Physical memory, page tables and translation caches, L1, and scratch (chapters 08 and 15). -/

namespace Sys2Proof.Machine

-- The physical map (R339) -------------------------------------------------------------------------------------

/-- Core periods in a microsecond (R19). -/
def ckUs : Nat := 700
/-- A page, 64 KiB (R344). -/
def pageBytes : Nat := 0x10000

/-- What a physical address names (R339). -/
inductive Area
  | hbm | lpddr (hub : Nat) | cxl (port : Nat) | mmio (port : Nat) | regs | reserved
deriving DecidableEq, Repr

/-- The port of CXL window k (R339). -/
def cxlPort (k : Nat) : Nat := [0, 1, 6, 7].getD k 0

/-- The physical map (R339). -/
def areaOf (pa : Nat) : Area :=
  if pa < 0xC000000000 then .hbm
  else if pa < 0x10000000000 then .reserved
  else if pa < 0x20000000000 then .lpddr 0
  else if pa < 0x30000000000 then .lpddr 1
  else if pa < 0x40000000000 then .reserved
  else if pa < 0xC0000000000 then .cxl (cxlPort ((pa - 0x40000000000) / 0x20000000000))
  else if pa < 0x100000000000 then .reserved
  else if pa < 0x1C0000000000 then .mmio ((pa - 0x100000000000) / 0x10000000000)
  else .regs

/-- The tier of a memory frame, as a PTE's TIER codes it (R342). -/
def tierOf (pa : Nat) : Option Nat :=
  match areaOf pa with
  | .hbm => some 0
  | .lpddr _ => some 1
  | .cxl _ => some 2
  | _ => none

/-- The range of R340 that the system image reserves for device structures. -/
def deviceRange (pa : Nat) : Bool := 0xBC00000000 ≤ pa && pa < 0xC000000000

/-- A sub-link's record, an absent one being a root port that is down (R434). -/
def State.sub (s : State) (k : Nat) : Sub := (s.subs.find k).getD {}

/-- The sub-link, 8 × port + k, whose window holds an address of a CXL or MMIO window (R434). -/
def State.windowSub (s : State) (port base size pa : Nat) : Nat :=
  8 * port + (pa - base) / (size / (s.sub (8 * port)).parts)
/-- The base of a CXL window (R339). -/
def cxlBase (pa : Nat) : Nat := 0x40000000000 + (pa - 0x40000000000) / 0x20000000000 * 0x20000000000
/-- The base of an MMIO window (R339). -/
def mmioBase (pa : Nat) : Nat := 0x100000000000 + (pa - 0x100000000000) / 0x10000000000 * 0x10000000000

/-- The first physical address of a sub-link's part of its port's CXL window (R434). -/
def State.cxlStart (s : State) (k : Nat) : Nat :=
  let w := match k / 8 with | 0 => 0 | 1 => 1 | 6 => 2 | _ => 3
  0x40000000000 + w * 0x20000000000 + k % 8 * (0x20000000000 / (s.sub (8 * (k / 8))).parts)

/-- A memory frame that is installed, and not behind a CXL link that is down (R343, R464). DEDUCED (log 97). -/
def State.installed (s : State) (pa : Nat) : Bool :=
  match areaOf pa with
  | .hbm => true
  | .lpddr _ => true
  | .cxl port =>
      let k := s.windowSub port (cxlBase pa) 0x20000000000 pa
      let u := s.sub k
      u.mode = 2 && u.up && (pa - cxlBase pa) % (0x20000000000 / u.parts) < u.cxlBytes
  | .mmio _ => true
  | _ => false

-- Bytes (R7) ------------------------------------------------------------------------------------------------------

/-- n bytes of a number, lowest first (R7). -/
def leBytes (n x : Nat) : List Byte := (List.range n).map (fun i => BitVec.ofNat 8 (x / 2 ^ (8 * i)))
/-- The number that bytes hold, lowest first (R7). -/
def leNat : List Byte → Nat
  | [] => 0
  | b :: l => b.toNat + 256 * leNat l

/-- The canonical form of memory: addresses strictly rising, no byte that an unlisted address reads as. -/
def Memory.wf (m : Cells Byte) : Bool := Cells.wf 0 m

/-- What a list of held writes, oldest first, holds for a byte, with its poison mark (R356, R361). -/
def heldByte (l : List HeldWrite) (pa : Nat) : Option (Byte × Bool) :=
  l.foldl (fun o e => if e.pa ≤ pa ∧ pa < e.pa + e.data.length then (e.data[pa - e.pa]?).map (fun b => (b, e.bad)) else o) none

/-- What the homes hold for a byte: the write of a migration, else one under the wipe map. -/
def State.heldAt (s : State) (pa : Nat) : Option (Byte × Bool) :=
  (s.migrations.findSome? (fun m => heldByte m.held pa)).orElse (fun _ => heldByte s.wipeHeld pa)

/-- One byte of memory; a write that its home holds is seen (R250, R356). -/
def State.memByte (s : State) (pa : Nat) : Byte := ((s.heldAt pa).map (·.1)).getD (Cells.get 0 s.mem pa)
/-- The poison mark of a byte, as a read of it finds it (R187, R201). -/
def State.badByte (s : State) (pa : Nat) : Bool := ((s.heldAt pa).map (·.2)).getD (Cells.get false s.poison pa)
/-- n bytes of memory at their home. -/
def State.memRead (s : State) (pa n : Nat) : List Byte := (List.range n).map (fun i => s.memByte (pa + i))
/-- A word of memory at its home. -/
def State.memWord (s : State) (pa : Nat) : Word := BitVec.ofNat 64 (leNat (s.memRead pa 8))
/-- The code of poisoned data: a CXL device reports its own (R201, R464). -/
def poisonCode (pa : Nat) : Code :=
  match areaOf pa with
  | .cxl _ => 0x07F
  | _ => 0x078

/-- Some byte of the range is marked poisoned or uncorrectable (R201). -/
def State.poisoned (s : State) (pa n : Nat) : Bool :=
  (List.range n).any (fun i => s.badByte (pa + i))

/-- Bytes stored in memory; a store takes the poison mark of a byte away, or sets it where the bytes are marked. -/
def State.memStore (s : State) (pa : Nat) (l : List Byte) (bad : Bool := false) : State :=
  match l with
  | [] => s
  | b :: l =>
      State.memStore { s with mem := Cells.set 0 s.mem pa b, poison := Cells.set false s.poison pa bad } (pa + 1) l bad

/-- n bytes of memory made zero, with no poison (R362). -/
def State.zeroRange (s : State) (pa n : Nat) : State :=
  { s with mem := s.mem.filter (fun e => e.1 < pa || pa + n ≤ e.1), poison := s.poison.filter (fun e => e.1 < pa || pa + n ≤ e.1) }

/-- The region of the wipe map, 2 MiB, that holds an address is still to be cleared (R361). -/
def State.unwiped (s : State) (pa : Nat) : Bool :=
  match areaOf pa with
  | .lpddr _ => !Cells.get false s.wiped (pa / 0x200000)
  | .cxl _ => !Cells.get false s.wiped (pa / 0x200000)
  | _ => false

/-- A migration that covers a frame (R356). -/
def Migration.covers (m : Migration) (pa : Nat) : Bool := m.frame ≤ pa && pa < m.frame + m.units * pageBytes

/-- A write at its home: held while its region is under the wipe map (R361) or its page migrates (R356). -/
def State.memWrite (s : State) (pa : Nat) (l : List Byte) (bad : Bool := false) : State :=
  let w : HeldWrite := { pa := pa, data := l, bad := bad }
  if s.migrations.any (fun m => m.covers pa) then
    { s with migrations := s.migrations.map (fun m => if m.covers pa then { m with held := m.held ++ [w] } else m) }
  else if s.unwiped pa then { s with wipeHeld := s.wipeHeld ++ [w] }
  else s.memStore pa l bad

/-- A home grants write access and sets the bit of the frame's 64 KiB unit (R358). -/
def State.grant (s : State) (pa : Nat) : State := { s with grants := Cells.set false s.grants (pa / pageBytes) true }

/-- A write of less than 64 KiB that its home performs or holds, under a grant (R358, R361). -/
def State.homeWrite (s : State) (pa : Nat) (l : List Byte) (bad : Bool := false) : State :=
  ((s.memWrite pa l bad).grant pa).grant (pa + l.length - 1)

-- Page table entries (R342) ------------------------------------------------------------------------------------------

def pteV (e : Word) : Bool := bit e 0
def pteR (e : Word) : Bool := bit e 1
def pteW (e : Word) : Bool := bit e 2
def pteX (e : Word) : Bool := bit e 3
def pteG (e : Word) : Bool := bit e 7
def pteC (e : Word) : Bool := bit e 6
def pteP (e : Word) : Bool := bit e 8
def pteBlk (e : Word) : Bool := bit e 9
/-- The physical address that FRAME names. -/
def pteFrame (e : Word) : Nat := bits e 44 16 * pageBytes
def pteTier (e : Word) : Nat := bits e 60 59
/-- 0 NORMAL, 1 COUNTER, 2 MMIO, 3 IOPIN. -/
def pteType (e : Word) : Nat := bits e 58 57
/-- The entry with another FRAME. -/
def pteWithFrame (e : Word) (pa : Nat) : Word :=
  e &&& ~~~(BitVec.ofNat 64 (0x1FFFFFFF * pageBytes)) ||| BitVec.ofNat 64 (pa / pageBytes % 2 ^ 29 * pageBytes)
/-- The entry with another TIER. -/
def pteWithTier (e : Word) (t : Nat) : Word :=
  e &&& ~~~(BitVec.ofNat 64 (3 * 2 ^ 59)) ||| BitVec.ofNat 64 (t % 4 * 2 ^ 59)
/-- The entry with another TYPE. -/
def pteWithType (e : Word) (t : Nat) : Word :=
  e &&& ~~~(BitVec.ofNat 64 (3 * 2 ^ 57)) ||| BitVec.ofNat 64 (t % 4 * 2 ^ 57)
/-- The entry with one of its bits set or cleared. -/
def pteWithBit (e : Word) (i : Nat) (b : Bool) : Word :=
  if b then e ||| BitVec.ofNat 64 (2 ^ i) else e &&& ~~~(BitVec.ofNat 64 (2 ^ i))

-- Walks (R341 to R345) ------------------------------------------------------------------------------------------------

/-- What a walk finds: a leaf, its address, its page size in 64 KiB units and its table; or a fault. -/
inductive Walk
  | leaf (e : Word) (at' size table : Nat)
  | fault (c : Code)
deriving DecidableEq, Repr

/-- A PASID that the system image has assigned to itself (R340). -/
def State.sysPasid (s : State) (pasid : Nat) : Bool := s.sysPasids.contains pasid

/-- A PASID that CTXCREATE has bound to a context (R340, R343). -/
def State.boundPasid (s : State) (pasid : Nat) : Bool := s.ctxs.all.any (fun e => e.2.pasid = pasid)

/-- check_table (R343); level 3 tables are 256 KiB aligned. -/
def State.tableFault (s : State) (pasid : Nat) (e : Word) (l3 : Bool) : Option Code :=
  let fr := pteFrame e
  if !pteV e then some 0x040
  else if e.toNat ≠ 1 + fr then some 0x043
  else if tierOf fr ≠ some 0 ∧ tierOf fr ≠ some 1 then some 0x043
  else if deviceRange fr ∧ s.boundPasid pasid then some 0x043
  else if l3 ∧ fr % 0x40000 ≠ 0 then some 0x043
  else none

/-- The checks of a leaf (R343); what holds of its frame holds of the whole page. DEDUCED (log 97). -/
def State.leafFault (s : State) (pasid : Nat) (e : Word) (size : Nat) : Option Code :=
  let fr := pteFrame e
  let last := fr + size * pageBytes - 1
  if !pteV e then some 0x040
  else if bits e 63 61 ≠ 0 ∨ bits e 15 10 ≠ 0 ∨ (pteBlk e ∧ size ≠ 0x8000) ∨ pteTier e = 3 then some 0x043
  else if !pteP e then none
  else if pteType e = 2 then
    match areaOf fr with
    | .mmio _ => if size = 0x8000 ∧ fr % 0x80000000 ≠ 0 then some 0x043 else none
    | _ => some 0x043
  else match areaOf fr with
    | .mmio _ => some 0x043
    | .regs => some 0x043
    | _ =>
      if (deviceRange fr ∨ deviceRange last) ∧ s.boundPasid pasid then some 0x043
      else if !s.installed fr ∨ !s.installed last ∨ areaOf last ≠ areaOf fr then some 0x044
      else if tierOf fr ≠ some (pteTier e) then some 0x043
      else if size = 0x8000 ∧ fr % 0x80000000 ≠ 0 then some 0x043
      else none

/-- The PASID directory entry (R363). -/
def State.dirEntry (s : State) (hub pasid : Nat) : Word := s.memWord ((s.hub hub).fedir.toNat + 8 * pasid)
/-- The root of a PASID's tables in its directory entry (R363). -/
def dirRoot (d : Word) : Nat := bits d 38 10 * pageBytes

/-- A leaf found by a walk, after its checks. -/
def State.walkLeaf (s : State) (pasid : Nat) (e : Word) (at' size table : Nat) : Walk :=
  if s.poisoned at' 8 then .fault 0x079
  else match s.leafFault pasid e size with
    | some c => .fault c
    | none => .leaf e at' size table

/-- A walk of a 56-bit virtual address (R341). -/
def State.walk (s : State) (hub pasid va : Nat) : Walk :=
  let d := s.dirEntry hub pasid
  if !bit d 0 ∨ !bit d 1 then .fault 0x042
  else if dirRoot d = 0 then .fault 0x045
  else
    let a1 := dirRoot d + 8 * (va / 2 ^ 43 % 2 ^ 13)
    let e1 := s.memWord a1
    if s.poisoned a1 8 then .fault 0x079 else
    match s.tableFault pasid e1 false with
    | some c => .fault c
    | none =>
      let a2 := pteFrame e1 + 8 * (va / 2 ^ 31 % 2 ^ 12)
      let e2 := s.memWord a2
      if pteV e2 ∧ pteBlk e2 then s.walkLeaf pasid e2 a2 0x8000 (pteFrame e1)
      else if s.poisoned a2 8 then .fault 0x079 else
      match s.tableFault pasid e2 true with
      | some c => .fault c
      | none =>
        let a3 := pteFrame e2 + 8 * (va / 2 ^ 16 % 2 ^ 15)
        s.walkLeaf pasid (s.memWord a3) a3 1 (pteFrame e2)

/-- The address of the leaf that a table holds for a page, valid or not, and its size in 64 KiB units (R341). -/
def State.slotOf (s : State) (hub pasid va : Nat) : Option (Nat × Nat) :=
  let root := dirRoot (s.dirEntry hub pasid)
  if root = 0 then none
  else
    let e1 := s.memWord (root + 8 * (va / 2 ^ 43 % 2 ^ 13))
    if !pteV e1 then none
    else
      let a2 := pteFrame e1 + 8 * (va / 2 ^ 31 % 2 ^ 12)
      let e2 := s.memWord a2
      if !pteV e2 then none
      else if pteBlk e2 then some (a2, 0x8000)
      else some (pteFrame e2 + 8 * (va / 2 ^ 16 % 2 ^ 15), 1)

-- Every leaf of a table (R341, R346) ---------------------------------------------------------------------------------------

/-- The words at a base, among the first n, that memory lists or a home holds: by index. -/
def State.wordsIn (s : State) (base n : Nat) : List Nat :=
  let within (a : Nat) : Bool := base ≤ a && a < base + 8 * n
  let held := (s.wipeHeld ++ s.migrations.flatMap (·.held)).flatMap (fun w => (List.range w.data.length).map (fun i => w.pa + i))
  (((s.mem.map (·.1)).filter within ++ held.filter within).map (fun a => (a - base) / 8)).eraseDups

/-- A leaf of a PASID's tables: its virtual address, its entry, the entry's address, its size in 64 KiB units and its table. -/
structure LeafAt where
  va : Nat
  e : Word
  at' : Nat
  size : Nat
  table : Nat
deriving DecidableEq, Repr

/-- Every valid leaf that a walk of a PASID finds. -/
def State.leavesOf (s : State) (hub pasid : Nat) : List LeafAt :=
  let root := dirRoot (s.dirEntry hub pasid)
  let leaf (va : Nat) : List LeafAt :=
    match s.walk hub pasid va with
    | .leaf e a size table => [⟨va, e, a, size, table⟩]
    | .fault _ => []
  (s.wordsIn root (2 ^ 13)).flatMap (fun i =>
    let t2 := pteFrame (s.memWord (root + 8 * i))
    (s.wordsIn t2 (2 ^ 12)).flatMap (fun j =>
      let e := s.memWord (t2 + 8 * j)
      let va := i * 2 ^ 43 + j * 2 ^ 31
      if pteBlk e then leaf va else (s.wordsIn (pteFrame e) (2 ^ 15)).flatMap (fun k => leaf (va + k * 2 ^ 16))))

/-- The PASIDs that a hub's directory lists (R363). -/
def State.pasidsOf (s : State) (hub : Nat) : List Nat := s.wordsIn (s.hub hub).fedir.toNat (2 ^ 20)

/-- The physical range that a leaf names. -/
def LeafAt.holds (l : LeafAt) (pa : Nat) : Bool := pteP l.e && pteFrame l.e ≤ pa && pa < pteFrame l.e + l.size * pageBytes

-- Translation caches (R346, R348, R349) ---------------------------------------------------------------------------------

/-- Whose translation caches an access goes through (R348). -/
inductive Place
  | core (k : Nat)
  | tte (die : Nat)
  | hub (h : Nat)
  | ta (h : Nat)
deriving DecidableEq, Repr

/-- The hub whose PASID directory a place reads (R363). -/
def Place.hubOf : Place → Nat
  | .core k => hubOfCore k
  | .tte d => d / 4
  | .hub h => h
  | .ta h => h

/-- The place of a core's accesses; prologues go through their hub (R378). -/
def placeOf (k : Nat) : Place := if isFeCore k then .hub (hubOfCore k) else .core k

/-- The table that the walk of an address passes through last: level 2 for a 2 GiB page, level 3 otherwise (R341, R346). -/
def State.tableOf (s : State) (hub pasid va : Nat) (big : Bool) : Option Nat :=
  let d := s.dirEntry hub pasid
  if !bit d 0 ∨ !bit d 1 ∨ dirRoot d = 0 then none
  else
    let e1 := s.memWord (dirRoot d + 8 * (va / 2 ^ 43 % 2 ^ 13))
    if (s.tableFault pasid e1 false).isSome then none
    else
      let e2 := s.memWord (pteFrame e1 + 8 * (va / 2 ^ 31 % 2 ^ 12))
      if big then some (pteFrame e1)
      else if pteBlk e2 ∨ (s.tableFault pasid e2 true).isSome then none
      else some (pteFrame e2)

/-- The entry serves a PASID at a page: by the PASID tag when G = 0, else through the table that it is tagged with (R346). -/
def State.entryHits (s : State) (hub pasid va : Nat) (e : TlbEnt) : Bool :=
  let u := va / pageBytes
  (e.vpn ≤ u && u < e.vpn + e.size) &&
  match e.table with
  | none => e.pasid == pasid
  | some t => s.tableOf hub pasid va (e.size = 0x8000) == some t

/-- The caches that a place looks in, nearest first. -/
def State.tlbOf (s : State) (p : Place) : List TlbEnt :=
  match p with
  | .core k => (s.core k).tlb ++ (if isSysCore k then [] else (s.fieldTlb.find (fieldOfCore k)).getD [])
  | .tte d => (s.tte.find d).getD []
  | .hub _ => []
  | .ta h => (s.ta.find h).getD []

/-- A translation put into the caches of a place (R348); the oldest entries beyond its size leave. -/
def State.tlbFill (s : State) (p : Place) (e : TlbEnt) : State :=
  let add (l : List TlbEnt) (n : Nat) : List TlbEnt := (e :: l.filter (fun x => x ≠ e)).take n
  match p with
  | .core k =>
      let s := s.putCore k { s.core k with tlb := add (s.core k).tlb 128 }
      if isSysCore k then s
      else { s with fieldTlb := s.fieldTlb.put (fieldOfCore k) (add ((s.fieldTlb.find (fieldOfCore k)).getD []) 8192) }
  | .tte d => { s with tte := s.tte.put d (add ((s.tte.find d).getD []) 1024) }
  | .hub _ => s
  | .ta h => { s with ta := s.ta.put h (e :: ((s.ta.find h).getD []).filter (fun x => x ≠ e)) }

/-- The cached translation that a leaf makes: one page, or the 2 MiB run of a leaf with C = 1 (R345). -/
def entryOf (pasid va : Nat) (e : Word) (size table : Nat) : TlbEnt :=
  let run := if size = 1 ∧ pteC e then 32 else size
  let fr := pteFrame e - pteFrame e % (run * pageBytes)
  { pasid := pasid, table := if pteG e then some table else none, vpn := va / pageBytes - va / pageBytes % run
    pte := pteWithFrame e fr, size := run }

/-- The physical address of a virtual address through an entry (R344). -/
def TlbEnt.pa (e : TlbEnt) (va : Nat) : Nat := pteFrame e.pte + (va - e.vpn * pageBytes)

/-- What a translation gives. -/
inductive Xlat
  | page (e : TlbEnt)
  | absent
  | fault (c : Code)
deriving DecidableEq, Repr

/-- Steps 1 to 5 of R354, with the fills and the A bit of R348 and the second walk of R349. `ok` says whether a
cached entry permits the access. -/
def State.xlate (s : State) (p : Place) (pasid va : Nat) (ok : Word → Bool) : Xlat × State :=
  if 2 ^ 56 ≤ va then (.fault 0x047, s) else
  match (s.tlbOf p).find? (fun e => s.entryHits p.hubOf pasid va e && ok e.pte) with
  | some e => (.page e, s.tlbFill p e)
  | none =>
    match s.walk p.hubOf pasid va with
    | .fault c => (.fault c, s)
    | .leaf e at' size table =>
      if !pteP e then (.absent, s)
      else
        let t := entryOf pasid va e size table
        let s := s.homeWrite at' (leBytes 8 ((pteWithBit (s.memWord at') 5 true).toNat))
        (.page t, s.tlbFill p t)

/-- The page of an address walked into the field TLB of a core (R351, R383). -/
def State.prime (s : State) (k pasid va : Nat) : State :=
  match s.walk (hubOfCore k) pasid va with
  | .fault _ => s
  | .leaf e at' size table =>
    if !pteP e ∨ isSysCore k then s
    else
      let t := entryOf pasid va e size table
      let s := s.homeWrite at' (leBytes 8 ((pteWithBit (s.memWord at') 5 true).toNat))
      let l := (s.fieldTlb.find (fieldOfCore k)).getD []
      { s with fieldTlb := s.fieldTlb.put (fieldOfCore k) ((t :: l.filter (fun x => x ≠ t)).take 8192) }

-- Parties and their accesses -----------------------------------------------------------------------------------------------

/-- Who makes an access (R245): where, under which PASID, in which mode and for which launch. -/
structure Party where
  place : Place
  pasid : Nat
  sys : Bool := false
  launch : Option Nat := none
  team : Option Nat := none
deriving DecidableEq, Repr

/-- The party of a fragment (R244). -/
def Now.party (n : Now) (tid : Nat) : Party :=
  { place := placeOf n.t.core, pasid := n.t.pasid, sys := n.t.kind = .system
    launch := if n.t.kind = .compute then some n.t.launch else none, team := some tid }

/-- The code of an access to a page with P = 0 (R352). -/
def State.absentCode (s : State) (p : Party) (va : Nat) : Code :=
  match p.launch.bind s.launches.find with
  | some l => if l.lease.contains (va / pageBytes) then 0x051 else 0x050
  | none => 0x050

/-- Kinds of access to a page, which decide permission and page type (R347, R201, R202, R214, R242). -/
inductive Acc
  | load | store | ldro | red | fetch | copyRead | copyWrite | fill | pref
deriving DecidableEq, Repr

/-- The permission code of an access, none when it is permitted (R347, R355); W permits a load of a COUNTER page too (R214).
DEDUCED (log 31). -/
def Acc.permFault (a : Acc) (e : Word) : Option Code :=
  let ctr := if pteR e ∨ (pteType e = 1 ∧ pteW e) then none else some 0x048
  let rd := if pteR e then none else some 0x048
  let wr := if pteW e then none else some 0x049
  match a with
  | .load => ctr
  | .ldro | .copyRead | .pref => rd
  | .store | .copyWrite | .fill => wr
  | .red => rd.orElse (fun _ => wr)
  | .fetch => if pteX e ∧ pteType e ≠ 1 then none else some 0x04A

/-- The page-type code of an access (R201, R202, R242, R42, R306). -/
def Acc.typeFault (a : Acc) (e : Word) : Option Code :=
  match pteType e, a with
  | 1, .store => some 0x068
  | 1, .ldro => some 0x070
  | 1, .red => some 0x06B
  | 1, .copyWrite => some 0x06D
  | 1, .fill => some 0x06D
  | 1, .copyRead => some 0x06D
  | 2, .ldro => some 0x071
  | 2, _ => some 0x04F
  | _, _ => none

/-- The I/O leases that cover a page (R458). -/
def State.ioLeasesOf (s : State) (pasid va : Nat) : List IoLease :=
  ((Tab.all s.ioLeases).map (·.2)).filter (fun l => l.pasid = pasid && l.va ≤ va && va < l.va + l.bytes)

/-- Translation and checks of one piece (R354): the physical address and page type, or the code. -/
def State.piece (s : State) (p : Party) (a : Acc) (va : Nat) : Except Code (Nat × Nat) × State :=
  match s.xlate p.place p.pasid va (fun e => (a.permFault e).isNone) with
  | (.fault c, s) => (.error c, s)
  | (.absent, s) => (.error (s.absentCode p va), s)
  | (.page e, s) =>
    match a.permFault e.pte with
    | some c => (.error c, s)
    | none =>
      if a = .store ∧ p.team.isSome ∧ pteType e.pte = 3 ∧ (s.ioLeasesOf p.pasid va).any (fun l => l.dir = 1) then (.error 0x04C, s)
      else match a.typeFault e.pte with
        | some c => (.error c, s)
        | none => (.ok (e.pa va, pteType e.pte), s)

/-- The pieces of an access: maximal runs inside one 16-byte granule, as offset and length (R200). -/
def pieces (a n : Nat) : List (Nat × Nat) :=
  let k := 16 - a % 16
  if n ≤ k then [(0, n)] else [(0, k), (k, n - k)]

-- L1 (R188 to R191) ----------------------------------------------------------------------------------------------------------

/-- A sector with the home's bytes under its dirty ones (R190, R191). -/
def State.refill (s : State) (key lt : Nat) (old : Sector) : Sector :=
  let fill := (List.range 64).foldl (fun (m : Cells Byte) i =>
    Cells.set 0 m i (if bit old.dirty i then Cells.get 0 old.data i else s.memByte (64 * key + i))) []
  { old with data := fill, lt := lt }

/-- The dirty bytes of a sector written to its home (R190); `bad` names one that goes marked poisoned (R187). -/
def State.wbBytes (s : State) (key : Nat) (x : Sector) (bad : Option Nat := none) : State :=
  (List.range 64).foldl (fun s i =>
    if bit x.dirty i then s.memWrite (64 * key + i) [Cells.get 0 x.data i] (bad = some i) else s) s

/-- A sector of core k written back; it stays, clean (R190). -/
def State.writeBack (s : State) (k key : Nat) (bad : Option Nat := none) : State :=
  let c := s.core k
  match c.l1.find key with
  | none => s
  | some x => (s.putCore k { c with l1 := c.l1.put key { x with dirty := 0, oldest := none } }).wbBytes key x bad

/-- A sector of core k, ordinary or read-only, written back and dropped. -/
def State.dropSector (s : State) (k key : Nat) : State :=
  let s := s.writeBack k key
  s.putCore k { s.core k with l1 := (s.core k).l1.del key, ro := (s.core k).ro.del key }

/-- The mode of a bank of a core (R182). -/
def Core.bank (c : Core) (b : Nat) : BankMode := Cells.get .way c.banks b

/-- The ways of a core's L1, by bank: banks 0 to 7, and those in WAY mode; four on a system core (R182, R188, R199). -/
def State.ways (s : State) (k : Nat) : List Nat :=
  if isSysCore k then List.range 4 else (List.range 24).filter (fun b => b < 8 || (s.core k).bank b = .way)

/-- A line of core k leaves L1 (R190). -/
def State.evictLine (s : State) (k line : Nat) : State :=
  let s := (List.range 4).foldl (fun s i => s.dropSector k (4 * line + i)) s
  s.putCore k { s.core k with lines := (s.core k).lines.del line }

/-- The line of a sector takes a place in its set of 512: a way that holds none of the set, or that of a line which is evicted (R188). Which
line it evicts is a free value; the set is the line number modulo 512. DEDUCED (log 27). -/
def State.needLine (s : State) (k key : Nat) : State :=
  let c := s.core k
  let line := key / 4
  if (c.lines.find line).isSome then s
  else
    let mine := c.lines.all.filter (fun e => e.1 % 512 = line % 512)
    match (s.ways k).find? (fun w => !mine.any (fun e => e.2 = w)) with
    | some w => s.putCore k { c with lines := c.lines.put line w }
    | none =>
      match mine[(Config.freeWord s.fresh).toNat % mine.length]? with
      | none => s
      | some v =>
        let s := ({ s with fresh := s.fresh + 1 } : State).evictLine k v.1
        s.putCore k { s.core k with lines := (s.core k).lines.put line v.2 }

/-- The sector that serves a read of core k, refetched when LT has moved 8 past its fill (R191). DEDUCED (log 27). -/
def State.sectorOf (s : State) (k key : Nat) : Sector × State :=
  let s := s.needLine k key
  let c := s.core k
  match c.l1.find key with
  | some x =>
      if c.lt - x.lt < 8 then (x, s)
      else let x := s.refill key c.lt x; (x, s.putCore k { c with l1 := c.l1.put key x })
  | none => let x := s.refill key c.lt {}; (x, s.putCore k { c with l1 := c.l1.put key x })

/-- Bytes read through the L1 of core k. -/
def State.l1Read (s : State) (k pa : Nat) : Nat → List Byte × State
  | 0 => ([], s)
  | n + 1 =>
      let (x, s) := s.sectorOf k (pa / 64)
      let (l, s) := State.l1Read s k (pa + 1) n
      (Cells.get 0 x.data (pa % 64) :: l, s)

/-- One byte stored in the L1 of core k: its sector fills when absent, and the byte becomes dirty (R188, R250). DEDUCED (log 27). -/
def State.l1Byte (s : State) (k pa : Nat) (b : Byte) : State :=
  let s := s.needLine k (pa / 64)
  let c := s.core k
  let x := (c.l1.find (pa / 64)).getD (s.refill (pa / 64) c.lt {})
  let x := { x with data := Cells.set 0 x.data (pa % 64) b, dirty := x.dirty ||| BitVec.ofNat 64 (2 ^ (pa % 64))
                    oldest := some (x.oldest.getD s.clock) }
  s.putCore k { c with l1 := c.l1.put (pa / 64) x }

/-- Bytes stored in the L1 of core k, under a write grant (R358). -/
def State.l1Write (s : State) (k pa : Nat) (l : List Byte) : State :=
  ((l.zip (List.range l.length)).foldl (fun s e => s.l1Byte k (pa + e.2) e.1) s).grant pa

/-- Every dirty sector of core k written back, as a release wider than TEAM does (R190). -/
def State.writeBackAll (s : State) (k : Nat) : State :=
  ((s.core k).l1.all.filter (fun e => e.2.dirty ≠ 0)).foldl (fun s e => s.writeBack k e.1) s

/-- The sectors of one physical range written back and dropped in every core (R356, R358). -/
def State.flushRange (s : State) (pa bytes : Nat) : State :=
  s.cores.keys.foldl (fun s k =>
    ((s.core k).l1.keys.filter (fun key => pa ≤ 64 * key && 64 * key < pa + bytes)).foldl (fun s key => s.dropSector k key) s) s

/-- The core whose L1 a party uses; hub parties and engines at a hub use none (R245). -/
def Party.l1 (p : Party) : Option Nat :=
  match p.place with
  | .core k => some k
  | _ => none

/-- Bytes that an ordinary load reads: a COUNTER page at its home, any other page through L1 (R202). -/
def State.loadBytes (s : State) (p : Party) (pa type n : Nat) : List Byte × State :=
  match p.l1 with
  | some k => if type = 1 then (s.memRead pa n, s) else s.l1Read k pa n
  | none => (s.memRead pa n, s)

/-- Bytes that an ordinary store writes. -/
def State.storeBytes (s : State) (p : Party) (pa : Nat) (l : List Byte) : State :=
  match p.l1 with
  | some k => s.l1Write k pa l
  | none => s.homeWrite pa l

/-- A load would return a byte marked poisoned, other than one that the core's own L1 holds dirty (R201). -/
def State.loadPoison (s : State) (p : Party) (pa n : Nat) : Bool :=
  (List.range n).any (fun i =>
    s.badByte (pa + i) &&
    match p.l1 with
    | some k => !(match (s.core k).l1.find ((pa + i) / 64) with | some x => bit x.dirty ((pa + i) % 64) | none => false)
    | none => true)

-- Checked accesses of n bytes --------------------------------------------------------------------------------------------------

/-- The alignment code of an access that is not naturally aligned, by its page's type (R201, R241): a RED anywhere, a load where it touches a
COUNTER page. -/
def Acc.alignFault (a : Acc) (type : Nat) : Option Code :=
  if a = .red then some 0x05B else if a = .load ∧ type = 1 then some 0x058 else none

/-- Every piece of an access checked in ascending address order (R201, R354): the pieces as physical address, page type and length. -/
def State.checkPieces (s : State) (p : Party) (a : Acc) (va : Nat) (aligned : Bool) :
    List (Nat × Nat) → Except Bad (List (Nat × Nat × Nat)) × State
  | [] => (.ok [], s)
  | (o, n) :: l =>
      let v := (va + o) % 2 ^ 64
      match s.piece p a v with
      | (.error c, s) => (.error (c, v), s)
      | (.ok (pa, type), s) =>
        match (if aligned then none else a.alignFault type) with
        | some c => (.error (c, v), s)
        | none =>
          match State.checkPieces s p a va aligned l with
          | (.error b, s) => (.error b, s)
          | (.ok r, s) => (.ok ((pa, type, n) :: r), s)

/-- An access of n bytes checked whole (R354). -/
def State.checkAccess (s : State) (p : Party) (a : Acc) (va n : Nat) : Except Bad (List (Nat × Nat × Nat)) × State :=
  s.checkPieces p a va (va % n = 0) (pieces va n)

/-- The bytes of checked pieces, and whether one of them is poisoned. -/
def State.readPieces (s : State) (p : Party) : List (Nat × Nat × Nat) → (List Byte × Bool) × State
  | [] => (([], false), s)
  | (pa, type, n) :: l =>
      let bad := s.loadPoison p pa n
      let (x, s) := s.loadBytes p pa type n
      let ((y, b), s) := State.readPieces s p l
      ((x ++ y, bad || b), s)

/-- Bytes stored over checked pieces. -/
def State.writePieces (s : State) (p : Party) : List (Nat × Nat × Nat) → List Byte → State
  | [], _ => s
  | (pa, _, n) :: r, l => State.writePieces (s.storeBytes p pa (l.take n)) p r (l.drop n)

/-- The word at an address as an instruction fetch reads it (R42). A fetch reads the home; a store of the launch to its
own code is seen once it is written back. -/
def State.fetchWord (s : State) (p : Party) (va : Nat) : Except Code Word × State :=
  match s.piece p .fetch va with
  | (.error c, s) => (.error c, s)
  | (.ok (pa, _), s) => (if s.poisoned pa 8 then .error 0x078 else .ok (s.memWord pa), s)

-- Scratch (R195 to R199) -----------------------------------------------------------------------------------------------------

/-- How a scratch address is used: by a load that may read counters (LDS), a store, or anything else (R202). DEDUCED (log 19). -/
inductive ScrUse
  | lds | store | other
deriving DecidableEq, Repr

/-- The team of a cluster at an index (R196); none when it has ended (R198). DEDUCED (log 95). -/
def State.clusterTeam (s : State) (t : Team) (self idx : Nat) : Option Nat :=
  if t.peers.isEmpty then (if idx = t.idx then some self else none)
  else match t.peers[idx]? with
    | some k => if (s.teams.find k).any (fun x => x.run ≠ .ended) then some k else none
    | none => none

/-- SCRATCH banks of a team; a system core's scratchpad is two (R199). -/
def Team.banks (t : Team) : Nat := if t.kind = .system then 2 else t.bs

/-- One piece of a scratch access, checked in the order of R197. DEDUCED (log 19). DEDUCED (log 95). -/
def State.scrPiece (s : State) (t : Team) (self : Nat) (u : ScrUse) (a : Nat) : Except Code Scr :=
  let bankOff := a % 2 ^ 21
  let clu := a / 2 ^ 23 % 128
  match a / 2 ^ 30 % 4 with
  | 0 =>
      if a / 2 ^ 21 % 2 ^ 9 ≠ 0 then .error 0x064
      else if t.banks ≤ bankOff / 2 ^ 17 then .error 0x060
      else if t.kind = .system then .ok (.pad t.core bankOff)
      else .ok (.cell self bankOff)
  | 1 =>
      if a / 2 ^ 21 % 4 ≠ 0 then .error 0x064
      else if t.kind = .system ∨ t.clu.1 * t.clu.2 ≤ clu then .error 0x061
      else match s.clusterTeam t self clu with
        | none => .error 0x062
        | some k =>
          if ((s.teams.find k).map Team.banks).getD 0 ≤ bankOff / 2 ^ 17 then .error 0x062
          else .ok (.cell k bankOff)
  | 2 =>
      if t.kind = .system then .error 0x065
      else if t.clu.1 * t.clu.2 ≤ clu then .error 0x061
      else match s.clusterTeam t self clu, u with
        | none, .lds => .error 0x061
        | k, u =>
          if a / 2 ^ 9 % 2 ^ 14 ≠ 0 then .error 0x065
          else match u with
            | .lds => if a % 8 ≠ 0 then .error 0x059 else .ok (.counter (k.getD self) (a / 8 % 64))
            | .store => .error 0x069
            | .other => .error 0x065
  | _ => .error 0x063

/-- A scratch counter's value (R213). -/
def State.scrCounter (s : State) (team idx : Nat) : Word :=
  match s.teams.find team with
  | some t => Cells.get 0 t.scnt idx
  | none => 0

/-- Bytes of scratch that a checked address names. -/
def State.scrRead (s : State) (x : Scr) (n : Nat) : List Byte :=
  match x with
  | .cell k o =>
      match s.teams.find k with
      | some t => (List.range n).map (fun i => Cells.get 0 t.scratch (o + i))
      | none => List.replicate n 0
  | .pad k o => (List.range n).map (fun i => Cells.get 0 (s.core k).pad (o + i))
  | .counter k i => (leBytes 16 ((s.scrCounter k i).toNat + (s.scrCounter k ((i + 1) % 64)).toNat * 2 ^ 64)).take n

/-- Bytes stored from an offset on. -/
def storeCells (m : Cells Byte) (o : Nat) (l : List Byte) : Cells Byte :=
  (l.zip (List.range l.length)).foldl (fun m e => Cells.set 0 m (o + e.2) e.1) m

/-- Bytes of scratch stored. -/
def Team.scrStore (t : Team) (o : Nat) (l : List Byte) : Team := { t with scratch := storeCells t.scratch o l }

/-- Bytes stored where a checked address names scratch. -/
def State.scrWrite (s : State) (x : Scr) (l : List Byte) : State :=
  match x with
  | .cell k o => s.updTeam k (fun t => t.scrStore o l)
  | .pad k o => s.putCore k { s.core k with pad := storeCells (s.core k).pad o l }
  | .counter _ _ => s

/-- A scratch access of n bytes, checked piece by piece (R197): the pieces, each with its length. -/
def State.checkScr (s : State) (t : Team) (self : Nat) (u : ScrUse) (a n : Nat) : Except Bad (List (Scr × Nat)) :=
  (pieces a n).foldl (fun r e =>
    r.bind (fun l =>
      let v := (a + e.1) % 2 ^ 32
      match s.scrPiece t self u v with
      | .error c => .error (c, v)
      | .ok x =>
        match x with
        | .counter _ _ => if n = 16 ∧ a % 16 ≠ 0 then .error (0x059, v) else .ok (l ++ [(x, e.2)])
        | _ => .ok (l ++ [(x, e.2)]))) (.ok [])

/-- The bytes of checked scratch pieces. -/
def State.readScr (s : State) (l : List (Scr × Nat)) : List Byte := l.flatMap (fun e => s.scrRead e.1 e.2)
/-- Bytes stored over checked scratch pieces. -/
def State.writeScr (s : State) : List (Scr × Nat) → List Byte → State
  | [], _ => s
  | (x, n) :: r, l => State.writeScr (s.scrWrite x (l.take n)) r (l.drop n)

-- Accesses of several pieces (R200, R246) --------------------------------------------------------------------------------

/-- The next access of several pieces is performed piece by piece, as `tear` says; otherwise it is performed whole. No rule decides. DESIGN
CHOICE (log 129). -/
def State.tears (s : State) (several : Bool) : Bool × State :=
  match several, s.tear with
  | true, b :: rest => (b, { s with tear := rest })
  | _, _ => (false, s)

/-- An access begun whose pieces are steps of their own, in an order that no rule decides, before the ck passes (R200). -/
def State.tearInto (s : State) (x : Torn) : State :=
  let id := s.nextId
  { s with
    torn := s.torn.put id x, nextId := id + 1
    agenda := s.agenda ++ (match x.todo.keys with | [] => [.piece id 0] | l => l.map (Event.piece id)) }

/-- Pieces numbered in the order of the access. -/
def numbered (l : List Piece) : Tab Piece := (l.zipIdx).foldl (fun (t : Tab Piece) e => t.put e.2 e.1) []

end Sys2Proof.Machine
end

