-- ==== Sys2Proof/Machine/CtrOps.lean ====
section
/-! DEFINITION. Counters and their homes (chapter 09): operands, values, the order of operations, waiters, releases
and acquires. -/

namespace Sys2Proof.Machine

/-- reached(c, t) (R12). -/
def reached (c t : Word) : Bool := (c - t).toNat < 2 ^ 63

-- Operands (R212 to R215, R230, R462) -----------------------------------------------------------------------------

/-- What an operand is used for: an add (with an answer or not), a CSET, or a wait or read. -/
inductive CtrUse
  | add (ret : Bool) | set | wait
deriving DecidableEq, Repr

/-- The MMIO window of a physical address: its sub-link and the offset in the sub-link's part (R434). -/
def State.mmioAt (s : State) (pa : Nat) : Option (Nat × Nat) :=
  match areaOf pa with
  | .mmio port =>
      some (s.windowSub port (mmioBase pa) 0x10000000000 pa,
        (pa - mmioBase pa) % (0x10000000000 / (s.sub (8 * port)).parts))
  | _ => none

/-- The set outbound window of a sub-link that an offset lies in (R462). -/
def Sub.outWin (u : Sub) (off : Nat) : Option NtbWin :=
  ((Tab.all u.wins).map (·.2)).find? (fun w => !w.inbound && w.off ≤ off && off < w.off + w.size)

/-- A counter operand in an MMIO page (R230, R462). -/
def State.mmioCtr (s : State) (u : CtrUse) (pa : Nat) : Except Code Ctr :=
  match s.mmioAt pa with
  | none => .error 0x04F
  | some (k, off) =>
    let b := s.sub k
    if b.mode ≠ 1 then .error 0x04F
    else match b.outWin off with
      | none => .error 0x123
      | some w =>
        if !w.ctr then .error 0x127
        else match u with
          | .add _ => if b.up then .ok (.peer pa) else .error 0x124
          | _ => .error 0x090

/-- A virtual counter operand, checked in the order of R212 and R354. DEDUCED (log 31). -/
def State.vaCtr (s : State) (p : Party) (u : CtrUse) (x : Nat) : Except Code Ctr × State :=
  if 2 ^ 56 ≤ x then (.error 0x047, s)
  else if x % 8 ≠ 0 then (.error 0x05A, s)
  else
    let ok (e : Word) : Bool := match u with | .set => pteW e || p.sys | _ => pteR e || pteW e
    match s.xlate p.place p.pasid x ok with
    | (.fault c, s) => (.error c, s)
    | (.absent, s) => (.error (s.absentCode p x), s)
    | (.page e, s) =>
      if u ≠ .set ∧ !ok e.pte then (.error 0x048, s)
      else match pteType e.pte with
        | 1 => if u = .set ∧ !ok e.pte then (.error 0x081, s) else (.ok (.mem (e.pa x)), s)
        | 2 => (s.mmioCtr u (e.pa x), s)
        | _ => (.error 0x06A, s)

/-- A scratch counter operand (R212, R213, R215, R199); `self` is the team's number. The published counter of a ring is
added to by the ring alone (R268). -/
def scrCtr (t : Team) (self : Nat) (u : CtrUse) (x : Nat) : Except Code Ctr :=
  let a := x % 2 ^ 32
  if x / 2 ^ 32 % 2 ^ 31 ≠ 0 ∨ a / 2 ^ 30 ≠ 2 then .error 0x06C
  else if t.kind = .prologue then .error 0x02A
  else if t.kind = .system then .error 0x065
  else if t.clu.1 * t.clu.2 ≤ a / 2 ^ 23 % 128 then .error 0x061
  else if a / 2 ^ 9 % 2 ^ 14 ≠ 0 then .error 0x065
  else if a % 8 ≠ 0 then .error 0x05A
  else if u ≠ .wait ∧ 56 ≤ a / 8 % 64 ∧ (t.rings.find (a / 8 % 64 - 56)).isSome then .error 0x0A9
  else .ok (.scr (if t.peers.isEmpty then self else t.peers.getD (a / 2 ^ 23 % 128) self) (a / 8 % 64))

/-- A counter operand of a fragment's instruction (R212). -/
def State.ctrOperand (s : State) (n : Now) (self : Nat) (u : CtrUse) (x : Word) : Except Code Ctr × State :=
  if x = 0 then (if u = .set then .error 0x082 else .ok .null, s)
  else if bit x 63 then (scrCtr n.t self u x.toNat, s)
  else s.vaCtr (n.party self) u x.toNat

/-- A counter operand that a hub party names under a PASID; space 10 gives 0x06F (R413, R369). -/
def State.hubOperand (s : State) (hub pasid : Nat) (u : CtrUse) (x : Word) : Except Code Ctr × State :=
  if x = 0 then (.ok .null, s)
  else if bit x 63 then (.error 0x06F, s)
  else s.vaCtr { place := .hub hub, pasid := pasid } u x.toNat

-- Values and homes (R217, R218) --------------------------------------------------------------------------------------

/-- A counter's value; the null counter reads 0 (R216). -/
def State.ctrGet (s : State) (c : Ctr) : Word :=
  match c with
  | .null => 0
  | .mem pa => s.memWord pa
  | .scr t i => s.scrCounter t i
  | .peer _ => 0

/-- A counter's value set. -/
def State.ctrPut (s : State) (c : Ctr) (x : Word) : State :=
  match c with
  | .null => s
  | .mem pa => s.memWrite pa (leBytes 8 x.toNat)
  | .scr t i => s.updTeam t (fun k => { k with scnt := Cells.set 0 k.scnt i x })
  | .peer _ => s

/-- XOR of an address in 6-bit chunks from bit 8 upwards (R193). -/
def sliceOf (pa : Nat) : Nat :=
  (List.range 7).foldl (fun a k => a ^^^ (pa / 2 ^ (8 + 6 * k) % 64)) 0

/-- The number of a counter's home: a core's CHU, 10000 + L2 slice, 20000 + hub (R217). -/
def State.homeOf (s : State) (c : Ctr) : Nat :=
  match c with
  | .null => 10000
  | .mem pa =>
      match areaOf pa with
      | .lpddr h => 20000 + h
      | .cxl p => 20000 + p / 6
      | _ => 10000 + sliceOf pa
  | .scr t _ => ((s.teams.find t).map (·.core)).getD 0
  | .peer _ => 0

/-- General and reserved waiter entries of a home (R217, R224). -/
def homeSize (h : Nat) : Nat × Nat :=
  if h < 10000 then (224, 32) else if h < 20000 then (3584, 512) else (14336, 2048)

def State.home (s : State) (h : Nat) : Home := (s.homes.find h).getD {}
def State.putHome (s : State) (h : Nat) (x : Home) : State :=
  { s with homes := if x = {} then s.homes.del h else s.homes.put h x }

-- Traffic that leaves the device (R434, R461) -----------------------------------------------------------------------

/-- A sub-link may carry a TLP in a stream: one that requires IDE carries none outside a keyed stream (R461). -/
def Sub.carries (u : Sub) (stream : Nat) : Bool := !u.ide || (u.streams.find stream).any (fun x => x.keyed && !x.insecure)

/-- The stream of a TLP: the selective stream of the function whose BAR it names, or the link stream (R460). -/
def State.streamOf (s : State) (t : Tlp) : Nat :=
  ((s.funcs.all.find? (fun e => !t.cfg && 8 * e.2.port + e.2.sub = t.sub && e.2.bars.any (fun b => b.1 ≤ t.addr && t.addr < b.1 + 2 ^ b.2))).bind
    (fun e => e.2.stream)).getD 64

/-- A TLP that the device sends; one outside a keyed stream is dropped, and the drop is logged (R461). -/
def State.send (s : State) (t : Tlp) : State :=
  if (s.sub t.sub).carries (s.streamOf t) then { s with sent := s.sent ++ [t] }
  else
    let h := t.sub / 8 / 6
    s.putHub h { s.hub h with flog := (s.hub h).flog ++ [{ code := 0x11D, lin := 2 ^ 64 - 1, clock := s.clock, va := BitVec.ofNat 64 t.addr }] }

-- Operations on their way (R220) --------------------------------------------------------------------------------------

/-- A release wider than TEAM writes back the dirty sectors of its core before its add (R190, R221). DEDUCED (log 36). -/
def State.release (s : State) (p : Party) (scope : Option Nat) : State :=
  match scope, p.l1 with
  | some sc, some k => if sc ≤ 1 then s else s.writeBackAll k
  | _, _ => s

/-- An acquire wider than TEAM advances LT by 8 (R191). -/
def State.acquire (s : State) (core : Nat) (scope : Option Nat) : State :=
  match scope with
  | some sc => if sc ≤ 1 then s else s.putCore core { s.core core with lt := (s.core core).lt + 8 }
  | none => s

/-- A counter operation sent to its home, after those sent before it unless it names its own place (R220, R237). -/
def State.emit (s : State) (o : CtrOp) : State :=
  let o := { o with seq := if o.seq = 0 then s.nextId else o.seq, since := s.clock }
  { s with ops := s.ops.put s.nextId o, nextId := s.nextId + 1 }

/-- An add whose counter lies behind a peer window goes out as a FetchAdd (R230). -/
def State.sendAdd (s : State) (o : CtrOp) (pa : Nat) (v : Word) : State :=
  match s.mmioAt pa with
  | some (k, off) =>
      let tgt := match (s.sub k).outWin off with | some w => w.tgt + (off - w.off) | none => 0
      ({ s with
        reqs := s.reqs.put s.nextId
          { kind := .fetchAdd o, sub := k, addr := tgt, since := s.clock, team := o.team, pc := o.pc, va := o.va }
        nextId := s.nextId + 1 } : State).send { sub := k, addr := tgt, data := some (leBytes 8 v.toNat), size := 8 }
  | none => s

/-- An answer on its way to its asker. -/
def State.answer (s : State) (o : CtrOp) (v : AnsVal) : State :=
  match o.who with
  | .nobody => s
  | .msi _ => s
  | .port _ false => s
  | _ => { s with answers := s.answers.put s.nextId ⟨o, v⟩, nextId := s.nextId + 1 }

/-- The two operations come from one fragment, or through one hub's converter or ports (R229, R452). DEDUCED (log 82). -/
def sameFrag (a b : Who) : Bool :=
  match a, b with
  | .frag f _, .frag g _ => f == g
  | .msi h, .msi k => h == k
  | .port h _, .port k _ => h == k
  | _, _ => false

/-- No write is held at its home: every store issued so far is performed (R250, R356, R361). DEDUCED (log 36). -/
def State.settled (s : State) : Bool := s.wipeHeld.isEmpty && s.migrations.all (fun m => m.held.isEmpty)

/-- An operation's turn has come: no earlier operation of its fragment is still on its way (R220), and, for a release,
no write is held at a home (R221, R250). DEDUCED (log 33). DEDUCED (log 82). -/
def State.ready (s : State) (o : CtrOp) : Bool :=
  !(s.ops.all.any (fun e => sameFrag e.2.who o.who && e.2.seq < o.seq)) &&
  match o.act, o.scope with
  | .add _, some _ => s.settled
  | _, _ => true

-- Waiters (R222 to R226) -----------------------------------------------------------------------------------------------

/-- Freed entries of a home go to its oldest retries (R224). DEDUCED (log 33). -/
def Home.letIn (h : Home) (size : Nat × Nat) : Nat → Home
  | 0 => h
  | n + 1 =>
      match h.retry with
      | [] => h
      | o :: rest =>
        let w : Waiter := ⟨o, match o.act with | .wait t => t | _ => 0, 0⟩
        if h.general.length < size.1 then Home.letIn { h with general := h.general ++ [w], retry := rest } size n
        else if h.reserved.length < size.2 then Home.letIn { h with reserved := h.reserved ++ [w], retry := rest } size n
        else h

/-- The hub whose directory names a PASID. -/
def State.hubFor (s : State) (pasid : Nat) : Nat := if bit (s.dirEntry 0 pasid) 0 then 0 else 1

/-- The counter is one of a context: in a COUNTER page of its PASID, or in the scratch of one of its teams (R159). DEDUCED (log 30). -/
def State.ownsCtr (s : State) (id : Nat) (x : Ctx) (c : Ctr) : Bool :=
  match c with
  | .mem pa => (s.leavesOf (s.hubFor x.pasid) x.pasid).any (fun l => pteType l.e = 1 && l.holds pa)
  | .scr t _ => (s.teams.find t).any (fun y => y.ctx = id)
  | .null => false
  | .peer _ => false

/-- A counter advanced: the watchdog of every context that it is a counter of restarts (R159). -/
def State.progress (s : State) (c : Ctr) : State :=
  { s with ctxs := s.ctxs.map (fun e => (e.1, e.2.map (fun x => if s.ownsCtr e.1 x c then { x with watch := s.clock } else x))) }

/-- The waiters of a counter that a value reaches are woken, wherever they are held (R223, R226). -/
def State.wake (s : State) (c : Ctr) : State :=
  let v := s.ctrGet c
  let hit (w : Waiter) : Bool := w.op.ctr = c && reached v w.t
  let hn := s.homeOf c
  let h := s.home hn
  let woken := (h.general ++ h.reserved).filter hit ++ s.cold.filter hit
  let late := h.retry.filter (fun o => o.ctr = c && (match o.act with | .wait t => reached v t | _ => false))
  let h := { h with general := h.general.filter (fun w => !hit w), reserved := h.reserved.filter (fun w => !hit w)
                    retry := h.retry.filter (fun o => !late.contains o) }
  let s := { s.putHome hn (h.letIn (homeSize hn) h.retry.length) with cold := s.cold.filter (fun w => !hit w) }
  (woken.map (·.op) ++ late).foldl (fun s o => s.answer o .reached) s

/-- An add performed at the counter's home (R218, R223). -/
def State.ctrAdd (s : State) (c : Ctr) (v : Word) : State :=
  match c with
  | .null => s
  | .peer _ => s
  | _ =>
    let s := s.ctrPut c (s.ctrGet c + v)
    (if v = 0 then s else s.progress c).wake c

/-- A waiter entry taken for a wait, or the refusal appended to the retry queue (R222, R224). -/
def State.placeWait (s : State) (o : CtrOp) (t : Word) (ctx : Nat) : State :=
  let hn := s.homeOf o.ctr
  let h := s.home hn
  if h.general.length < (homeSize hn).1 ∧ h.retry = [] then s.putHome hn { h with general := h.general ++ [⟨o, t, ctx⟩] }
  else s.putHome hn { h with retry := h.retry ++ [{ o with retried := true }] }

/-- A home without the entries and retries that satisfy `hit`; the freed entries go to the oldest retries (R224). -/
def Home.without (h : Home) (size : Nat × Nat) (hit : CtrOp → Bool) : Home :=
  let h : Home := { general := h.general.filter (fun w => !hit w.op), reserved := h.reserved.filter (fun w => !hit w.op)
                    retry := h.retry.filter (fun o => !hit o) }
  h.letIn size h.retry.length

/-- Every entry and operation that satisfies `hit` taken away from homes, cold lists, ops and answers. -/
def State.withdraw (s : State) (hit : CtrOp → Bool) : State :=
  { s with
    homes := s.homes.map (fun e => (e.1, e.2.map (fun h => h.without (homeSize e.1) hit)))
    cold := s.cold.filter (fun w => !hit w.op)
    ops := s.ops.filter (fun e => !(e.2.any hit))
    answers := s.answers.filter (fun e => !(e.2.any (fun a => hit a.op))) }

/-- The counter that a hub party's operand names now, with no check and no fill (R240). -/
def State.ctrNamed (s : State) (hub pasid : Nat) (x : Word) : Option Ctr :=
  match s.walk hub pasid x.toNat with
  | .leaf e _ size table => some (.mem ((entryOf pasid x.toNat e size table).pa x.toNat))
  | .fault _ => none

/-- The code with which CSET of a counter is refused, none when it is performed (R240, R411). Where several refusals hold, those of the
blocks that hold the counter come first. DESIGN CHOICE (log 32). -/
def State.setRefused (s : State) (c : Ctr) : Option Code :=
  let h := s.home (s.homeOf c)
  if (s.queues.all.map (·.2)).any (fun q => !q.detached && (
      s.ctrNamed q.hub q.pasid q.tail = some c || s.ctrNamed q.hub q.pasid q.head = some c)) then some 0x083
  else if (s.hubs.all.map (·.2)).any (fun h => h.msi.all.any (fun b => b.2.ctr = c)) then some 0x084
  else if s.bindings.all.any (fun b => b.2.ctr = c) then some 0x085
  else if (h.general ++ h.reserved ++ s.cold).any (fun w => w.op.ctr = c) ∨ h.retry.any (fun o => o.ctr = c) then some 0x080
  else none

/-- A home performs an operation at its place in the order (R218 to R220, R224, R240); an add to a peer's counter leaves the device at its
place (R230, R251). -/
def State.perform (s : State) (o : CtrOp) : State :=
  let v := s.ctrGet o.ctr
  let gone : Bool := match o.ctr with
    | .scr t _ => !((s.teams.find t).any (fun x => x.run ≠ .ended))
    | _ => false
  let ctx := ((s.teams.find o.team).map (·.ctx)).getD 0
  match o.act with
  | .add x =>
      match o.ctr with
      | .peer pa => s.sendAdd o pa x
      | _ =>
      if gone then s.answer o (.trap 0x061) else (s.ctrAdd o.ctr x).answer o (.value v)
  | .set x =>
      if gone then s.answer o (.trap 0x061)
      else match s.setRefused o.ctr with
        | some c => s.answer o (.trap c)
        | none => ((s.ctrPut o.ctr x).wake o.ctr).answer o .done
  | .read => s.answer o (if gone then .trap 0x061 else .value v)
  | .test t =>
      if gone then s.answer o (.trap 0x061)
      else if o.ctr ≠ .null ∧ (t - v).toNat = 2 ^ 63 then s.answer o (.trap 0x088)
      else s.answer o (.bool (reached v t))
  | .wait t =>
      if gone then s.answer o (.trap 0x061)
      else if o.ctr = .null then s.answer o (if reached 0 t then .reached else .trap 0x089)
      else if (t - v).toNat = 2 ^ 63 then s.answer o (.trap 0x088)
      else if reached v t then s.answer o .reached
      else s.placeWait o t ctx

end Sys2Proof.Machine
end

