-- ==== Sys2Proof/Machine/Ops.lean ====
section
/-! DEFINITION. Operations that the families share: pending results, the fault log, the retirement of packets, taking
a trap in each mode and returning from one, fault parks, and the end of a word. -/

namespace Sys2Proof.Machine

-- The fault log (R416) --------------------------------------------------------------------------------------------

/-- The eight words of a fault-log entry (R416). -/
def FaultEntry.words (e : FaultEntry) : List Word :=
  [BitVec.ofNat 64 (e.queue % 4096 * 2 ^ 52 + e.pasid % 2 ^ 20 * 2 ^ 32 + e.ctx % 2 ^ 16 * 2 ^ 16
      + (if e.cend then 2 ^ 11 else 0) + (if e.lend then 2 ^ 10 else 0) + (if e.res then 2 ^ 9 else 0) + e.code.toNat),
    BitVec.ofNat 64 e.lin, e.pc, e.va, e.data, BitVec.ofNat 64 e.record, BitVec.ofNat 64 e.packet,
    BitVec.ofNat 64 e.clock]

/-- The fault log has room: FLOGPCTR − FLOGCCTR is below 2^FLOGCFG (R416). DEDUCED (log 83). -/
def State.logRoom (s : State) (h : Nat) : Bool :=
  let b := s.hub h
  (s.memWord b.flogpctr.toNat - s.memWord b.flogcctr.toNat).toNat ≠ 2 ^ b.flogcfg

/-- An add made by a hub party of a queue to one of its counter operands (R370, R377). A counter that the check
refuses takes no add. DEDUCED (log 34). -/
def State.queueAdd (s : State) (q : Queue) (x : Word) (v : Nat) (scope : Option Nat) : State :=
  match s.hubOperand q.hub q.pasid (.add false) x with
  | (.ok c, s) => s.emit { ctr := c, act := .add (BitVec.ofNat 64 v), who := .nobody, scope := scope, pasid := q.pasid, va := x }
  | (.error _, s) => s

/-- 1 added to FAULT of a queue as a release at SYS (R377, R415). DEDUCED (log 50). -/
def State.queueFault (s : State) (k : Nat) : State :=
  match s.queues.find k with
  | some q => s.queueAdd q q.fault 1 (some 6)
  | none => s

/-- Held entries of a hub written while there is room (R416); the FAULT of a stopped team rises once its entry is written
(R415). DEDUCED (log 83). -/
def State.flushLog (s : State) (h : Nat) : Nat → State
  | 0 => s
  | n + 1 =>
      let b := s.hub h
      match b.flog with
      | [] => s.putHub h { b with fullSince := none }
      | e :: rest =>
        if s.logRoom h then
          let j := (s.memWord b.flogpctr.toNat).toNat
          let s := s.homeWrite (b.flogbase.toNat + 64 * (j % 2 ^ b.flogcfg)) (e.words.flatMap (fun w => leBytes 8 w.toNat))
          let s := s.ctrAdd (.mem b.flogpctr.toNat) 1
          let s := match e.team with
            | some t => (s.queueFault (e.pasid * 4096 + e.queue)).updTeam t (fun x => { x with unlogged := false })
            | none => s
          State.flushLog (s.putHub h { s.hub h with flog := rest, fullSince := none }) h n
        else s.putHub h { b with fullSince := some (b.fullSince.getD s.clock) }

/-- An entry given to the fault log of a hub. -/
def State.logEntry (s : State) (h : Nat) (e : FaultEntry) : State :=
  let s := s.putHub h { s.hub h with flog := (s.hub h).flog ++ [{ e with clock := if e.clock = 0 then s.clock else e.clock }] }
  s.flushLog h (s.hub h).flog.length

/-- TEAMLIN all ones (R438). DEDUCED (log 100). -/
def noLin : Nat := 2 ^ 64 - 1

/-- An event that no fragment requested, logged (R438). DEDUCED (log 100). -/
def State.logEvent (s : State) (h : Nat) (c : Code) (pasid : Nat := 0) (va : Word := 0) : State :=
  s.logEntry h { code := c, lin := noLin, pasid := pasid, va := va }

/-- Frames cleared by the TME (R362): zeros, with no held write that could refill them. Uncorrectable bytes that the clear meets stay marked,
and 0x07A is logged (R355). DESIGN CHOICE (log 120). -/
def State.clearFrames (s : State) (hub pasid : Nat) (va : Word) (pa n : Nat) : State :=
  let hit (a : Nat) : Bool := pa ≤ a && a < pa + n
  let t : State := { s with mem := s.mem.filter (fun e => !hit e.1), wipeHeld := s.wipeHeld.filter (fun w => !hit w.pa) }
  if s.poison.any (fun e => hit e.1) then t.logEvent hub 0x07A pasid va else t

/-- A code logged for a team (R198, R438). -/
def State.logTeam (s : State) (t : Nat) (c : Code) (pc va : Word) : State :=
  match s.teams.find t with
  | some x =>
      s.logEntry (hubOfCore x.core)
        { code := c, lin := x.lin, pasid := x.pasid, ctx := x.ctx, queue := x.queue % 4096, packet := x.packet, pc := pc, va := va }
  | none => s.logEvent 0 c 0 va

-- Queues and packets (R364, R367, R377) -------------------------------------------------------------------------

/-- The recorded step of a packet in progress (R371). DEDUCED (log 35). -/
def PStep.code : PStep → Nat
  | .prologue _ => 1
  | .admission => 2
  | .again _ => 3
  | .copying _ => 1
  | .waiting => 1
  | .waitAgain => 1
  | .room => 1
  | .loading => 2
  | _ => 0

/-- The step state of a packet in progress (R371): the run index of a prologue, or the progress of a COPY. -/
def State.stepState (s : State) (p : PStep) : Nat :=
  match p with
  | .prologue run => run
  | .copying id => ((s.copies.find id).map (·.prog)).getD 0
  | _ => 0

/-- The FE's record of a queue written to its QCB, offsets 128 to 191 (R364), the step state at offset 144. DEDUCED (log 35). DESIGN CHOICE
(log 124). -/
def State.qcbSync (s : State) (k : Nat) : State :=
  match s.queues.find k with
  | none => s
  | some q =>
    let put (s : State) (o : Nat) (x : Nat) : State := s.homeWrite (q.qcb + o) (leBytes 8 x)
    let s := put s 128 q.next
    let s := put s 136 q.step.code
    let s := put s 144 (s.stepState q.step)
    let s := put s 152 0
    let s := put s 160 q.fcause.toNat
    let s := put s 168 q.fpc.toNat
    let s := put s 176 q.fidx
    put s 184 q.mark.toNat

def State.updQueue (s : State) (k : Nat) (h : Queue → Queue) : State := { s with queues := s.queues.upd k h }

/-- FCAUSE, FPC and FIDX written (R377). -/
def State.queueCause (s : State) (k : Nat) (c : Code) (pc : Word) (idx : Nat) : State :=
  (s.updQueue k (fun q => { q with fcause := c, fpc := pc, fidx := idx })).qcbSync k

/-- The packet in progress retires: HEAD + 1 as a release at SYS, and the next packet may begin (R367). A packet that
goes on after it has retired stays in `live` until it ends. -/
def State.retire (s : State) (k : Nat) (live : Bool) : State :=
  match s.queues.find k with
  | none => s
  | some q =>
    let s := s.updQueue k (fun q => { q with
      next := q.next + 1, step := .idle, pkt := none, launch := none, reached := false, tailWait := false
      live := if live then q.live ++ [q.next] else q.live })
    (s.queueAdd q q.head 1 (some 6)).qcbSync k

/-- The packet in progress is retired with a code (R377). -/
def State.retireFault (s : State) (k : Nat) (c : Code) (pc : Word) : State :=
  match s.queues.find k with
  | none => s
  | some q => ((s.queueCause k c pc q.next).queueFault k).retire k false

/-- A graph fault that names a node (R405): no further node starts, and FCAUSE, FPC and FIDX are written. FAULT rises unless the
fault is a trap that R415 has counted. DEDUCED (log 46). -/
def State.graphFails (s : State) (g node : Nat) (c : Code) (counted : Bool) : State :=
  match s.graphs.find g with
  | none => s
  | some x =>
    if x.fault.isSome then s
    else
      let pc : Word := x.va + BitVec.ofNat 64 (64 + 64 * node)
      let s : State := { s with graphs := s.graphs.put g { x with fault := some (c, pc) } }
      let s := s.queueCause x.queue c pc x.idx
      if counted then s else s.queueFault x.queue

/-- A node ends in a graph fault (R405). -/
def State.graphFault (s : State) (g node : Nat) (c : Code) (counted : Bool) : State :=
  ({ s with graphs := s.graphs.upd g (fun x => { x with
      nodes := x.nodes.upd node (fun n => { n with running := false, due := false }), since := s.clock }) } : State).graphFails g node c counted

/-- A launch ends before any team of it is dispatched, with a code (R26, R377, R405). -/
def State.launchFault (s : State) (l : Nat) (c : Code) (pc : Word) : State :=
  match s.launches.find l with
  | none => s
  | some x =>
    let s : State := { s with launches := s.launches.del l }
    match x.own with
    | .packet q _ => s.retireFault q c pc
    | .node g j => s.graphFault g j c false

/-- An area given back. -/
def State.giveBack (s : State) (a : Nat × Nat) : State :=
  if a.2 = 0 then s else { s with devAlloc := Cells.set 0 s.devAlloc a.1 0 }

/-- A detached queue is forgotten, and its park pool given back, once nothing of it runs (R365). -/
def State.forgetQueue (s : State) (k : Nat) : State :=
  match s.queues.find k with
  | none => s
  | some q => if q.detached ∧ q.live = [] then { s with queues := s.queues.del k }.giveBack (q.pool, q.ppool * pageBytes) else s

/-- A packet that had retired ends. -/
def State.packetEnds (s : State) (k idx : Nat) : State :=
  (s.updQueue k (fun q => { q with live := q.live.filter (· ≠ idx) })).forgetQueue k

-- Pending results (R31, R32, R64) ---------------------------------------------------------------------------------

/-- The fragments of a group as fragment numbers and records, in ascending slot. -/
def State.fragsOf (s : State) (gid : Nat) : List (Nat × Frag) := s.frags.all.filter (fun e => e.1 / 64 = gid)

/-- The pending result of a group under a number. -/
def State.pendOf (s : State) (gid pid : Nat) : Option Pend := (s.groups.find gid).bind (fun g => g.pends.find pid)

/-- A pending result of a group changed, or taken away. -/
def State.setPend (s : State) (gid pid : Nat) (h : Option Pend → Option Pend) : State :=
  { s with groups := s.groups.upd gid (fun g => { g with pends := Cells.set none g.pends pid (h (g.pends.find pid)) }) }

/-- A pending result has been written, or is gone. -/
def Group.resultIn (g : Group) (pid : Nat) : Bool := (g.pends.find pid).all (·.written)

/-- Fragments of a group that wait for results look again once all of them are written (R31, R149). -/
def State.wakeResults (s : State) (gid : Nat) : State :=
  match s.groups.find gid with
  | none => s
  | some g =>
    { s with frags := s.frags.map (fun e => (e.1, e.2.map (fun f =>
        match f.why with
        | .results l =>
            if e.1 / 64 = gid ∧ l.all g.resultIn then
              { f with st := if f.active.isSome then .active else .pending, why := .none, ready := some s.clock }
            else f
        | _ => f))) }

/-- An acquire of a group has been answered: its fragments may issue accesses again once none is left (R251). -/
def State.acquired (s : State) (gid pid : Nat) : State :=
  let s : State := { s with groups := s.groups.upd gid (fun g =>
    { g with held := g.held.map (fun h => { h with acquires := h.acquires.filter (· ≠ pid) }) }) }
  { s with frags := s.frags.map (fun e => (e.1, e.2.map (fun f =>
      if e.1 / 64 ≠ gid then f
      else
        let f := { f with acquires := f.acquires.filter (· ≠ pid) }
        if f.why = .acquire ∧ f.acquires = [] then
          { f with st := if f.active.isSome then .active else .pending, why := .none, ready := some s.clock }
        else f))) }

/-- A fragment or a READY entry of the group holds a window on the result that has not closed (R32). -/
def State.windowOpen (s : State) (gid pid : Nat) : Bool :=
  let isOpen (l : List (Nat × Nat)) : Bool := l.any (fun w => w.1 = pid && 0 < w.2)
  (s.fragsOf gid).any (fun e => isOpen e.2.wins) || (s.groups.find gid).any (fun g => g.held.any (fun h => isOpen h.wins))

/-- Written results whose windows have all closed set their flags, and are pending no more (R31, R64). DEDUCED (log 24). -/
def State.settle (s : State) (gid : Nat) : State :=
  match s.groups.find gid with
  | none => s
  | some g =>
    let over' := g.pends.all.filter (fun p => p.2.written && !s.windowOpen gid p.1)
    { s with groups := s.groups.put gid (over'.foldl (fun (g : Group) p => { g.raiseFlags p.2.flags with pends := g.pends.del p.1 }) g) }

/-- A pending result whose value is known is written (R31, R84). DEDUCED (log 24). -/
def State.deliver (s : State) (gid pid : Nat) : State :=
  match s.pendOf gid pid with
  | some p =>
    match p.vals, p.bad with
    | some l, none =>
        let s : State := { s with groups := s.groups.upd gid (fun g =>
          { g.puts l with pends := g.pends.put pid { p with vals := some [], written := true } }) }
        (s.settle gid).wakeResults gid
    | _, _ => s
  | none => s

/-- The windows of a fragment on some results close (R32, R64). -/
def Frag.closes (f : Frag) (l : List Nat) : Frag := { f with wins := f.wins.map (fun w => if l.contains w.1 then (w.1, 0) else w) }

/-- The windows of every fragment of a group close, and its results whose values are known are written (R32). DEDUCED (log 94). -/
def State.complete (s : State) (gid : Nat) : State :=
  let pids := ((s.groups.find gid).map (fun g => g.pends.keys)).getD []
  let s : State := { s with
    frags := s.frags.map (fun e => (e.1, e.2.map (fun f => if e.1 / 64 = gid then f.closes pids else f)))
    groups := s.groups.upd gid (fun g => { g with held := g.held.map (fun h => { h with wins := [] }) }) }
  pids.foldl (fun s pid => s.deliver gid pid) (s.settle gid)

/-- The group numbers of a team that have a record. -/
def State.groupsOf (s : State) (t : Nat) : List Nat := s.groups.keys.filter (fun g => g / 16 = t)
/-- The fragments of a team. -/
def State.teamFrags (s : State) (t : Nat) : List (Nat × Frag) := s.frags.all.filter (fun e => e.1 / 1024 = t)
/-- Every pending result of a team's fragments completes (R32, R415). -/
def State.completeTeam (s : State) (t : Nat) : State :=
  (s.groupsOf t).foldl (fun s g => s.complete g) s

-- The baton (R307) --------------------------------------------------------------------------------------------------

/-- A group of the team holds the baton of its core. -/
def State.holdsBaton (s : State) (t : Nat) : Bool :=
  match s.teams.find t with
  | some x => ((s.core x.core).holder.map (· / 16)) = some t
  | none => false
/-- A fragment of the team waits in BATON. -/
def State.waitsBaton (s : State) (t : Nat) : Bool := (s.teamFrags t).any (fun e => e.2.st = .waitB)

-- Traps (R414, R415, R424, R26) ---------------------------------------------------------------------------------------

/-- TRAPVA and TRAPDATA: what the code's rule gives, a free value where it gives none (log 7). Only the decode checks write
TRAPDATA[1:0], which keeps what it held before (R164). -/
def State.trapValues (s : State) (f : Fail) (before : Word) : (Word × Word) × State :=
  let va := f.va.getD (Config.freeWord s.fresh)
  let free := Config.freeWord (s.fresh + 1)
  let data := f.data.getD (if f.decode then free else free &&& ~~~3 ||| before &&& 3)
  ((va, data), { s with fresh := s.fresh + (if f.va.isNone then 1 else 0) + (if f.data.isNone then 1 else 0) })

/-- A trap of the same team is recorded before the one already recorded (R415). -/
def TrapRegs.before (a b : TrapRegs) : Bool :=
  a.ck = b.ck && (if a.atIssue then !b.atIssue || a.slot < b.slot else !b.atIssue && a.seq < b.seq)

/-- The trap of a compute team recorded, unless one that comes before it is (R415). -/
def Team.record (t : Team) (x : TrapRegs) : Team :=
  match t.run with
  | .stopped => if x.before t.trap then { t with trap := x } else t
  | .trapped => t
  | _ => { t with trap := x, run := .stopped, parkNow := false }

/-- A trap in a compute fragment at issue, or with its answer: the team stops (R414, R415). -/
def State.trapTeam (s : State) (c : Cur) (pc : Word) (f : Fail) : State :=
  let ((va, data), s) := s.trapValues f (((s.teams.find c.team).map (·.trap.data)).getD 0)
  let em := ((s.frags.find c.fid).map (·.em)).getD 0
  let x : TrapRegs := { v := true, code := f.code, pc := pc, va := va, data := data, em := em, slot := c.slot, grp := c.grp
                        ck := s.clock, atIssue := true }
  let s := s.updFrag c (fun q => { q with pc := pc, why := .none, acquires := [], st := if q.st = .active then .active else .pending })
  s.updTeam c.team (fun t => t.record x)

/-- A trap that a copy, an engine operation or a ring raises in a team: no fragment is touched (R415). -/
def State.trapAway (s : State) (c : Cur) (pc : Word) (f : Fail) (seq : Nat) : State :=
  let ((va, data), s) := s.trapValues f (((s.teams.find c.team).map (·.trap.data)).getD 0)
  s.updTeam c.team (fun t => t.record
    { v := true, code := f.code, pc := pc, va := va, data := data, slot := c.slot, grp := c.grp, ck := s.clock, seq := seq })

/-- A trap in a system group is taken through its vector; a second one stops the group (R424). -/
def State.trapSystem (s : State) (c : Cur) (pc : Word) (f : Fail) : State :=
  match s.at' c with
  | none => s
  | some n =>
    if n.g.trap.v then
      let h := hubOfCore n.t.core
      let s := s.updTeam c.team (fun t => { t with run := .trapped })
      let s := s.putHub h { s.hub h with recovery := true }
      s.logEntry h { code := 0x17E, lin := noLin, pasid := n.t.pasid, pc := pc }
    else
      let ((va, data), s) := s.trapValues f n.g.trap.data
      let s := s.complete c.gid
      let s := s.updGroup c (fun g =>
        { g with trap := { v := true, code := f.code, pc := pc, va := va, data := data, em := n.f.em, slot := c.slot, ck := s.clock } })
      s.updFrag c (fun q => { q with
        pc := n.g.vbase + BitVec.ofNat 64 (256 * f.code.cls), why := .none, acquires := []
        st := if q.st = .active then .active else .pending, ready := some (s.clock + 1) })

/-- A group, its fragments and its record taken away. -/
def State.dropTeam (s : State) (t : Nat) : State :=
  { s with
    teams := s.teams.del t
    groups := s.groups.filter (fun e => e.1 / 16 ≠ t)
    frags := s.frags.filter (fun e => e.1 / 1024 ≠ t) }

/-- A trap of a prologue run: the packet is retired with the cause and the PC (R26, R378). -/
def State.trapPrologue (s : State) (c : Cur) (pc : Word) (f : Fail) : State :=
  match s.teams.find c.team with
  | some t => (s.dropTeam c.team).launchFault t.launch f.code pc
  | none => s

/-- The service number under which the model keeps the page service's own work (R353). -/
def faultCall : Nat := 64

/-- The teams of a team's cluster that have not ended. -/
def State.members (s : State) (t : Nat) : List Nat :=
  match s.teams.find t with
  | none => []
  | some x => if x.peers.isEmpty then [t] else x.peers.filter (fun k => (s.teams.find k).any (fun y => y.run ≠ .ended))

/-- A team of the cluster holds its core's baton, or waits for it: none of the cluster is parked (R353). -/
def State.batonHolds (s : State) (ms : List Nat) : Bool := ms.any (fun k => s.holdsBaton k || s.waitsBaton k)

/-- A fault park (R353): the fragment waits in WAIT-L for its page, the page service is asked for it, and the team
parks at once unless its cluster holds a baton or waits for one. -/
def State.faultPark (s : State) (c : Cur) (pc : Word) (va : Word) : State :=
  let stay := s.batonHolds (s.members c.team)
  let s := s.updFrag c (fun q => { q with pc := pc, st := .waitL, why := .page va.toNat, acquires := [] })
  let s := s.updTeam c.team (fun t => { t with parkNow := t.parkNow || !stay })
  match s.teams.find c.team with
  | some t =>
      { s with
        calls := s.calls.put s.nextId
          { num := faultCall, hub := hubOfCore t.core, block := va, ctr := .null, ctrVa := 0, pasid := t.pasid, team := c.team
            lin := t.lin, since := s.clock }
        nextId := s.nextId + 1 }
  | none => s

/-- A trap of fragment c at pc, delivered by its mode (R26, R414, R424); code 0x050 in a PAGED launch parks. -/
def State.raise (s : State) (c : Cur) (pc : Word) (f : Fail) : State :=
  match s.teams.find c.team with
  | none => s
  | some t =>
    match t.kind with
    | .system => s.trapSystem c pc f
    | .prologue => s.trapPrologue c pc f
    | .compute =>
        if f.code = 0x050 ∧ t.paged then s.faultPark c pc (f.va.getD 0)
        else s.trapTeam c pc f

/-- ERET's effect (R425): pc := TRAPPC, em := TRAPEM AND em, V := 0, and the group's other fragments resume. DEDUCED (log 91). -/
def Now.eret (n : Now) : Now :=
  { n with
    g := { n.g with trap := { n.g.trap with v := false } }
    f := { n.f with pc := n.g.trap.pc, em := n.g.trap.em &&& n.f.em } }

-- The end of a word ---------------------------------------------------------------------------------------------------

abbrev Out := Host.Outcome State Fault Refusal

/-- The fragment's results that are not written yet. -/
def Now.awaited (n : Now) : List Nat := (n.f.wins.map (·.1)).filter (fun k => !n.g.resultIn k)

/-- The fragment waits in WAIT-L, at its word, until some results are written (R31, R149). -/
def State.interlock (s : State) (n : Now) (l : List Nat) : State :=
  s.putFrag s.cur { n.f with st := .waitL, why := .results l, ready := none }

/-- The word traps at issue (R44). -/
def State.trapNow (s : State) (n : Now) (f : Fail) : State := s.raise s.cur n.f.pc f

/-- The modes that permit a word (R24). -/
inductive Permit
  | any          -- the prologue set
  | cores        -- compute and system modes
  | system       -- privileged SYS forms (S)
  | systemIo     -- IOLD and IOST
  | matrix       -- FORM 0x8: compute mode
  | prologue     -- P instructions
deriving DecidableEq, Repr

/-- The code of a word that its mode does not permit (R25). DEDUCED (log 17). -/
def Permit.fault (p : Permit) (m : Mode) : Option Code :=
  match p, m with
  | .any, _ => none
  | .cores, .prologue => some 0x02A
  | .cores, _ => none
  | .system, .system => none
  | .system, _ => some 0x028
  | .systemIo, .system => none
  | .systemIo, _ => some 0x029
  | .matrix, .compute => none
  | .matrix, .system => some 0x02B
  | .matrix, .prologue => some 0x02A
  | .prologue, .prologue => none
  | .prologue, _ => some 0x02C

/-- A word's meaning for the fragment s.cur, in a mode that permits it (R25); a fragment that is gone issues
nothing. DESIGN CHOICE (log 14). -/
def State.word (s : State) (p : Permit) (h : Now → State) : Out :=
  match s.now with
  | none => .next s
  | some n =>
    match p.fault n.t.kind with
    | some c => .next (s.trapNow n { code := c })
    | none => .next (h n)

/-- A word with a wait mask: it issues only once every token that the mask names is zero; otherwise its fragment waits
in WAIT-T (R33). -/
def State.wordW (s : State) (wt : Wait) (p : Permit) (h : Now → State) : Out :=
  s.word p (fun n =>
    if (List.range 8).all (fun k => !bit wt k || n.g.tget k = 0) then h n
    else s.putFrag s.cur { n.f with st := .waitT, why := .tokens wt, ready := none })

/-- Group and fragment written, and the fragment goes on at pc + size. A next sequential address of 2^56 or more traps
with TRAPPC at this word (R162). -/
def State.done (s : State) (n : Now) (size : Nat := 8) (gap : Nat := 1) : State :=
  let pc := n.f.pc + BitVec.ofNat 64 size
  let s := s.putGroup s.cur n.g
  if pc.toNat < 2 ^ 56 then s.putFrag s.cur { n.f with pc := pc, ready := some (s.clock + gap) }
  else (s.putFrag s.cur n.f).raise s.cur n.f.pc { code := 0x026 }

/-- A pending result opened under the number pid by the fragment in a slot, with its window (R31). -/
def Now.opens (n : Now) (slot pid la : Nat) (p : Pend) : Now :=
  { n with
    g := { n.g with pends := n.g.pends.put pid { p with pc := n.f.pc, slot := slot } }
    f := { n.f with wins := n.f.wins.filter (fun w => (n.g.pends.find w.1).isSome) ++ [(pid, la)] } }

/-- The result of an interlocked word, whose writes take effect at one instant, `due` (R84). -/
def shortPend (l : List RegVal) (fl : BitVec 5) (due : Nat) (fp : Bool) : Pend :=
  { regs := (l.map RegVal.reg).eraseDups, vals := some l, flags := fl, due := due, short := true, fp := fp }

/-- An interlocked result, written with its flags `lat` ck after issue, and the fragment goes on (R64, R84, R89, R110). -/
def State.write (s : State) (n : Now) (l : List RegVal) (lat : Nat) (fl : BitVec 5 := 0) (fp : Bool := false) (size : Nat := 8) : State :=
  { s with nextId := s.nextId + 1 }.done (n.opens s.cur.slot s.nextId 0 (shortPend l fl (s.clock + lat) fp)) size

/-- A pending result opened with the window LA, and the fragment goes on (R31). -/
def State.later (s : State) (n : Now) (la : La) (p : Pend) : State :=
  { s with nextId := s.nextId + 1 }.done (n.opens s.cur.slot s.nextId la.val p)

/-- A long-latency result whose value is known at issue, written `lat` ck later at the earliest. -/
def State.writeLater (s : State) (n : Now) (lat : Nat) (la : La) (regs : List PendReg) (l : List RegVal) (fl : BitVec 5 := 0)
    (fp : Bool := false) (bad : Option Fail := none) : State :=
  s.later n la { regs := regs, vals := some l, flags := fl, due := s.clock + lat, fp := fp, bad := bad }

/-- The fragment waits after its word: its pc is the next word's, and it resumes there (R144, R236). DEDUCED (log 22). -/
def State.waits (s : State) (n : Now) (st : FragSt) (why : WaitFor) : State :=
  let s := s.done { n with f := { n.f with why := why } }
  s.updFrag s.cur (fun q => if q.why = why then { q with st := st, ready := none } else q)

/-- The fragment waits in WAIT-L for the next ck, and issues the same word again. -/
def Frag.again (f : Frag) (clock : Nat) : Frag := { f with st := .waitL, why := .busy (clock + 1), ready := none }

/-- A fragment that waited becomes PENDING and ready, or stays ACTIVE in its place (R144, R147). -/
def State.wakes (s : State) (c : Cur) : State :=
  s.updFrag c (fun q => { q with
    st := if q.active.isSome then .active else .pending, why := .none, ready := some (s.clock + 1) })

end Sys2Proof.Machine
end

