-- ==== Sys2Proof/Machine/Ctr.lean ====
section
/-! DEFINITION. FORM 0x5 CTR, OPs 0x00 to 0x06: counter instructions (R231 to R240). -/

namespace Sys2Proof.Machine

/-- An operand failure as a trap, with TRAPVA at the operand (R232). -/
def operandFail (c : Code) (x : Word) : Fail := { code := c, va := some x }

/-- A counter operation of the fragment of a word. -/
def Now.ctrOp (n : Now) (c : Cur) (ctr : Ctr) (act : CtrDo) (x : Word) (scope : Option Scope) : CtrOp :=
  { ctr := ctr, act := act, who := .frag c.fid 0, scope := scope.map (·.val), team := c.team, pasid := n.t.pasid, va := x, pc := n.f.pc }

/-- The home may answer the operation with a trap (R198, R219), which is precise: the fragment issues nothing further until the
answer (R232). -/
def CtrOp.mayTrap (o : CtrOp) : Bool :=
  (match o.act with | .test _ => true | _ => false) || (match o.ctr with | .scr t _ => t ≠ o.team | _ => false)

/-- The fragment goes on after its word, or waits in WAIT-L for the result that the word has opened. -/
def State.doneOr (s : State) (hold : Bool) (pid : Nat) (n : Now) : State :=
  if hold then s.waits n .waitL (.results [pid]) else s.done n

/-- A counter operation whose answer fills a pending result (R233). DEDUCED (log 85). -/
def State.askLater (s : State) (n : Now) (la : Nat) (regs : List PendReg) (o : CtrOp) (acq : Bool) : State :=
  let pid := s.nextId
  let s := { s with nextId := pid + 1 }.emit { o with pend := some pid }
  let n := n.opens s.cur.slot pid la { regs := regs, need := 1 }
  s.doneOr o.mayTrap pid (if acq then { n with f := { n.f with acquires := n.f.acquires ++ [pid] } } else n)

/-- CADD (R234). -/
def execCadd (la : La) (ret : Option SReg) (a : SReg) (v : CVal) (rel : Option Scope) (s : State) : Out :=
  s.word .any (fun n =>
    let x := n.g.sget a.val
    match s.ctrOperand n s.cur.team (.add ret.isSome) x with
    | (.error c, s) => s.trapNow n (operandFail c x)
    | (.ok k, s) =>
      let s := s.release (n.party s.cur.team) (rel.map (·.val))
      let o := n.ctrOp s.cur k (.add (n.g.cval v)) x rel
      match ret with
      | none => (s.emit o).done n
      | some d => s.askLater n la.val [.s d.val] { o with reg := d.val } false)

/-- The counter operands of lanes checked in lane order (R232). -/
def State.laneOperands (s : State) (n : Now) (self : Nat) (u : CtrUse) :
    List (Nat × Word) → Except Bad (List (Nat × Word × Ctr)) × State
  | [] => (.ok [], s)
  | (i, x) :: l =>
      match s.ctrOperand n self u x with
      | (.error c, s) => (.error (c, x.toNat), s)
      | (.ok k, s) =>
        match State.laneOperands s n self u l with
        | (.error b, s) => (.error b, s)
        | (.ok r, s) => (.ok ((i, x, k) :: r), s)

/-- The requests of a CADDV: one for each distinct operand, by the lowest lane naming it, with its lanes (R235). -/
def caddvRequests : List (Nat × Word × Ctr) → List (Word × Ctr × List Nat)
  | [] => []
  | (i, x, k) :: l =>
      let rest := caddvRequests l
      let same := (rest.filter (fun e => e.1 = x)).flatMap (fun e => e.2.2)
      (x, k, i :: same) :: rest.filter (fun e => e.1 ≠ x)

/-- CADDV (R235). -/
def execCaddv (g : Guard) (la : La) (ret : Option VReg) (a b : VReg) (rel : Option Scope) (s : State) : Out :=
  s.word .cores (fun n =>
    let lanes := (lanesOf (activeLanes n.f n.g g)).map (fun i => (i, n.g.pairGet a.val i))
    match s.laneOperands n s.cur.team (.add ret.isSome) lanes with
    | (.error e, s) => s.trapNow n (operandFail e.1 (BitVec.ofNat 64 e.2))
    | (.ok l, s) =>
      let s := s.release (n.party s.cur.team) (rel.map (·.val))
      let val (i : Nat) : Word := (n.g.vget b.val i).setWidth 64
      let reqs := caddvRequests l
      let pid := s.nextId
      let s := { s with nextId := pid + 1 }
      let s := reqs.foldl (fun s r =>
        let ls := r.2.2.map (fun i => (i, val i))
        let o := n.ctrOp s.cur r.2.1 (.add (ls.foldl (fun (t : Word) e => t + e.2) 0)) r.1 rel
        s.emit { o with lanes := ls, pend := if ret.isSome then some pid else none, reg := (ret.map (·.val)).getD 0 }) s
      match ret with
      | none => s.done n
      | some d =>
        let regs : List PendReg := [.v d.val, .v (d.val + 1)]
        let p : Pend := if reqs.isEmpty then { regs := regs, vals := some [] } else { regs := regs, need := reqs.length }
        let hold := l.any (fun e => match e.2.2 with | .scr t _ => t ≠ s.cur.team | _ => false)
        s.doneOr hold pid (n.opens s.cur.slot pid la.val p))

/-- CWAIT, and PARK's wait (R236, R431): the fragment waits in WAIT-C for the home's answer. -/
def State.ctrWait (s : State) (n : Now) (a b : SReg) (acq : Option Scope) (why : WaitFor := .answer) : State :=
  let x := n.g.sget a.val
  match s.ctrOperand n s.cur.team .wait x with
  | (.error c, s) => s.trapNow n (operandFail c x)
  | (.ok k, s) =>
    let s := s.emit (n.ctrOp s.cur k (.wait (n.g.sget b.val)) x acq)
    s.waits n .waitC why

/-- CWAIT (R236). -/
def execCwait (a b : SReg) (acq : Option Scope) (s : State) : Out := s.word .cores (fun n => s.ctrWait n a b acq)

/-- CWAITA (R237): each pair goes to its own home. -/
def execCwaita (d a : SReg) (cnt : Fin 4) (acq : Option Scope) (s : State) : Out :=
  s.word .cores (fun n =>
    let xs := (List.range (cnt.val + 1)).map (fun j => (j, n.g.sget (a.val + 2 * j)))
    match s.laneOperands n s.cur.team .wait xs with
    | (.error e, s) => s.trapNow n (operandFail e.1 (BitVec.ofNat 64 e.2))
    | (.ok l, s) =>
      let seq := s.nextId + 1
      let s := l.foldl (fun s e =>
        let o := n.ctrOp s.cur e.2.2 (.wait (n.g.sget (a.val + 2 * e.1 + 1))) e.2.1 acq
        s.emit { o with who := .frag s.cur.fid e.1, seq := seq, reg := d.val, pend := some 0 }) s
      s.waits n .waitC .answer)

/-- CREAD (R238). -/
def execCread (la : La) (d a : SReg) (acq : Option Scope) (s : State) : Out :=
  s.word .any (fun n =>
    let x := n.g.sget a.val
    match s.ctrOperand n s.cur.team .wait x with
    | (.error c, s) => s.trapNow n (operandFail c x)
    | (.ok k, s) => s.askLater n la.val [.s d.val] { n.ctrOp s.cur k .read x acq with reg := d.val } acq.isSome)

/-- CTEST (R239): the lanes of em are fixed at issue. DEDUCED (log 85). -/
def execCtest (d : PReg) (a b : SReg) (acq : Option Scope) (s : State) : Out :=
  s.word .cores (fun n =>
    let x := n.g.sget a.val
    match s.ctrOperand n s.cur.team .wait x with
    | (.error c, s) => s.trapNow n (operandFail c x)
    | (.ok k, s) =>
      let o := n.ctrOp s.cur k (.test (n.g.sget b.val)) x acq
      s.askLater n 0 [.p d.val] { o with reg := d.val, lanes := (lanesOf n.f.em).map (fun i => (i, 0)) } acq.isSome)

/-- CSET (R240): the fragment waits in WAIT-L until the home answers. DESIGN CHOICE (log 32). -/
def execCset (a b : SReg) (s : State) : Out :=
  s.word .cores (fun n =>
    let x := n.g.sget a.val
    match s.ctrOperand n s.cur.team .set x with
    | (.error c, s) => s.trapNow n (operandFail c x)
    | (.ok k, s) => (s.emit (n.ctrOp s.cur k (.set (n.g.sget b.val)) x none)).waits n .waitL .answer)

end Sys2Proof.Machine
end

