-- ==== Sys2Proof/Machine/Flags.lean ====
section
/-! DEFINITION. Conditions, the FPFLAGS bits, and the integer functions of R54 to R56 and R88 to R109. -/

namespace Sys2Proof.Machine

/-- FPFLAGS bits (R63). -/
def fNV : BitVec 5 := 16
def fDZ : BitVec 5 := 8
def fOF : BitVec 5 := 4
def fUF : BitVec 5 := 2
def fNX : BitVec 5 := 1

end Sys2Proof.Machine

namespace Sys2Proof

/-- A condition of R88 on signed or unsigned values. -/
def Cc.holds {w : Nat} (cc : Cc) (n : Sgn) (a b : BitVec w) : Bool :=
  let lt : Bool := match n with
    | .sg => a.slt b
    | .un => a.ult b
  match cc with
  | .eq => a == b
  | .ne => a != b
  | .lt => lt
  | .le => lt || a == b
  | .gt => !(lt || a == b)
  | .ge => !lt

/-- The value of a register as an integer of its type. -/
def Sgn.val {w : Nat} (n : Sgn) (x : BitVec w) : Int :=
  match n with
  | .sg => x.toInt
  | .un => x.toNat

end Sys2Proof

namespace Sys2Proof.Machine

/-- The upper half of the exact product (R90, R100). -/
def mulHigh {w : Nat} (n : Sgn) (a b : BitVec w) : BitVec w := BitVec.ofInt w ((n.val a * n.val b) / 2 ^ w)
/-- The quotient of R56. -/
def divOf {w : Nat} (n : Sgn) (a b : BitVec w) : BitVec w :=
  if b = 0 then BitVec.allOnes w else BitVec.ofInt w ((n.val a).tdiv (n.val b))
/-- The remainder of R56. -/
def remOf {w : Nat} (n : Sgn) (a b : BitVec w) : BitVec w :=
  if b = 0 then a else BitVec.ofInt w ((n.val a).tmod (n.val b))
/-- The lesser of two values (R90, R100). -/
def minOf {w : Nat} (n : Sgn) (a b : BitVec w) : BitVec w := if Cc.holds .lt n b a then b else a
/-- The greater of two values (R90, R100). -/
def maxOf {w : Nat} (n : Sgn) (a b : BitVec w) : BitVec w := if Cc.holds .lt n a b then b else a

/-- Leading zeros; the width when the value is zero (R93, R103). -/
def clz {w : Nat} (x : BitVec w) : Nat := w - (List.range w).foldl (fun k i => if x.getLsbD i then i + 1 else k) 0

/-- Shifts at or beyond the width give 0 or the sign fill (R10, R92, R102). -/
def shl {w : Nat} (x : BitVec w) (k : Nat) : BitVec w := if w ≤ k then 0 else x <<< k
def shr {w : Nat} (x : BitVec w) (k : Nat) : BitVec w := if w ≤ k then 0 else x >>> k
def sra {w : Nat} (x : BitVec w) (k : Nat) : BitVec w := x.sshiftRight (min k (w - 1))

/-- The field of SBFX and VBFX (R94). -/
def bfx {w : Nat} (sx : Bool) (a : BitVec w) (pos len : Nat) : BitVec w :=
  let f := a.toNat / 2 ^ pos % 2 ^ len
  BitVec.ofInt w (if sx ∧ 2 ^ (len - 1) ≤ f then (f : Int) - 2 ^ len else f)
/-- The field of SBFI and VBFI put into d (R94). -/
def bfi {w : Nat} (d a : BitVec w) (pos len : Nat) : BitVec w :=
  let m := BitVec.ofNat w (2 ^ len - 1)
  (d &&& ~~~(m <<< pos)) ||| ((a &&& m) <<< pos)

/-- An exact value clamped to the range of its type (R101). -/
def clamp (w : Nat) (n : Sgn) (x : Int) : BitVec w :=
  match n with
  | .sg => BitVec.ofInt w (max (-(2 : Int) ^ (w - 1)) (min x ((2 : Int) ^ (w - 1) - 1)))
  | .un => BitVec.ofInt w (max 0 (min x ((2 : Int) ^ w - 1)))

/-- |A| of VABS (R103). -/
def absOf (sat : Bool) (a : Lane) : Lane :=
  if sat then clamp 32 .sg a.toInt.natAbs else BitVec.ofInt 32 a.toInt.natAbs

/-- The dot product of VDP4 added to d (R109). -/
def dp4 (na nb : Sgn) (d a b : Lane) : Lane :=
  let byte (n : Sgn) (x : Lane) (k : Nat) : Int := n.val (x.extractLsb' (8 * k) 8)
  d + BitVec.ofInt 32 ((List.range 4).foldl (fun t k => t + byte na a k * byte nb b k) 0)

end Sys2Proof.Machine
end

