-- ==== Sys2Proof/Machine/Float.lean ====
section
/-! DEFINITION. Floating point (R57 to R65, R115 to R126) and the nested-plane format np8 (R66 to R71). Values are
exact dyadic numbers until one rounding. -/

namespace Sys2Proof.Machine

-- Formats and classes (R57, R58) -----------------------------------------------------------------------------------

/-- A binary format: fraction bits and exponent bits (R57). -/
structure Fmt where
  man : Nat
  ex : Nat
deriving DecidableEq, Repr

def fmtF32 : Fmt := ⟨23, 8⟩
def fmtF16 : Fmt := ⟨10, 5⟩
def fmtBf16 : Fmt := ⟨7, 8⟩
/-- The format that HF names (R112). -/
def fmtHalf : Hf → Fmt
  | .f16 => fmtF16
  | .bf16 => fmtBf16

/-- The bias of a format. -/
def Fmt.bias (f : Fmt) : Nat := 2 ^ (f.ex - 1) - 1
/-- The exponent of the last place of a subnormal. -/
def Fmt.low (f : Fmt) : Int := 1 - (f.bias : Int) - f.man
/-- The sign bit of a format. -/
def Fmt.signBit (f : Fmt) : Nat := 2 ^ (f.man + f.ex)
/-- +∞ of a format. -/
def Fmt.inf (f : Fmt) : Nat := (2 ^ f.ex - 1) * 2 ^ f.man
/-- The canonical NaN of a format (R59). -/
def Fmt.nan (f : Fmt) : Nat := f.inf + 2 ^ (f.man - 1)

/-- A value: a NaN, an infinity, or (−1)^neg × m × 2^e. -/
inductive Fl
  | nan (signalling : Bool)
  | inf (neg : Bool)
  | fin (neg : Bool) (m : Nat) (e : Int)
deriving DecidableEq, Repr

/-- The value of an encoding (R58). -/
def Fmt.unpack (f : Fmt) (x : Nat) : Fl :=
  let neg : Bool := x / f.signBit % 2 = 1
  let e := x / 2 ^ f.man % 2 ^ f.ex
  let m := x % 2 ^ f.man
  if e = 2 ^ f.ex - 1 then (if m = 0 then .inf neg else .nan (m < 2 ^ (f.man - 1)))
  else if e = 0 then .fin neg m f.low
  else .fin neg (2 ^ f.man + m) (f.low + (e - 1 : Nat))

def Fl.isNan : Fl → Bool
  | .nan _ => true
  | _ => false
def Fl.isSnan : Fl → Bool
  | .nan s => s
  | _ => false
def Fl.isInf : Fl → Bool
  | .inf _ => true
  | _ => false
def Fl.isZero : Fl → Bool
  | .fin _ m _ => m = 0
  | _ => false
def Fl.neg : Fl → Bool
  | .inf s => s
  | .fin s _ _ => s
  | .nan _ => false
/-- The value with its sign inverted. -/
def Fl.flip : Fl → Fl
  | .inf s => .inf !s
  | .fin s m e => .fin (!s) m e
  | x => x

/-- An encoding with the flags of its computation. -/
abbrev FRes := Nat × BitVec 5

def Fmt.signed (f : Fmt) (neg : Bool) (x : Nat) : Nat := if neg then f.signBit + x else x
/-- The canonical NaN with NV or no flag (R59). -/
def Fmt.nanRes (f : Fmt) (nv : Bool) : FRes := (f.nan, if nv then fNV else 0)

-- Rounding (R60, R61) ---------------------------------------------------------------------------------------------------

/-- A rounding mode of RM, or the truncation of R125, whose overflow gives an infinity. -/
inductive Rnd
  | mode (rm : Rm)
  | trunc
deriving DecidableEq, Repr

/-- m + sticky over 2^k rounded to an integer, with whether it is inexact. -/
def rndShift (r : Rnd) (neg : Bool) (m k : Nat) (sticky : Bool) : Nat × Bool :=
  let q := m / 2 ^ k
  let rest := m % 2 ^ k
  let inexact := rest ≠ 0 || sticky
  let up : Bool := match r with
    | .trunc => false
    | .mode .rtz => false
    | .mode .rdn => neg && inexact
    | .mode .rup => !neg && inexact
    | .mode .rne => 2 ^ k < 2 * rest || (2 ^ k = 2 * rest && (sticky || q % 2 = 1))
  (if up then q + 1 else q, inexact)

/-- Overflow gives an infinity, or the largest finite value where the mode points the other way (R60). -/
def Rnd.toInf (r : Rnd) (neg : Bool) : Bool :=
  match r with
  | .trunc => true
  | .mode .rne => true
  | .mode .rtz => false
  | .mode .rdn => neg
  | .mode .rup => !neg

/-- (−1)^neg × (m + sticky) × 2^e rounded to a format, for m at least 1, with OF, UF and NX (R60 to R62). When
sticky holds, m has more bits than the format. -/
def Fmt.round (f : Fmt) (r : Rnd) (neg : Bool) (m : Nat) (e : Int) (sticky : Bool) : FRes :=
  let p := f.man + 1
  let nb : Nat := m.log2 + 1
  let free : Int := e + nb - p
  let q : Int := max free f.low
  let (n, inexact) := if q ≤ e then (m * 2 ^ (e - q).toNat, sticky) else rndShift r neg m (q - e).toNat sticky
  let (n, q) := if n = 2 ^ p then (2 ^ f.man, q + 1) else (n, q)
  let tiny : Bool := free < f.low &&
    !(e + nb = f.low + f.man && (rndShift r neg m (free - e).toNat sticky).1 = 2 ^ p)
  if n < 2 ^ f.man then
    (f.signed neg n, (if inexact then fNX else 0) ||| (if tiny && inexact then fUF else 0))
  else
    let ex := (q - f.low).toNat + 1
    if 2 ^ f.ex - 1 ≤ ex then
      (f.signed neg (if r.toInf neg then f.inf else f.inf - 1), fOF ||| fNX)
    else
      (f.signed neg (ex * 2 ^ f.man + (n - 2 ^ f.man)),
        (if inexact then fNX else 0) ||| (if tiny && inexact then fUF else 0))

/-- An exact sum of signed dyadic terms as an integer and its exponent. -/
def exactSum (l : List (Bool × Nat × Int)) : Int × Int :=
  let lo := l.foldl (fun (a : Int) t => if t.2.1 = 0 then a else min a t.2.2) 10000
  (l.foldl (fun (a : Int) t =>
    if t.2.1 = 0 then a
    else
      let v : Int := (t.2.1 * 2 ^ (t.2.2 - lo).toNat : Nat)
      if t.1 then a - v else a + v) 0, lo)

/-- An exact sum rounded once. An exact zero has the sign that all terms share, else + or, in RDN, − (R60). -/
def Fmt.sum (f : Fmt) (rm : Rm) (l : List (Bool × Nat × Int)) : FRes :=
  let (v, e) := exactSum l
  if v = 0 then
    let neg := if l.all (fun t => t.1) then true else if l.all (fun t => !t.1) then false else decide (rm = .rdn)
    (f.signed neg 0, 0)
  else f.round (.mode rm) (v < 0) v.natAbs e false

-- Arithmetic (R115, R116, R122 to R124) -----------------------------------------------------------------------------

/-- The product of two values that are not NaN; none when it is 0 × ∞. -/
def mulFl (a b : Fl) : Option Fl :=
  match a, b with
  | .fin s m e, .fin t n k => some (.fin (s != t) (m * n) (e + k))
  | x, y => if x.isZero || y.isZero then none else some (.inf (x.neg != y.neg))

/-- A sum of values, rounded once: NaN results are canonical, and NV marks invalid operations (R59, R62). -/
def Fmt.addAll (f : Fmt) (rm : Rm) (l : List Fl) : FRes :=
  if l.any Fl.isNan then f.nanRes (l.any Fl.isSnan)
  else
    let infs := l.filter Fl.isInf
    match infs with
    | [] => f.sum rm (l.filterMap (fun x => match x with | .fin s m e => some (s, m, e) | _ => none))
    | x :: rest => if rest.all (fun y => y.neg == x.neg) then (f.signed x.neg f.inf, 0) else f.nanRes true

/-- A + B (R115). -/
def Fmt.add (f : Fmt) (rm : Rm) (a b : Nat) : FRes := f.addAll rm [f.unpack a, f.unpack b]
/-- A − B (R115). -/
def Fmt.sub (f : Fmt) (rm : Rm) (a b : Nat) : FRes := f.addAll rm [f.unpack a, (f.unpack b).flip]

/-- Products plus an addend, rounded once in the result format; infinities of opposite sign among the terms are invalid also where
another term is a NaN (R116, R122, R123). -/
def Fmt.fused (f : Fmt) (rm : Rm) (negate : Bool) (prods : List (Fl × Fl)) (c : Fl) : FRes :=
  let ins := prods.flatMap (fun p => [p.1, p.2]) ++ [c]
  let inv := prods.any (fun p => !p.1.isNan && !p.2.isNan && (mulFl p.1 p.2).isNone)
  let infs := (prods.filterMap (fun p => if p.1.isNan || p.2.isNan then none else (mulFl p.1 p.2).map (fun x => if negate then x.flip else x)) ++ [c]).filter Fl.isInf
  let clash := infs.any (·.neg) && infs.any (fun x => !x.neg)
  if ins.any Fl.isNan || inv then f.nanRes (inv || clash || ins.any Fl.isSnan)
  else f.addAll rm (prods.map (fun p => let x := (mulFl p.1 p.2).getD (.fin false 0 0); if negate then x.flip else x) ++ [c])

/-- A × B (R115). -/
def Fmt.mul (f : Fmt) (rm : Rm) (a b : Nat) : FRes :=
  let x := f.unpack a
  let y := f.unpack b
  if x.isNan || y.isNan then f.nanRes (x.isSnan || y.isSnan)
  else match mulFl x y with
    | none => f.nanRes true
    | some (.fin s m e) => if m = 0 then (f.signed s 0, 0) else f.round (.mode rm) s m e false
    | some z => (f.signed z.neg f.inf, 0)

/-- A / B (R124). -/
def Fmt.div (f : Fmt) (r : Rnd) (a b : Fl) : FRes :=
  if a.isNan || b.isNan then f.nanRes (a.isSnan || b.isSnan)
  else
    let neg := a.neg != b.neg
    match a, b with
    | .inf _, .inf _ => f.nanRes true
    | .inf _, _ => (f.signed neg f.inf, 0)
    | _, .inf _ => (f.signed neg 0, 0)
    | .fin _ m e, .fin _ n k =>
        if n = 0 then (if m = 0 then f.nanRes true else (f.signed neg f.inf, fDZ))
        else if m = 0 then (f.signed neg 0, 0)
        else
          let sh := n.log2 + f.man + 4
          f.round r neg (m * 2 ^ sh / n) (e - k - sh) (m * 2 ^ sh % n ≠ 0)
    | _, _ => f.nanRes false

/-- The integer square root, digit by digit. -/
def isqrt (n : Nat) : Nat :=
  let k := n.log2 / 2 + 1
  (List.range k).foldl (fun r i => let t := r + 2 ^ (k - 1 - i); if t * t ≤ n then t else r) 0

/-- √A (R124, R125). -/
def Fmt.sqrt (f : Fmt) (r : Rnd) (a : Fl) : FRes :=
  match a with
  | .nan s => f.nanRes s
  | .inf neg => if neg then f.nanRes true else (f.inf, 0)
  | .fin neg m e =>
      if m = 0 then (f.signed neg 0, 0)
      else if neg then f.nanRes true
      else
        let sh := 2 * (f.man + 4) + (if e % 2 = 0 then 0 else 1)
        let x := m * 2 ^ sh
        let q := isqrt x
        f.round r false q ((e - sh) / 2) (q * q ≠ x)

-- Transcendental functions (R125) ---------------------------------------------------------------------------------------

/-- 1 / A (R125). -/
def rcpOf (x : Nat) : FRes := fmtF32.div .trunc (.fin false 1 0) (fmtF32.unpack x)

/-- 1 / √A (R125). -/
def rsqOf (x : Nat) : FRes :=
  match fmtF32.unpack x with
  | .nan s => fmtF32.nanRes s
  | .inf neg => if neg then fmtF32.nanRes true else (0, 0)
  | .fin neg m e =>
      if m = 0 then (fmtF32.signed neg fmtF32.inf, fDZ)
      else if neg then fmtF32.nanRes true
      else
        -- m × 2^e with e even; 1 / √m to 64 fraction bits
        let (m, e) := if e % 2 = 0 then (m, e) else (2 * m, e - 1)
        let y := isqrt (2 ^ 128 / m)
        fmtF32.round .trunc false y (-64 - e / 2) (y * y * m ≠ 2 ^ 128)

/-- Fraction bits with which 2^f is formed. -/
def exp2Bits : Nat := 220

/-- 2^(2^−1), 2^(2^−2), … to 220 fraction bits. -/
def exp2Roots : Nat → Nat → List Nat
  | 0, _ => []
  | n + 1, x => let y := isqrt (x * 2 ^ exp2Bits); y :: exp2Roots n y

/-- 2^f for f = fr / 2^149, to 220 fraction bits, from below: the product of the roots that fr selects. -/
def exp2Frac (fr : Nat) : Nat :=
  (exp2Roots 149 (2 * 2 ^ exp2Bits)).zipIdx.foldl
    (fun p e => if fr / 2 ^ (148 - e.2) % 2 = 1 then p * e.1 / 2 ^ exp2Bits else p) (2 ^ exp2Bits)

/-- 2^A (R125). -/
def exp2Of (x : Nat) : FRes :=
  match fmtF32.unpack x with
  | .nan s => fmtF32.nanRes s
  | .inf neg => if neg then (0, 0) else (fmtF32.inf, 0)
  | .fin neg m e =>
      if m = 0 then (0x3F800000, 0)
      else
        -- A × 2^149 as an integer; every f32 is one
        let v : Int := (m * 2 ^ (e + 149).toNat : Nat)
        let v := if neg then -v else v
        if 128 * 2 ^ 149 ≤ v then (fmtF32.inf, fOF ||| fNX)
        else if v < -(149 * 2 ^ 149) then (0, fUF ||| fNX)
        else
          let i := v / 2 ^ 149
          let fr := (v % 2 ^ 149).toNat
          fmtF32.round .trunc false (exp2Frac fr) (i - exp2Bits) (fr ≠ 0)

/-- Bits of log2 of y / 2^300, 1 ≤ y / 2^300 < 2, by repeated squaring: n bits after the point. -/
def log2Frac : Nat → Nat → Nat → Nat
  | 0, _, acc => acc
  | n + 1, y, acc =>
      let y := y * y / 2 ^ 300
      if 2 * 2 ^ 300 ≤ y then log2Frac n (y / 2) (2 * acc + 1) else log2Frac n y (2 * acc)

/-- log2(A) (R125). -/
def log2Of (x : Nat) : FRes :=
  match fmtF32.unpack x with
  | .nan s => fmtF32.nanRes s
  | .inf neg => if neg then fmtF32.nanRes true else (fmtF32.inf, 0)
  | .fin neg m e =>
      if m = 0 then (fmtF32.signed true fmtF32.inf, fDZ)
      else if neg then fmtF32.nanRes true
      else
        let ex : Int := e + m.log2
        let y := m * 2 ^ (300 - m.log2)
        if y = 2 ^ 300 then
          (if ex = 0 then (0, 0) else fmtF32.round .trunc (ex < 0) ex.natAbs 0 false)
        else
          let v : Int := ex * 2 ^ 100 + log2Frac 100 y 0
          if v < 0 then fmtF32.round .trunc true (v.natAbs - 1) (-100) true
          else fmtF32.round .trunc false v.natAbs (-100) true

-- Comparison and classes (R117 to R121) -----------------------------------------------------------------------------------

/-- A < B, for values that are not NaN; −0 and +0 are equal. -/
def Fl.lt (a b : Fl) : Bool :=
  match a, b with
  | .inf s, .inf t => s && !t
  | .inf s, _ => s
  | _, .inf t => !t
  | .fin s m e, .fin t n k => (exactSum [(s, m, e), (!t, n, k)]).1 < 0
  | _, _ => false

/-- VFMIN and VFMAX (R117). -/
def minmaxF (max : Bool) (a b : Nat) : FRes :=
  let x := fmtF32.unpack a
  let y := fmtF32.unpack b
  let fl := if x.isSnan || y.isSnan then fNV else 0
  let less := x.lt y || (!y.lt x && x.neg && !y.neg)
  if x.isNan && y.isNan then (fmtF32.nan, fl)
  else if x.isNan then (b, fl)
  else if y.isNan then (a, fl)
  else (if less != max then a else b, fl)

/-- VFCMP (R119). -/
def fcmpOf (cc : Fcc) (a b : Nat) : Bool × BitVec 5 :=
  let x := fmtF32.unpack a
  let y := fmtF32.unpack b
  let anyNan := x.isNan || y.isNan
  let snan := x.isSnan || y.isSnan
  let lt := !anyNan && x.lt y
  let gt := !anyNan && y.lt x
  let eq := !anyNan && !lt && !gt
  let fl (b : Bool) : BitVec 5 := if b then fNV else 0
  match cc with
  | .eq => (eq, fl snan)
  | .ne => (!eq, fl snan)
  | .lt => (lt, fl anyNan)
  | .le => (lt || eq, fl anyNan)
  | .gt => (gt, fl anyNan)
  | .ge => (gt || eq, fl anyNan)
  | .un => (anyNan, fl snan)
  | .ord => (!anyNan, fl snan)

/-- VFCLASS (R120). -/
def fclassOf (a : Nat) : Nat :=
  match fmtF32.unpack a with
  | .inf neg => if neg then 1 else 128
  | .nan s => if s then 256 else 512
  | .fin neg m _ =>
      if m = 0 then (if neg then 8 else 16)
      else if m < 2 ^ 23 then (if neg then 4 else 32)
      else (if neg then 2 else 64)

/-- (m × 2^e) rounded to an integer in mode RM, with whether it is inexact. -/
def rndInt (rm : Rm) (neg : Bool) (m : Nat) (e : Int) : Nat × Bool :=
  if 0 ≤ e then (m * 2 ^ e.toNat, false) else rndShift (.mode rm) neg m (-e).toNat false

/-- VFRND (R121). -/
def frndOf (rm : Rm) (a : Nat) : FRes :=
  match fmtF32.unpack a with
  | .nan s => fmtF32.nanRes s
  | .inf _ => (a, 0)
  | .fin neg m e =>
      let n := (rndInt rm neg m e).1
      if n = 0 then (fmtF32.signed neg 0, 0) else ((fmtF32.round (.mode rm) neg n 0 false).1, 0)

-- Conversion (R126) --------------------------------------------------------------------------------------------------------

/-- The format of a float type of VCVT, none for an integer type. -/
def cvtFmt : CvtTy → Option Fmt
  | .f32 => some fmtF32
  | .f16 => some fmtF16
  | .bf16 => some fmtBf16
  | _ => none
/-- The type is half precision. -/
def cvtHalf : CvtTy → Bool
  | .f16 | .bf16 => true
  | _ => false
/-- The signedness of an integer type of VCVT. -/
def cvtSgn : CvtTy → Sgn
  | .n32 => .un
  | _ => .sg

/-- A value rounded to a format, NaNs canonical (R59). -/
def Fmt.ofFl (f : Fmt) (rm : Rm) (x : Fl) : FRes :=
  match x with
  | .nan s => f.nanRes s
  | .inf neg => (f.signed neg f.inf, 0)
  | .fin neg m e => if m = 0 then (f.signed neg 0, 0) else f.round (.mode rm) neg m e false

/-- A float value converted to a 32-bit integer type (R126). -/
def fl2int (n : Sgn) (rm : Rm) (x : Fl) : FRes :=
  let (lo, hi) : Int × Int := match n with
    | .sg => (-(2 ^ 31), 2 ^ 31 - 1)
    | .un => (0, 2 ^ 32 - 1)
  let enc (v : Int) : Nat := (BitVec.ofInt 32 v).toNat
  match x with
  | .nan _ => (0, fNV)
  | .inf neg => (enc (if neg then lo else hi), fNV)
  | .fin neg m e =>
      let (q, inexact) := rndInt rm neg m e
      let v : Int := if neg then -(q : Int) else q
      if v < lo then (enc lo, fNV)
      else if hi < v then (enc hi, fNV)
      else (enc v, if inexact then fNX else 0)

/-- VCVT of one value (R126): the source's bits, already taken from its half. -/
def cvtOf (dt st : CvtTy) (rm : Rm) (x : Nat) : FRes :=
  match cvtFmt st, cvtFmt dt with
  | some f, some g => g.ofFl rm (f.unpack x)
  | some f, none => fl2int (cvtSgn dt) rm (f.unpack x)
  | none, some g =>
      let v := (cvtSgn st).val (BitVec.ofNat 32 x)
      if v = 0 then (0, 0) else g.round (.mode rm) (v < 0) v.natAbs 0 false
  | none, none => ((clamp 32 (cvtSgn dt) ((cvtSgn st).val (BitVec.ofNat 32 x))).toNat, 0)

-- np8 (R66 to R71) ---------------------------------------------------------------------------------------------------------

/-- An element that VNPK quantises: a dyadic value, or an infinity. A NaN has become 0 (R71). -/
def npkElem (x : Fl) : Fl :=
  match x with
  | .nan _ => .fin false 0 0
  | y => y

/-- rne_int(y / 2^k) (R71); none for an infinity. -/
def rneInt (y : Fl) (k : Int) : Option Int :=
  match y with
  | .fin neg m e => let q := (rndInt .rne neg m (e - k)).1; some (if neg then -(q : Int) else q)
  | _ => none

/-- fits(y, 2^k) (R71). -/
def npFits (y : Fl) (k : Int) : Bool :=
  match rneInt y k with
  | some q => -128 ≤ q && q ≤ 127
  | none => false

/-- The least block exponent at which every element fits, 254 when none does (R71). -/
def npExp (ys : List Fl) : Nat → Nat → Nat
  | 0, _ => 254
  | n + 1, e => if ys.all (fun y => npFits y ((e : Int) - 134)) then e else npExp ys n (e + 1)

/-- One element quantised at 2^k: q and its flags (R71). -/
def npQuant (y : Fl) (k : Int) : Int × BitVec 5 :=
  match y with
  | .fin neg m e =>
      let (q, inexact) := rndInt .rne neg m (e - k)
      let r : Int := if neg then -(q : Int) else q
      let c := max (-128) (min r 127)
      (c, (if c ≠ r then fOF else 0) ||| (if inexact || c ≠ r then fNX else 0) ||| (if c = 0 && m ≠ 0 then fUF else 0))
  | y => (if y.neg then -128 else 127, fOF ||| fNX)

/-- A block quantised by R71: the elements' bytes, E, M and the flags. -/
def npPack (xs : List Nat) : List (BitVec 8) × Nat × Nat × BitVec 5 :=
  let fl := xs.map fmtF32.unpack
  let nv : BitVec 5 := if fl.any Fl.isNan then fNV else 0
  let ys := fl.map npkElem
  if ys.all Fl.isZero then (ys.map (fun _ => 0), 0, 0, nv)
  else
    let e := npExp ys 254 1
    let k : Int := (e : Int) - 134
    let pair (j : Nat) : Bool := npFits (ys.getD (2 * j) (.fin false 0 0)) (k - 1) && npFits (ys.getD (2 * j + 1) (.fin false 0 0)) (k - 1)
    let ms := (List.range (ys.length / 2)).map pair
    let qs := ys.zipIdx.map (fun y => npQuant y.1 (if ms.getD (y.2 / 2) false then k - 1 else k))
    (qs.map (fun q => BitVec.ofInt 8 q.1), e, ms.zipIdx.foldl (fun a b => if b.1 then a + 2 ^ b.2 else a) 0,
      qs.foldl (fun a q => a ||| q.2) nv)

/-- The p-plane integer (R70). -/
def planeInt (p : Nat) (mid : Bool) (q : BitVec 8) : Int :=
  let qp := q.toInt - q.toInt % 2 ^ (8 - p)
  if mid && p < 8 then qp + 2 ^ (7 - p) else qp

/-- Element i of a block with exponent E and micro-exponents M, read at p planes, as f32 (R66, R67, R70). -/
def npElem (p : Nat) (mid : Bool) (q : BitVec 8) (e m i : Nat) : FRes :=
  if e = 0 then (0, 0)
  else if e = 255 then fmtF32.nanRes true
  else
    let v := planeInt p mid q
    if v = 0 then (0, 0)
    else fmtF32.round (.mode .rne) (v < 0) v.natAbs ((e : Int) - 134 - (if m / 2 ^ (i / 2) % 2 = 1 then 1 else 0)) false

-- Reduction trees (R76) -----------------------------------------------------------------------------------------------------

/-- One level of the balanced tree: absent children pass their sibling unchanged. -/
def treeLevel {α : Type} (op : α → α → α) : List (Option α) → List (Option α)
  | a :: b :: l =>
      (match a, b with
        | some x, some y => some (op x y)
        | some x, none => some x
        | none, y => y) :: treeLevel op l
  | l => l

/-- The value of the tree over 32 positions. -/
def tree {α : Type} (op : α → α → α) (l : List (Option α)) : Option α :=
  ((List.range 5).foldl (fun l _ => treeLevel op l) l).head?.join

end Sys2Proof.Machine
end

