-- ==== Sys2Proof/Machine/Mem.lean ====
section
/-! DEFINITION. FORM 0x4 MEM: loads, stores, the read-only path, reductions in memory and prefetch (R203 to R211,
R241 to R243). -/

namespace Sys2Proof.Machine

-- Sizes and register data (R204) ------------------------------------------------------------------------------------

/-- Bytes of an access size (R203). -/
def szBytes : Sz → Nat
  | .b => 1
  | .h => 2
  | .w => 4
  | .d => 8
  | .q => 16

/-- n bits of a loaded value extended to w bits (R206). -/
def extendTo (w : Nat) (n : Sgn) (bits x : Nat) : BitVec w :=
  match n with
  | .un => BitVec.ofNat w x
  | .sg => BitVec.ofInt w (if 2 ^ (bits - 1) ≤ x then (x : Int) - 2 ^ bits else x)

/-- What a vector load writes in lane i (R204). -/
def vecLoad (sz : Sz) (n : Sgn) (d i : Nat) (l : List Byte) : List RegVal :=
  let x := leNat l
  match sz with
  | .b => [.v d i (extendTo 32 n 8 x)]
  | .h => [.v d i (extendTo 32 n 16 x)]
  | .w => [.v d i (BitVec.ofNat 32 x)]
  | .d => pairVals d i (BitVec.ofNat 64 x)
  | .q => (List.range 4).map (fun k => .v (d + k) i (BitVec.ofNat 32 (x / 2 ^ (32 * k))))

/-- The registers that a vector access of a size names (R204). -/
def vecRegs (sz : Sz) (d : Nat) : List PendReg :=
  match sz with
  | .d => [.v d, .v (d + 1)]
  | .q => [.v d, .v (d + 1), .v (d + 2), .v (d + 3)]
  | _ => [.v d]

/-- The bytes that a vector store takes from lane i (R204, R207). -/
def vecBytes (g : Group) (sz : Sz) (d i : Nat) : List Byte :=
  match sz with
  | .q => (List.range 4).flatMap (fun k => leBytes 4 (g.vget (d + k) i).toNat)
  | .d => leBytes 8 (g.pairGet d i).toNat
  | _ => leBytes (szBytes sz) (g.vget d i).toNat

/-- What a scalar load writes (R204). -/
def scaLoad (sz : Sz) (n : Sgn) (d : Nat) (l : List Byte) : List RegVal :=
  let x := leNat l
  match sz with
  | .b => [.s d (extendTo 64 n 8 x)]
  | .h => [.s d (extendTo 64 n 16 x)]
  | .w => [.s d (extendTo 64 n 32 x)]
  | .d => [.s d (BitVec.ofNat 64 x)]
  | .q => [.s d (BitVec.ofNat 64 x), .s (d + 1) (BitVec.ofNat 64 (x / 2 ^ 64))]

/-- The scalars that an access of a size names. -/
def scaRegs (sz : Sz) (d : Nat) : List PendReg :=
  match sz with
  | .q => [.s d, .s (d + 1)]
  | _ => [.s d]

/-- The bytes that a scalar store takes (R204, R207). -/
def scaBytes (g : Group) (sz : Sz) (d : Nat) : List Byte :=
  match sz with
  | .q => leBytes 8 (g.sget d).toNat ++ leBytes 8 (g.sget (d + 1)).toNat
  | _ => leBytes (szBytes sz) (g.sget d).toNat

-- Addresses (R206) -----------------------------------------------------------------------------------------------------

/-- pair(A)[i] + sext(disp, 17), modulo 2^64. -/
def pairAddr (g : Group) (a : Nat) (disp : BitVec 17) (i : Nat) : Nat := (g.pairGet a i + disp.signExtend 64).toNat
/-- The scratch address of a lane, modulo 2^32. -/
def scrAddr (g : Group) (a : VSrc) (disp : BitVec 17) (i : Nat) : Nat := (g.src a i + disp.signExtend 32).toNat
/-- The scratch address of SLD.sp and SST.sp, modulo 2^32. -/
def scaScrAddr (g : Group) (a : Nat) (disp : BitVec 17) : Nat := ((g.sget a).setWidth 32 + disp.signExtend 32).toNat
/-- The virtual address of SLD and SST. -/
def scaAddr (g : Group) (a : Nat) (disp : BitVec 17) : Nat := (g.sget a + disp.signExtend 64).toNat

-- Virtual memory, lane by lane (R201) -------------------------------------------------------------------------------------

/-- Checked pieces of one lane: its lane number, its address and its pieces. -/
abbrev LanePieces := Nat × Nat × List (Nat × Nat × Nat)

/-- Every piece of every lane checked, in lane order and then address order (R201). -/
def State.checkLanes (s : State) (p : Party) (a : Acc) (n : Nat) :
    List (Nat × Nat) → Except Bad (List LanePieces) × State
  | [] => (.ok [], s)
  | (i, va) :: l =>
      match s.checkAccess p a va n with
      | (.error b, s) => (.error b, s)
      | (.ok r, s) =>
        match State.checkLanes s p a n l with
        | (.error b, s) => (.error b, s)
        | (.ok rest, s) => (.ok ((i, va, r) :: rest), s)

/-- The first poisoned piece of one access (R201, R464). -/
def State.badPiece (s : State) (p : Party) (va : Nat) : List (Nat × Nat × Nat) → Option Bad
  | [] => none
  | (pa, _, n) :: l => if s.loadPoison p pa n then some (poisonCode pa, va) else State.badPiece s p (va + n) l

/-- The bytes of each lane, in lane order, and the first poisoned piece. -/
def State.readLanes (s : State) (p : Party) : List LanePieces → (List (Nat × List Byte) × Option Bad) × State
  | [] => (([], none), s)
  | (i, va, r) :: l =>
      let bad := s.badPiece p va r
      let ((x, _), s) := s.readPieces p r
      let ((rest, b), s) := State.readLanes s p l
      (((i, x) :: rest, bad.orElse (fun _ => b)), s)

/-- The trap of poisoned data, raised when the result would be written (R201). -/
def poisonFail (b : Option Bad) : Option Fail := b.map (fun b => { code := b.1, va := some (BitVec.ofNat 64 b.2) })

/-- A checked failure as a trap. -/
def badFail (b : Bad) : Fail := { code := b.1, va := some (BitVec.ofNat 64 b.2) }

/-- The numbered pieces of a load (R200). -/
def loadPieces (l : List LanePieces) : Tab Piece :=
  numbered ((l.flatMap (fun e => (e.2.2.foldl (fun (x : List (Nat × Nat × Nat × Nat) × Nat) r => (x.1 ++ [(r.1, r.2.1, r.2.2, x.2)], x.2 + r.2.2))
    ([], e.2.1)).1)).zipIdx.map (fun e => .load e.2 e.1.1 e.1.2.1 e.1.2.2.1 e.1.2.2.2))

/-- The pieces of a store: those of each lane over its bytes, in lane order (R200, R207). -/
def storePieces : List (Nat × Nat × Nat) → List Byte → List Piece
  | [], _ => []
  | (pa, _, n) :: r, l => .store pa (l.take n) :: storePieces r (l.drop n)

/-- Each lane with its number of pieces. -/
def laneCounts {α : Type} (l : List (Nat × List α)) : List (Nat × Nat) := l.map (fun e => (e.1, e.2.length))

/-- A load that is performed piece by piece: its result is pending, and its last piece gives the value (R200). -/
def State.loadTorn (s : State) (n : Now) (lat : Nat) (la : La) (regs : List PendReg) (x : Torn) : State :=
  (s.later n la { regs := regs, due := s.clock + lat }).tearInto x

/-- LD (R206). -/
def execLd (wt : Wait) (la : La) (sz : Sz) (n : Sgn) (d a : VReg) (disp : BitVec 17) (s : State) : Out :=
  s.wordW wt .cores (fun w =>
    let p := w.party s.cur.team
    match s.checkLanes p .load (szBytes sz) ((lanesOf w.f.em).map (fun i => (i, pairAddr w.g a.val disp i))) with
    | (.error b, s) => s.trapNow w (badFail b)
    | (.ok l, s) =>
      match s.tears (1 < (l.flatMap (·.2.2)).length) with
      | (true, s) => s.loadTorn w 16 la (vecRegs sz d.val)
          { core := p.l1, team := some s.cur.team, todo := loadPieces l
            next := .load s.cur.gid s.nextId true sz n d.val (laneCounts (l.map (fun e => (e.1, e.2.2)))) }
      | (false, s) =>
        let ((r, bad), s) := s.readLanes p l
        s.writeLater w 16 la (vecRegs sz d.val) (r.flatMap (fun e => vecLoad sz n d.val e.1 e.2)) 0 false (poisonFail bad))

/-- ST (R207): lanes in ascending order, so the higher lane's bytes stand. -/
def execSt (g : Guard) (wt : Wait) (sz : Sz) (d a : VReg) (disp : BitVec 17) (s : State) : Out :=
  s.wordW wt .cores (fun w =>
    let p := w.party s.cur.team
    match s.checkLanes p .store (szBytes sz) ((lanesOf (activeLanes w.f w.g g)).map (fun i => (i, pairAddr w.g a.val disp i))) with
    | (.error b, s) => s.trapNow w (badFail b)
    | (.ok l, s) =>
      match s.tears (1 < (l.flatMap (·.2.2)).length) with
      | (true, s) => (s.done w).tearInto
          { core := p.l1, team := some s.cur.team, todo := numbered (l.flatMap (fun e => storePieces e.2.2 (vecBytes w.g sz d.val e.1))) }
      | (false, s) => (l.foldl (fun s e => s.writePieces p e.2.2 (vecBytes w.g sz d.val e.1)) s).done w)

-- Scratch, lane by lane (R197) -------------------------------------------------------------------------------------------------

/-- Every lane's scratch access checked in order (R197). -/
def State.checkScrLanes (s : State) (t : Team) (self : Nat) (u : ScrUse) (n : Nat) :
    List (Nat × Nat) → Except Bad (List (Nat × List (Scr × Nat)))
  | [] => .ok []
  | (i, a) :: l =>
      match s.checkScr t self u a n with
      | .error b => .error b
      | .ok r => (State.checkScrLanes s t self u n l).map (fun rest => (i, r) :: rest)

/-- LDS (R206): 10 ck in space 00, 24 ck in spaces 01 and 10 (R205; log 25). -/
def execLds (wt : Wait) (la : La) (sz : Sz) (n : Sgn) (d : VReg) (a : VSrc) (disp : BitVec 17) (s : State) : Out :=
  s.wordW wt .cores (fun w =>
    match s.checkScrLanes w.t s.cur.team .lds (szBytes sz) ((lanesOf w.f.em).map (fun i => (i, scrAddr w.g a disp i))) with
    | .error b => s.trapNow w (badFail b)
    | .ok l =>
      let lat := if (lanesOf w.f.em).any (fun i => scrAddr w.g a disp i / 2 ^ 30 ≠ 0) then 24 else 10
      match s.tears (1 < (l.flatMap (·.2)).length) with
      | (true, s) => s.loadTorn w lat la (vecRegs sz d.val)
          { team := some s.cur.team, todo := numbered ((l.flatMap (·.2)).zipIdx.map (fun e => .scr e.2 e.1.1 e.1.2))
            next := .load s.cur.gid s.nextId true sz n d.val (laneCounts l) }
      | (false, s) => s.writeLater w lat la (vecRegs sz d.val) (l.flatMap (fun e => vecLoad sz n d.val e.1 (s.readScr e.2))))

/-- The pieces of a store to scratch (R197, R200). -/
def scrPieces : List (Scr × Nat) → List Byte → List Piece
  | [], _ => []
  | (x, n) :: r, l =>
      (match x with
        | .cell k o => [.put [(.scr k o, (l.take n).map (fun b => (b, false)))]]
        | .pad k o => [.put [(.pad k o, (l.take n).map (fun b => (b, false)))]]
        | .counter _ _ => []) ++ scrPieces r (l.drop n)

/-- STS (R207). -/
def execSts (g : Guard) (wt : Wait) (sz : Sz) (d : VReg) (a : VSrc) (disp : BitVec 17) (s : State) : Out :=
  s.wordW wt .cores (fun w =>
    match s.checkScrLanes w.t s.cur.team .store (szBytes sz)
        ((lanesOf (activeLanes w.f w.g g)).map (fun i => (i, scrAddr w.g a disp i))) with
    | .error b => s.trapNow w (badFail b)
    | .ok l =>
      match s.tears (1 < (l.flatMap (·.2)).length) with
      | (true, s) => (s.done w).tearInto
          { team := some s.cur.team, todo := numbered (l.flatMap (fun e => scrPieces e.2 (vecBytes w.g sz d.val e.1))) }
      | (false, s) => (l.foldl (fun s e => s.writeScr e.2 (vecBytes w.g sz d.val e.1)) s).done w)

-- The read-only path (R208, R209) ------------------------------------------------------------------------------------------------

/-- The key of a read-only sector: its launch and its address (R208). -/
def roKey (launch pa : Nat) : Nat := (launch + 1) * 2 ^ 40 + pa / 64

/-- Bytes read through the read-only path of core k for a launch: a sector fills from the home (R208). -/
def State.roRead (s : State) (k launch pa : Nat) : Nat → List Byte × State
  | 0 => ([], s)
  | n + 1 =>
      let key := roKey launch pa
      let s := s.needLine k key
      let x := ((s.core k).ro.find key).getD (s.refill (pa / 64) (s.core k).lt {})
      let s := s.putCore k { s.core k with ro := (s.core k).ro.put key x }
      let (l, s) := State.roRead s k launch (pa + 1) n
      (Cells.get 0 x.data (pa % 64) :: l, s)

/-- The bytes of each lane of an LDRO, and the first poisoned piece. -/
def State.roLanes (s : State) (p : Party) (k launch : Nat) : List LanePieces → (List (Nat × List Byte) × Option Bad) × State
  | [] => (([], none), s)
  | (i, va, r) :: l =>
      let bad := s.badPiece { p with place := .hub 0 } va r
      let (x, s) := r.foldl (fun (acc : List Byte × State) e =>
        let (y, s) := acc.2.roRead k launch e.1 e.2.2
        (acc.1 ++ y, s)) ([], s)
      let ((rest, b), s) := State.roLanes s p k launch l
      (((i, x) :: rest, bad.orElse (fun _ => b)), s)

/-- LDRO (R208). -/
def execLdro (wt : Wait) (la : La) (sz : Sz) (n : Sgn) (d a : VReg) (disp : BitVec 17) (s : State) : Out :=
  s.wordW wt .cores (fun w =>
    let p := w.party s.cur.team
    match s.checkLanes p .ldro (szBytes sz) ((lanesOf w.f.em).map (fun i => (i, pairAddr w.g a.val disp i))) with
    | (.error b, s) => s.trapNow w (badFail b)
    | (.ok l, s) =>
      match s.tears (1 < (l.flatMap (·.2.2)).length) with
      | (true, s) => s.loadTorn w 16 la (vecRegs sz d.val)
          { core := some w.t.core, team := some s.cur.team
            todo := (loadPieces l).map (fun e => (e.1, e.2.map (fun x => match x with
              | .load k pa _ n va => Piece.ro k w.t.launch pa n va
              | x => x)))
            next := .load s.cur.gid s.nextId true sz n d.val (laneCounts (l.map (fun e => (e.1, e.2.2)))) }
      | (false, s) =>
      let ((r, bad), s) := s.roLanes p w.t.core w.t.launch l
      s.writeLater w 16 la (vecRegs sz d.val) (r.flatMap (fun e => vecLoad sz n d.val e.1 e.2)) 0 false (poisonFail bad))

/-- The read-only sectors of a launch dropped from a core (R208, R209). DEDUCED (log 87). -/
def State.dropRo (s : State) (k launch : Nat) : State :=
  s.putCore k { s.core k with
    ro := (s.core k).ro.filter (fun e => e.1 / 2 ^ 40 ≠ launch + 1)
    lines := (s.core k).lines.filter (fun e => e.1 / 2 ^ 38 ≠ launch + 1) }

/-- ROINV (R209). A later LDRO reads the home, and must not return what is older than an ordinary load would return now: the
core's dirty bytes go home first. DEDUCED (log 87). -/
def execRoinv (wt : Wait) (s : State) : Out :=
  s.wordW wt .cores (fun w => ((s.writeBackAll w.t.core).dropRo w.t.core w.t.launch).done w)

-- Scalar loads and stores (R206, R207) ----------------------------------------------------------------------------------------------

/-- SLD (R206): once, as one lane; in prologue mode a scratch address traps. -/
def execSld (wt : Wait) (la : La) (sz : Sz) (n : Sgn) (sp : Bool) (d a : SReg) (disp : BitVec 17) (s : State) : Out :=
  s.wordW wt .any (fun w =>
    if sp then
      if w.t.kind = .prologue then s.trapNow w { code := 0x02A }
      else match s.checkScr w.t s.cur.team .other (scaScrAddr w.g a.val disp) (szBytes sz) with
        | .error b => s.trapNow w (badFail b)
        | .ok l =>
          match s.tears (1 < l.length) with
          | (true, s) => s.loadTorn w 10 la (scaRegs sz d.val)
              { team := some s.cur.team, todo := numbered (l.zipIdx.map (fun e => .scr e.2 e.1.1 e.1.2))
                next := .load s.cur.gid s.nextId false sz n d.val [(0, l.length)] }
          | (false, s) => s.writeLater w 10 la (scaRegs sz d.val) (scaLoad sz n d.val (s.readScr l))
    else
      let p := w.party s.cur.team
      let va := scaAddr w.g a.val disp
      match s.checkAccess p .load va (szBytes sz) with
      | (.error b, s) => s.trapNow w (badFail b)
      | (.ok r, s) =>
        match s.tears (1 < r.length) with
        | (true, s) => s.loadTorn w 10 la (scaRegs sz d.val)
            { core := p.l1, team := some s.cur.team, todo := loadPieces [(0, va, r)]
              next := .load s.cur.gid s.nextId false sz n d.val [(0, r.length)] }
        | (false, s) =>
          let bad := s.badPiece p va r
          let ((x, _), s) := s.readPieces p r
          s.writeLater w 10 la (scaRegs sz d.val) (scaLoad sz n d.val x) 0 false (poisonFail bad))

/-- SST (R207): acts only when its guard is true. -/
def execSst (g : Guard) (wt : Wait) (sz : Sz) (sp : Bool) (d a : SReg) (disp : BitVec 17) (s : State) : Out :=
  s.wordW wt .any (fun w =>
    if sp ∧ w.t.kind = .prologue then s.trapNow w { code := 0x02A }
    else if !guardTrue w.f w.g g then s.done w
    else if sp then
      match s.checkScr w.t s.cur.team .store (scaScrAddr w.g a.val disp) (szBytes sz) with
      | .error b => s.trapNow w (badFail b)
      | .ok l =>
        match s.tears (1 < l.length) with
        | (true, s) => (s.done w).tearInto { team := some s.cur.team, todo := numbered (scrPieces l (scaBytes w.g sz d.val)) }
        | (false, s) => (s.writeScr l (scaBytes w.g sz d.val)).done w
    else
      let p := w.party s.cur.team
      match s.checkAccess p .store (scaAddr w.g a.val disp) (szBytes sz) with
      | (.error b, s) => s.trapNow w (badFail b)
      | (.ok r, s) =>
        match s.tears (1 < r.length) with
        | (true, s) => (s.done w).tearInto { core := p.l1, team := some s.cur.team, todo := numbered (storePieces r (scaBytes w.g sz d.val)) }
        | (false, s) => (s.writePieces p r (scaBytes w.g sz d.val)).done w)

-- Reductions in memory (R241 to R243, R260) -------------------------------------------------------------------------------------------

/-- op(x, b) on values of w bits (R242). -/
def memRedOf (w : Nat) (op : MemRed) (x b : BitVec w) : BitVec w :=
  match op with
  | .add => x + b
  | .minS => minOf .sg x b
  | .maxS => maxOf .sg x b
  | .minN => minOf .un x b
  | .maxN => maxOf .un x b
  | .and => x &&& b
  | .or => x ||| b
  | .xor => x ^^^ b
  | .fadd => BitVec.ofNat w (fmtF32.add .rne x.toNat b.toNat).1
  | .exch => b

/-- A write to the address would be held (R356, R361). -/
def State.holds (s : State) (pa : Nat) : Bool := s.migrations.any (fun m => m.covers pa) || s.unwiped pa

/-- The sectors of the 256-byte line of an address written back and dropped in core k (R243). -/
def State.dropLine (s : State) (k pa : Nat) : State :=
  (List.range 4).foldl (fun s i => s.dropSector k (pa / 256 * 4 + i)) s

/-- The lanes of a RED in ascending order: physical address and operand; `l1` names the core whose L1 performs it. The
old values, and the address of a poisoned word, at which the lanes stop. -/
def State.redLanes (s : State) (p : Party) (l1 : Option Nat) (n : Nat) (op : MemRed) :
    List (Nat × Nat × Nat × Nat) → (List (Nat × Nat) × Option Bad) × State
  | [] => (([], none), s)
  | (i, va, pa, b) :: l =>
      if s.loadPoison (match l1 with | some _ => p | none => { p with place := .hub 0 }) pa n then (([], some (poisonCode pa, va)), s)
      else
        let (x, s) := match l1 with
          | some k => s.l1Read k pa n
          | none => (s.memRead pa n, s)
        let old := leNat x
        let new := leBytes n (memRedOf (8 * n) op (BitVec.ofNat (8 * n) old) (BitVec.ofNat (8 * n) b)).toNat
        let s := match l1 with
          | some k => s.l1Write k pa new
          | none => s.homeWrite pa new
        let ((r, bad), s) := State.redLanes s p l1 n op l
        (((i, old) :: r, bad), s)

/-- A RED at the home has read one of some words and not yet written it (R243). -/
def State.redOpen (s : State) (pas : List Nat) : Bool :=
  s.torn.all.any (fun e => e.2.todo.all.any (fun p => match p.2 with
    | .redPut pa l => pas.any (fun x => x < pa + l.length && pa < x + 8)
    | _ => false))

/-- What the lanes of a RED put in its result: each lane's old value (R242). -/
def redVals (wide : Bool) (d : Nat) (r : List (Nat × Nat)) : List RegVal :=
  r.flatMap (fun e => if wide then pairVals d e.1 (BitVec.ofNat 64 e.2) else [.v d e.1 (BitVec.ofNat 32 e.2)])

/-- RED (R241 to R243). -/
def execRed (g : Guard) (wt : Wait) (la : La) (wide : Bool) (op : MemRed) (sc : Scope) (ret : Option VReg) (a b : VReg)
    (s : State) : Out :=
  s.wordW wt .cores (fun w =>
    let p := w.party s.cur.team
    let n := if wide then 8 else 4
    let opnd (i : Nat) : Nat := if wide then (w.g.pairGet b.val i).toNat else (w.g.vget b.val i).toNat
    match s.checkLanes p .red n ((lanesOf (activeLanes w.f w.g g)).map (fun i => (i, (w.g.pairGet a.val i).toNat))) with
    | (.error e, s) => s.trapNow w (badFail e)
    | (.ok l, s) =>
      let lanes := l.map (fun e => (e.1, e.2.1, (e.2.2.head?.map (·.1)).getD 0, opnd e.1))
      if lanes.any (fun e => s.holds e.2.2.1) ∨ s.redOpen (lanes.map (·.2.2.1)) then s.putFrag s.cur { w.f with ready := some (s.clock + 1) }
      else
        let l1 := if sc.val ≤ 1 then some w.t.core else none
        let s := if l1.isSome then s else lanes.foldl (fun s e => s.dropLine w.t.core e.2.2.1) s
        let regs (d : VReg) : List PendReg := if wide then [.v d.val, .v (d.val + 1)] else [.v d.val]
        let marred := lanes.any (fun e => s.loadPoison (if l1.isSome then p else { p with place := .hub 0 }) e.2.2.1 n)
        match s.tears (lanes ≠ [] ∧ !marred) with
        | (true, s) =>
          let x : Torn := { core := l1, team := some s.cur.team, todo := numbered (lanes.zipIdx.map (fun e => .red e.2 e.1.2.2.1 n op e.1.2.2.2)) }
          (match ret with
            | none => (s.done w).tearInto x
            | some d => s.loadTorn w 0 la (regs d) { x with next := .red s.cur.gid s.nextId wide d.val (lanes.map (·.1)) })
        | (false, s) =>
          let ((r, bad), s) := s.redLanes p l1 n op lanes
          match bad with
          | some b => s.trapNow w (badFail b)
          | none =>
            match ret with
            | none => s.done w
            | some d => s.writeLater w 0 la (regs d) (redVals wide d.val r))

-- Prefetch (R210) -------------------------------------------------------------------------------------------------------------------------

/-- One address prefetched: dropped unless its page is present, readable, and neither COUNTER nor MMIO. -/
def State.prefetch (s : State) (p : Party) (core : Nat) (l2 : Bool) (va : Nat) : State :=
  if 2 ^ 56 ≤ va then s
  else match s.walk p.place.hubOf p.pasid va with
    | .fault _ => s
    | .leaf e _ _ _ =>
      if !pteP e ∨ !pteR e ∨ pteType e = 1 ∨ pteType e = 2 then s
      else match s.xlate p.place p.pasid va (fun e => pteR e) with
        | (.page t, s) =>
            if l2 then s
            else (List.range 4).foldl (fun s i => (s.sectorOf core (t.pa va / 256 * 4 + i)).2) s
        | (_, s) => s

/-- PREF (R210). -/
def execPref (wt : Wait) (l2 : Bool) (a : VSrc) (disp : BitVec 17) (s : State) : Out :=
  s.wordW wt .cores (fun w =>
    let p := w.party s.cur.team
    let vas := match a with
      | .vec r => (lanesOf w.f.em).map (fun i => pairAddr w.g r.val disp i)
      | .sca r => [scaAddr w.g r.val disp]
    (vas.foldl (fun s va => s.prefetch p w.t.core l2 va) s).done w)

end Sys2Proof.Machine
end

