-- ==== Sys2Proof/Machine/Copy.lean ====
section
/-! DEFINITION. FORM 0x7 COPY: tokens, lane copies, layout records, bulk copies and their chunks (chapter 12). -/

namespace Sys2Proof.Machine

-- Tokens (R282, R33, R178) ----------------------------------------------------------------------------------------

/-- Fragments of a group that wait for tokens which are now zero go on (R33, R178). -/
def State.wakeTokens (s : State) (gid : Nat) : State :=
  match s.groups.find gid with
  | none => s
  | some g =>
    if (s.teams.find (gid / 16)).any Team.isParking then s
    else (s.fragsOf gid).foldl (fun s e =>
      match e.2.why with
      | .tokens m => if (List.range 8).all (fun k => !bit m k || g.tget k = 0) then s.wakes ⟨gid, e.1 % 64⟩ else s
      | _ => s) s

/-- A token falls by 1 (R282). -/
def State.tokFall (s : State) (gid tok : Nat) : State :=
  ({ s with groups := s.groups.upd gid (fun g => g.tset tok (g.tget tok - 1)) }).wakeTokens gid

/-- A token risen by 1; none when its count would reach 256 (R282). -/
def Group.tokRise (g : Group) (tok : Nat) : Option Group :=
  if 255 ≤ g.tget tok then none else some (g.tset tok (g.tget tok + 1))

/-- A copy of a group has ended, whole or cancelled: it is outstanding no more, and its token falls (R282). -/
def State.copyGone (s : State) (gid tok id : Nat) : State :=
  ({ s with copies := s.copies.del id, laneCopies := s.laneCopies.del id } : State).tokFall gid tok

/-- Every move of a copy of a group is made: its completion add goes to its home and then lowers the token; without one the token falls
at once (R282, R253). -/
def State.copyEnds (s : State) (id gid tok : Nat) (ctr : Option CopyAdd) (pasid : Nat) (pc : Word) : State :=
  match ctr with
  | none => s.copyGone gid tok id
  | some k =>
      s.emit { ctr := k.ctr, act := .add 1, who := .token gid tok id, scope := some k.scope, team := gid / 16, pasid := pasid
               va := k.va, pc := pc }

/-- The completion counter operand of a copy (R290). -/
def State.copyCtr (s : State) (n : Now) (ca : Option CAdd) : Except Fail (Option CopyAdd) × State :=
  match ca with
  | none => (.ok none, s)
  | some a =>
      let x := n.g.sget a.ctr.val
      match s.ctrOperand n s.cur.team (.add false) x with
      | (.error c, s) => (.error (operandFail c x), s)
      | (.ok k, s) => (.ok (some ⟨k, x, a.sc.val⟩), s)

-- Reading and writing checked places ----------------------------------------------------------------------------------

/-- The bytes at a checked place. -/
def State.atRead (s : State) (a : At) (n : Nat) : List Byte :=
  match a with
  | .mem pa => s.memRead pa n
  | .scr k o => s.scrRead (.cell k o) n
  | .pad k o => s.scrRead (.pad k o) n

/-- Bytes written at a checked place; the sectors of the issuing core that hold them leave its L1, so that its later
loads return them (R253). -/
def State.atWrite (s : State) (core : Option Nat) (a : At) (l : List Byte) (bad : Bool := false) : State :=
  match a with
  | .mem pa =>
      let s : State := match core with
        | some k => (List.range ((pa + l.length - 1) / 64 + 1 - pa / 64)).foldl (fun (s : State) i => s.dropSector k (pa / 64 + i)) s
        | none => s
      s.homeWrite pa l bad
  | .scr k o => s.scrWrite (.cell k o) l
  | .pad k o => s.scrWrite (.pad k o) l

/-- A place in memory holds a poisoned byte. -/
def State.atPoison (s : State) (a : At) (n : Nat) : Option Code :=
  match a with
  | .mem pa => if s.poisoned pa n then some (poisonCode pa) else none
  | _ => none

/-- A place n bytes on. -/
def At.plus (n : Nat) : At → At
  | .mem pa => .mem (pa + n)
  | .scr t o => .scr t (o + n)
  | .pad k o => .pad k (o + n)

/-- Bytes written at a checked place, each with its poison mark (log 12). -/
def State.atWriteMarked (s : State) (core : Option Nat) (a : At) (l : List (Byte × Bool)) : State :=
  if l.any (·.2) then l.zipIdx.foldl (fun s e => s.atWrite core (a.plus e.2) [e.1.1] e.1.2) s
  else s.atWrite core a (l.map (·.1))

/-- The bytes at a checked place, each with its poison mark. -/
def State.atReadMarked (s : State) (a : At) (n : Nat) : List (Byte × Bool) :=
  (s.atRead a n).zipIdx.map (fun e => (e.1, match a with | .mem pa => s.badByte (pa + e.2) | _ => false))

/-- One place of a copy checked: an address of scratch or of memory. -/
def State.copyPlace (s : State) (p : Party) (t : Team) (self : Nat) (scr : Bool) (a : Acc) (va : Nat) : Except Code At × State :=
  if scr then
    match s.scrPiece t self .other (va % 2 ^ 32) with
    | .error c => (.error c, s)
    | .ok (.cell k o) => (.ok (.scr k o), s)
    | .ok (.pad k o) => (.ok (.pad k o), s)
    | .ok (.counter _ _) => (.error 0x065, s)
  else match s.piece p a va with
    | (.error c, s) => (.error c, s)
    | (.ok (pa, _), s) => (.ok (.mem pa), s)

-- CPY (R291) -------------------------------------------------------------------------------------------------------------

/-- Bytes of a lane copy. -/
def cszBytes : CSz → Nat
  | .w => 4
  | .d => 8
  | .q => 16

/-- Every lane's source and destination checked, in ascending lane order (R290, R291). -/
def State.copyLanes (s : State) (p : Party) (t : Team) (self n : Nat) (ss ds : Bool) :
    List (Nat × Nat) → Except Bad (List (At × At)) × State
  | [] => (.ok [], s)
  | (a, d) :: l =>
      if a % n ≠ 0 then (.error (0x05C, a), s)
      else if d % n ≠ 0 then (.error (0x05C, d), s)
      else match s.copyPlace p t self ss .copyRead a with
        | (.error c, s) => (.error (c, a), s)
        | (.ok x, s) =>
          match s.copyPlace p t self ds .copyWrite d with
          | (.error c, s) => (.error (c, d), s)
          | (.ok y, s) =>
            match State.copyLanes s p t self n ss ds l with
            | (.error b, s) => (.error b, s)
            | (.ok r, s) => (.ok ((x, y) :: r), s)

/-- The address that a copy takes from lane i: a vector for scratch, a pair for memory. -/
def Group.copyAddr (g : Group) (scr : Bool) (r i : Nat) : Nat := if scr then (g.vget r i).toNat else (g.pairGet r i).toNat

/-- CPY (R291). The core's dirty sectors are written back first, so that the copy sees the fragment's earlier stores
(R253). -/
def execCpy (wt : Wait) (tok : Tok) (ds ss : Bool) (sz : CSz) (d a : VReg) (ca : Option CAdd) (s : State) : Out :=
  s.wordW wt .cores (fun n =>
    let p := n.party s.cur.team
    let ls := (lanesOf n.f.em).map (fun i => (n.g.copyAddr ss a.val i, n.g.copyAddr ds d.val i))
    match s.copyLanes p n.t s.cur.team (cszBytes sz) ss ds ls with
    | (.error b, s) => s.trapNow n (badFail b)
    | (.ok l, s) =>
      match s.copyCtr n ca with
      | (.error f, s) => s.trapNow n f
      | (.ok k, s) =>
        match n.g.tokRise tok.val with
        | none => s.trapNow n { code := 0x0C0 }
        | some g =>
          let s := s.writeBackAll n.t.core
          let c : LaneCopy := { gid := s.cur.gid, tok := tok.val, size := cszBytes sz, lanes := l, ctr := k, pc := n.f.pc, pasid := n.t.pasid }
          { s with laneCopies := s.laneCopies.put s.nextId c, nextId := s.nextId + 1 }.done { n with g := g })

-- Layout records (R292 to R294) ----------------------------------------------------------------------------------------------

/-- The fields of a layout record's 64 bytes (R292). -/
def layoutOf (l : List Byte) : LayoutRec :=
  let w (o n : Nat) : Nat := leNat ((l.drop o).take n)
  let h := w 0 8
  let z := w 28 4
  { bcols := h / 2 ^ 48 % 256, brows := h / 2 ^ 40 % 256, planes := h / 2 ^ 35 % 16, inner := h / 2 ^ 32 % 8
    order := (List.range 5).map (fun k => h / 2 ^ (16 + 3 * k) % 8), ndim := h / 2 ^ 11 % 8, esz := h / 2 ^ 8 % 8
    size := (List.range 5).map (fun k => w (8 + 4 * k) 4)
    width := z / 2 ^ 12 % 8, shift := z / 2 ^ 7 % 32, unit := z / 2 ^ 2 % 32, smode := z % 4
    stride := (1 :: (List.range 4).map (fun k => (BitVec.ofNat 64 (w (32 + 8 * k) 8)).toInt)) }

/-- The reserved bits of a layout record are set (R292). -/
def layoutReserved (l : List Byte) : Bool :=
  let h := leNat (l.take 8)
  let z := leNat ((l.drop 28).take 4)
  h / 2 ^ 56 ≠ 0 || h / 2 ^ 39 % 2 ≠ 0 || h / 2 ^ 31 % 2 ≠ 0 || h / 2 ^ 14 % 4 ≠ 0 || z / 2 ^ 15 ≠ 0

/-- The 64 bytes of a layout record (R292). -/
def LayoutRec.bytes (l : LayoutRec) : List Byte :=
  let order := ((List.range 5).map (fun k => l.order.getD k 0 * 2 ^ (16 + 3 * k))).foldl (· + ·) 0
  leBytes 8 (1 + l.esz * 2 ^ 8 + l.ndim * 2 ^ 11 + order + l.inner * 2 ^ 32 + l.planes * 2 ^ 35 + l.brows * 2 ^ 40 + l.bcols * 2 ^ 48)
    ++ (List.range 5).flatMap (fun k => leBytes 4 (l.size.getD k 0))
    ++ leBytes 4 (l.smode + l.unit * 2 ^ 2 + l.shift * 2 ^ 7 + l.width * 2 ^ 12)
    ++ (List.range 4).flatMap (fun k => leBytes 8 (BitVec.ofInt 64 (l.stride.getD (k + 1) 0)).toNat)

/-- Element size in bytes. -/
def LayoutRec.es (l : LayoutRec) : Nat := 2 ^ l.esz
/-- Block columns, rows, and elements of a block. -/
def LayoutRec.bc (l : LayoutRec) : Nat := l.bcols + 1
def LayoutRec.br (l : LayoutRec) : Nat := l.brows + 1
def LayoutRec.blk (l : LayoutRec) : Nat := l.bc * l.br
/-- Byte stride of dimension k; dimension 0 is dense (R292). -/
def LayoutRec.strideOf (l : LayoutRec) (k : Nat) : Int := if k = 0 then (l.es : Int) else l.stride.getD k 0

/-- The checks of R293 in table order. -/
def LayoutRec.fault (l : LayoutRec) (ver : Nat) (reserved store ps : Bool) : Option Code :=
  let n := l.ndim
  let dims := List.range 5
  if ver ≠ 1 then some 0x0C8
  else if 4 ≤ l.esz ∨ n = 0 ∨ 6 ≤ n ∨ 3 ≤ l.inner ∨ 2 ≤ l.smode then some 0x0C9
  else if !((List.range n).all (fun k => (l.order.take n).contains k)) ∨ !((l.order.drop n).all (fun x => x = 0)) then some 0x0CA
  else if dims.any (fun k => if k < n then l.size.getD k 0 = 0 else l.size.getD k 0 ≠ 0 || (1 ≤ k && l.strideOf k ≠ 0))
      ∨ dims.any (fun k => 1 ≤ k && l.strideOf k % (l.es : Int) ≠ 0) then some 0x0CB
  else if (n = 1 ∧ l.brows ≠ 0) ∨ (l.inner = 2 ∧ (l.esz ≠ 0 ∨ (l.blk ≠ 16 ∧ l.blk ≠ 32) ∨ l.planes < 2 ∨ 8 < l.planes))
      ∨ (l.inner ≠ 2 ∧ l.planes ≠ 0) ∨ (store ∧ l.inner = 2 ∧ l.planes ≠ 8) then some 0x0CC
  else if l.smode = 1 ∧ (l.width < 1 ∨ 4 < l.width ∨ l.shift < 7 ∨ 20 < l.shift ∨ l.unit < 4 ∨ 7 < l.unit
      ∨ l.shift < l.unit + l.width ∨ !ps) then some 0x0CD
  else if reserved then some 0x0CE
  else none

/-- swz(o) (R294). -/
def LayoutRec.swz (l : LayoutRec) (o : Nat) : Nat :=
  if l.smode = 1 then o ^^^ (o / 2 ^ l.shift % 2 ^ l.width * 2 ^ l.unit) else o

/-- Box extent of dimension k; absent dimensions count as 1. -/
def extOf (ext : List Nat) (k : Nat) : Nat := ext.getD k 1
/-- Elements of the box. -/
def boxElems (ext : List Nat) : Nat := ext.foldl (· * ·) 1
/-- The packed size P (R296). -/
def LayoutRec.packed (l : LayoutRec) (ext : List Nat) : Nat :=
  if l.inner = 2 then l.planes * boxElems ext / 8 else boxElems ext * l.es
/-- The tensor span (R296). -/
def LayoutRec.span (l : LayoutRec) : Nat :=
  (List.range l.ndim).foldl (fun x k => x + (l.size.getD k 0 - 1) * (l.strideOf k).natAbs) 0

-- The walk (R297) ------------------------------------------------------------------------------------------------------------

/-- Trips of the loop over dimension k. -/
def LayoutRec.trips (l : LayoutRec) (ext : List Nat) (k : Nat) : Nat :=
  if k = 0 then extOf ext 0 / l.bc else if k = 1 then extOf ext 1 / l.br else extOf ext k
/-- Number of blocks. -/
def LayoutRec.nb (l : LayoutRec) (ext : List Nat) : Nat := boxElems ext / l.blk

/-- The loop index of every dimension for block b. -/
def LayoutRec.loopIdx (l : LayoutRec) (ext : List Nat) (b : Nat) : Cells Nat :=
  ((l.order.take l.ndim).foldl (fun (x : Nat × Cells Nat) k =>
    let t := max 1 (l.trips ext k)
    (x.1 / t, Cells.set 0 x.2 k (x.1 % t))) (b, [])).2

/-- Box coordinate of dimension k of element idx. -/
def LayoutRec.coord (l : LayoutRec) (ext : List Nat) (idx k : Nat) : Nat :=
  let i := idx % l.blk
  let j := Cells.get 0 (l.loopIdx ext (idx / l.blk)) k
  let (r, c) := if l.inner = 1 then (i % l.br, i / l.br) else (i / l.bc, i % l.bc)
  if k = 0 then j * l.bc + c else if k = 1 then j * l.br + r else j

/-- Tensor coordinates of element idx. -/
def LayoutRec.tcoord (l : LayoutRec) (org : List Int) (ext : List Nat) (idx k : Nat) : Int :=
  org.getD k 0 + (l.coord ext idx k : Int)

/-- Tensor address of element idx; none outside the tensor (R297). -/
def LayoutRec.taddr (l : LayoutRec) (base : Word) (org : List Int) (ext : List Nat) (idx : Nat) : Option Nat :=
  let dims := List.range l.ndim
  if dims.all (fun k => 0 ≤ l.tcoord org ext idx k && l.tcoord org ext idx k < (l.size.getD k 0 : Int)) then
    some ((base + BitVec.ofInt 64 (dims.foldl (fun (x : Int) k => x + l.tcoord org ext idx k * l.strideOf k) 0)).toNat)
  else none

-- CPYT and CPYF (R295, R296, R299) -----------------------------------------------------------------------------------------------

/-- Every bank that a scratch range touches is in bounds; the first failure (R296). -/
def State.scrRange (s : State) (t : Team) (self a left : Nat) : Nat → Option Bad
  | 0 => none
  | fuel + 1 =>
      if left = 0 then none
      else match s.scrPiece t self .other (a % 2 ^ 32) with
        | .error c => some (c, a % 2 ^ 32)
        | .ok (.counter _ _) => some (0x065, a % 2 ^ 32)
        | .ok _ =>
          let step := 2 ^ 17 - a % 2 ^ 17
          State.scrRange s t self (a + step) (left - step) fuel

/-- Bulk copies of a team that are outstanding, started or queued (R285). -/
def State.teamCopies (s : State) (t : Nat) : List (Nat × Copy) :=
  s.copies.all.filter (fun e => match e.2.own with | .group gid _ => gid / 16 = t | _ => false)

/-- A group's bulk copy enters its die's queue, or ends at once when nothing moves (R286, R298, R299); its fragment waits in WAIT-L for
`ck` ck while its operands are read (R290). DEDUCED (log 93). -/
def State.startCopy (s : State) (n : Now) (tok : Nat) (kind : CopyKind) (k : Option CopyAdd) (empty : Bool) (ck : Nat) : State :=
  match n.g.tokRise tok with
  | none => s.trapNow n { code := 0x0C0 }
  | some g =>
    let s := s.writeBackAll n.t.core
    let die := dieOfCore n.t.core
    let c : Copy := { kind := kind, own := .group s.cur.gid tok, ctr := k, die := die, pc := n.f.pc, pasid := n.t.pasid, team := s.cur.team }
    let id := s.nextId
    let w := { n with g := g }
    let s := if ck = 0 then s.done w else s.waits w .waitL (.busy (s.clock + ck))
    if empty then
      { s with copies := s.copies.put id { c with adding := true }, nextId := id + 1 }.copyEnds id s.cur.gid tok k c.pasid c.pc
    else { s with
      copies := s.copies.put id c, nextId := id + 1
      copyQueue := s.copyQueue.put die (((s.copyQueue.find die).getD []) ++ [id]) }

/-- The layout records that a team's outstanding CPYTs name (R422). DEDUCED (log 93). -/
def State.layoutsOf (s : State) (t : Nat) : List LayoutRec :=
  ((s.teamCopies t).filterMap (fun e => match e.2.kind with | .tensor l _ _ _ _ _ _ => some l | _ => none)).eraseDups

/-- CPYT's layout record: its address and bytes checked and read through the core (R293). -/
def State.readLayout (s : State) (n : Now) (store ps : Bool) (x : Word) : Except Fail LayoutRec × State :=
  let p := n.party s.cur.team
  if x.toNat % 64 ≠ 0 then (.error { code := 0x0CF, va := some x }, s)
  else match s.piece p .load x.toNat with
    | (.error c, s) => (.error { code := c, va := some x }, s)
    | (.ok (pa, type), s) =>
      if s.loadPoison p pa 64 then (.error { code := 0x07E, va := some x }, s)
      else
        let (b, s) := s.loadBytes p pa type 64
        let l := layoutOf b
        match l.fault (leNat (b.take 1)) (layoutReserved b) store ps with
        | some c => (.error { code := c, va := some x }, s)
        | none => (.ok l, s)

/-- The checks 5 to 7 of R296: bases, box, sizes and the scratch range. DEDUCED (log 86). -/
def State.boxFault (s : State) (n : Now) (l : LayoutRec) (ps : Bool) (base packed : Word) (ext : List Nat) : Option Fail :=
  let pk := if ps then packed.toNat % 2 ^ 32 else packed.toNat
  let size := l.packed ext
  if base.toNat % l.es ≠ 0 then some { code := 0x05D, va := some base }
  else if pk % (if l.inner = 2 then 64 else l.es) ≠ 0 then some { code := 0x05D, va := some (BitVec.ofNat 64 pk) }
  else if extOf ext 0 % l.bc ≠ 0 ∨ extOf ext 1 % l.br ≠ 0 then some { code := 0x0D0 }
  else if 2 ^ 40 < size then some { code := 0x0D1 }
  else if 2 ^ 56 ≤ l.span then some { code := 0x0D2 }
  else if ps then
    (s.scrRange n.t s.cur.team pk (if l.smode = 1 then roundUp size (2 ^ (l.unit + l.width)) else size) 64).map badFail
  else none

/-- A CPYT or CPYF of the fragment is not ready: its team has 32 of them outstanding (R285), or its layout record would be a fifth
(R422). -/
def State.copyFull (s : State) (n : Now) (bulk : Bool) (block : Option (SReg × Bool × Bool)) : Bool :=
  bulk && (32 ≤ (s.teamCopies s.cur.team).length ||
    (match block with
      | none => false
      | some (a, ps, st) =>
        match (s.readLayout n st ps (n.g.sget (a.val + 1))).1 with
        | .ok l => let known := s.layoutsOf s.cur.team; !known.contains l && 4 ≤ known.length
        | .error _ => false))

/-- CPYT (R295, R296). -/
def execCpyt (wt : Wait) (tok : Tok) (ps st : Bool) (d a : SReg) (ca : Option CAdd) (s : State) : Out :=
  s.wordW wt .cores (fun n =>
    if 32 ≤ (s.teamCopies s.cur.team).length then s.putFrag s.cur { n.f with ready := some (s.clock + 1) }
    else if 63 < a.val + 1 then s.trapNow n { code := 0x00B }
    else match s.readLayout n st ps (n.g.sget (a.val + 1)) with
      | (.error f, s) => s.trapNow n f
      | (.ok l, s) =>
        if 63 < a.val + l.ndim + 1 then s.trapNow n { code := 0x00B }
        else
          let blk := (List.range l.ndim).map (fun k => n.g.sget (a.val + 2 + k))
          let org := blk.map (fun x => (x.setWidth 32).toInt)
          let ext := blk.map (fun x => bits x 63 32)
          let base := n.g.sget a.val
          let packed := n.g.sget d.val
          match s.boxFault n l ps base packed ext with
          | some f => s.trapNow n f
          | none =>
            match s.copyCtr n ca with
            | (.error f, s) => s.trapNow n f
            | (.ok k, s) =>
              let known := s.layoutsOf s.cur.team
              if !known.contains l ∧ 4 ≤ known.length then s.putFrag s.cur { n.f with ready := some (s.clock + 1) }
              else s.startCopy n tok.val (.tensor l st ps base packed org ext) k (boxElems ext = 0) 20)

/-- CPYF (R299). -/
def execCpyf (wt : Wait) (tok : Tok) (ds : Bool) (sz : Sz) (d a : SReg) (ca : Option CAdd) (s : State) : Out :=
  s.wordW wt .cores (fun n =>
    let z := match sz with | .b => 1 | .h => 2 | .w => 4 | .d => 8 | .q => 16
    let last := if sz = .q then a.val + 2 else a.val + 1
    let len := (n.g.sget a.val).toNat
    let dst := n.g.sget d.val
    let to' := if ds then dst.toNat % 2 ^ 32 else dst.toNat
    let v : BitVec 128 := (if sz = .q then n.g.sget (a.val + 2) else 0) ++ n.g.sget (a.val + 1)
    if 32 ≤ (s.teamCopies s.cur.team).length then s.putFrag s.cur { n.f with ready := some (s.clock + 1) }
    else if 63 < last then s.trapNow n { code := 0x00B }
    else if len % z ≠ 0 then s.trapNow n { code := 0x0D3 }
    else if 2 ^ 40 < len then s.trapNow n { code := 0x0D1 }
    else if to' % z ≠ 0 then s.trapNow n { code := 0x05C, va := some (BitVec.ofNat 64 to') }
    else match (if ds then s.scrRange n.t s.cur.team to' len 64 else none) with
      | some b => s.trapNow n (badFail b)
      | none =>
        match s.copyCtr n ca with
        | (.error f, s) => s.trapNow n f
        | (.ok k, s) => s.startCopy n tok.val (.fill ds dst len z v) k (len = 0) 0)

/-- CPYQ (R302): one snapshot, taken at issue. -/
def execCpyq (wt : Wait) (la : La) (tok : Tok) (d : SReg) (s : State) : Out :=
  s.wordW wt .cores (fun n =>
    let c := (s.copies.all.filter (fun e => e.2.own = .group s.cur.gid tok.val)).head?.map (·.2)
    let x := match c with
      | some c => (if c.stalled then 2 ^ 49 else 0) + 2 ^ 48 + c.prog % 2 ^ 40
      | none => 0
    s.writeLater n 8 la [.s d.val] [.s d.val (BitVec.ofNat 64 (x + n.g.tget tok.val * 2 ^ 40))])

/-- CPYX (R304): copies outstanding on the token are cancelled as they stop. -/
def execCpyx (wt : Wait) (tok : Tok) (s : State) : Out :=
  s.wordW wt .cores (fun n =>
    let gid := s.cur.gid
    let s' : State := { s with
        laneCopies := s.laneCopies.map (fun e => (e.1, e.2.map (fun c => if c.gid = gid ∧ c.tok = tok.val ∧ !c.adding then { c with cancel := true } else c)))
        copies := s.copies.map (fun e => (e.1, e.2.map (fun c => if c.own = .group gid tok.val ∧ !c.adding then { c with cancel := true } else c))) }
    s'.done n)

-- Chunks (R297 to R300) --------------------------------------------------------------------------------------------------------------

/-- Elements of a copy; a packet's copy counts bytes. -/
def CopyKind.total : CopyKind → Nat
  | .tensor _ _ _ _ _ _ ext => boxElems ext
  | .fill _ _ len z _ => len / z
  | .linear _ _ len => len

/-- Elements of a whole chunk (R300). -/
def CopyKind.chunk : CopyKind → Nat
  | .tensor l _ _ _ _ _ _ => if l.inner = 2 then 512 else 64 / l.es
  | .fill _ _ _ z _ => 64 / z
  | .linear _ _ _ => 64

/-- Places of a chunk before translation: scratch or memory, and the address. -/
abbrev Place0 := Bool × Nat

/-- The packed places of elements lo to hi − 1, each with its length: the element's bytes, or the slices of each plane of
each block (R297). DEDUCED (log 86). -/
def LayoutRec.packedPlaces (l : LayoutRec) (scr : Bool) (packed : Word) (ext : List Nat) (lo hi : Nat) : List (Place0 × Nat) :=
  let at' (o : Nat) : Place0 :=
    if scr then (true, (packed.toNat + l.swz o) % 2 ^ 32) else (false, (packed.toNat + o) % 2 ^ 64)
  if l.inner = 2 then
    let n := l.blk
    (List.range ((hi - lo) / n)).flatMap (fun b => (List.range l.planes).map (fun k =>
      (at' ((k * l.nb ext + (lo / n + b)) * (n / 8)), n / 8)))
  else (List.range (hi - lo)).map (fun i => (at' ((lo + i) * l.es), l.es))

/-- Element bytes packed into the bytes of the packed places (R69, R298). -/
def LayoutRec.pack (l : LayoutRec) (elems : List (List Byte)) : List (List Byte) :=
  if l.inner = 2 then
    let n := l.blk
    (List.range (elems.length / n)).flatMap (fun b => (List.range l.planes).map (fun k =>
      leBytes (n / 8) ((List.range n).foldl (fun x i =>
        if bit ((elems.getD (b * n + i) []).getD 0 0) (7 - k) then x + 2 ^ i else x) 0)))
  else elems

/-- The bytes of the packed places gathered into elements (R298). -/
def LayoutRec.unpack (l : LayoutRec) (places : List (List Byte)) : List (List Byte) :=
  if l.inner = 2 then
    let n := l.blk
    (List.range (places.length / l.planes * n)).map (fun e =>
      [BitVec.ofNat 8 ((List.range l.planes).foldl (fun x k =>
        if leNat (places.getD (e / n * l.planes + k) []) / 2 ^ (e % n) % 2 = 1 then x + 2 ^ (7 - k) else x) 0)])
  else places

/-- Places translated; the lowest failing address of all (R301). -/
def State.copyPlaces (s : State) (p : Party) (t : Team) (self : Nat) (a : Acc) :
    List (Place0 × Nat) → (List At × Option Bad) × State
  | [] => (([], none), s)
  | ((scr, va), n) :: l =>
      let (x, s) := s.copyPlace p t self scr a va
      let x : Except Code At := match x with
        | .ok y => (match (if a = Acc.copyRead then s.atPoison y n else none) with | some c => .error c | none => .ok y)
        | .error c => .error c
      let ((r, b), s) := State.copyPlaces s p t self a l
      match x with
      | .ok y => ((y :: r, b), s)
      | .error c => ((r, match b with | some b => some (if b.2 ≤ va then b else (c, va)) | none => some (c, va)), s)

/-- The lower of two failures. -/
def worse (a b : Option Bad) : Option Bad :=
  match a, b with
  | some x, some y => some (if x.2 ≤ y.2 then x else y)
  | some x, none => some x
  | none, b => b

/-- The bytes that a chunk writes at places. -/
def State.atWrites (s : State) (core : Option Nat) (l : List (At × List Byte)) : State :=
  l.foldl (fun s e => s.atWrite core e.1 e.2) s

/-- The addresses of memory that elements lo to hi − 1 of a copy name, in traversal order. -/
def CopyKind.touches (k : CopyKind) (lo hi : Nat) : List Nat :=
  let span := (List.range (hi - lo)).map (lo + ·)
  match k with
  | .tensor l _ scr base packed org ext =>
      let packs := ((l.packedPlaces scr packed ext lo hi).filter (fun e => !e.1.1)).map (fun e => e.1.2)
      span.filterMap (l.taddr base org ext) ++ packs
  | .fill scr dst _ z _ => if scr then [] else span.map (fun i => (dst.toNat + i * z) % 2 ^ 64)
  | .linear src dst _ => span.map (fun i => (src.toNat + i) % 2 ^ 64) ++ span.map (fun i => (dst.toNat + i) % 2 ^ 64)

/-- What elements lo to hi − 1 of a copy read, each with its length, and the places that they write: both sides translated before any byte
is written; or the failure (R298 to R301). -/
def State.chunkPlan (s : State) (p : Party) (t : Team) (c : Copy) (lo hi : Nat) : Except Bad (List (At × Nat) × List At) × State :=
  match c.kind with
  | .tensor l store scr base packed org ext =>
      let packs := l.packedPlaces scr packed ext lo hi
      let elems := (List.range (hi - lo)).map (fun i => l.taddr base org ext (lo + i))
      let tens := elems.filterMap (fun e => e.map (fun a => (((false, a) : Place0), l.es)))
      let ((tp, tb), s) := s.copyPlaces p t c.team (if store then .copyWrite else .copyRead) tens
      let ((pp, pb), s) := s.copyPlaces p t c.team (if store then .copyRead else .copyWrite) packs
      (match worse tb pb with
        | some b => .error b
        | none => .ok (if store then (pp.zip (packs.map (·.2)), tp) else (tp.map (fun a => (a, l.es)), pp)), s)
  | .fill scr dst _ z _ =>
      let to' (i : Nat) : Place0 := if scr then (true, (dst.toNat + i * z) % 2 ^ 32) else (false, (dst.toNat + i * z) % 2 ^ 64)
      let places := (List.range (hi - lo)).map (fun i => (to' (lo + i), z))
      let ((pp, b), s) := s.copyPlaces p t c.team .fill places
      (match b with
        | some b => .error b
        | none => .ok ([], pp), s)
  | .linear src dst _ =>
      let side (x : Word) : List (Place0 × Nat) := (List.range (hi - lo)).map (fun i => ((false, (x.toNat + lo + i) % 2 ^ 64), 1))
      let ((sp, sb), s) := s.copyPlaces p t c.team .copyRead (side src)
      let ((dp, db), s) := s.copyPlaces p t c.team .copyWrite (side dst)
      (match worse sb db with
        | some b => .error b
        | none => .ok (sp.map (fun a => (a, 1)), dp), s)

/-- What elements lo to hi − 1 of a copy write at their places, given what they read (R298, R299). -/
def CopyKind.moves (k : CopyKind) (lo hi : Nat) (got : List (List Byte)) : List (List Byte) :=
  match k with
  | .tensor l store _ base _ org ext =>
      let elems := (List.range (hi - lo)).map (fun i => l.taddr base org ext (lo + i))
      if store then (elems.zip (l.unpack got)).filterMap (fun e => e.1.map (fun _ => e.2))
      else l.pack ((elems.foldl (fun (x : List (List Byte) × List (List Byte)) (e : Option Nat) =>
        match e with
        | some _ => (x.1 ++ [x.2.headD []], x.2.tail)
        | none => (x.1 ++ [List.replicate l.es 0], x.2)) ([], got)).1)
  | .fill _ _ _ z v => List.replicate (hi - lo) (leBytes z v.toNat)
  | .linear _ _ _ => got

/-- The granule of a place (R246). -/
def At.granule : At → Nat × Nat × Nat
  | .mem pa => (0, 0, pa / 16)
  | .scr t o => (1, t, o / 16)
  | .pad k o => (2, k, o / 16)

/-- Things at places, gathered by granule. -/
def byGranule {α : Type} (place : α → At) (l : List α) : List (List α) :=
  (l.map (fun x => (place x).granule)).eraseDups.map (fun g => l.filter (fun x => (place x).granule = g))

/-- Numbered reads of a copy or an endpoint, granule by granule (R246). -/
def getPieces (l : List (At × Nat)) : Tab Piece :=
  numbered ((byGranule (fun e => e.2.1) (l.zipIdx.map (fun e => (e.2, e.1)))).map (fun g => .get g))

/-- Writes of a copy or an endpoint, granule by granule (R246). -/
def putPieces (l : List (At × List (Byte × Bool))) : Tab Piece := numbered ((byGranule (·.1) l).map .put)

/-- A lane copy's reads, and then its writes in ascending lane order (R291). DEDUCED (log 12). -/
def State.laneMoves (s : State) (core : Option Nat) (c : LaneCopy) : State :=
  let data := c.lanes.map (fun e => (e, s.atReadMarked e.1 c.size))
  data.foldl (fun s e => s.atWriteMarked core e.1.2 e.2) s

end Sys2Proof.Machine
end

