-- ==== Sys2Proof/Machine/Io.lean ====
section
/-! DEFINITION. FORM 0x9 IO, and the SYS words of the root complex: DBW, IOLD, IOST, SVCALL, MSIB, ATSINV and PRGR
(chapter 20). -/

namespace Sys2Proof.Machine

-- Where device traffic goes (R434, R462) ------------------------------------------------------------------------------

/-- Traffic through an MMIO address: the sub-link with the bus address that leaves it; or the code of R413 for a window
that is not assigned, an outbound slot that is not set, or a link that is down. -/
def State.mmioRoute (s : State) (pa : Nat) : Except Code (Nat × Nat) :=
  match s.mmioAt pa with
  | none => .error 0x10C
  | some (k, off) =>
    let b := s.sub k
    if b.mode = 0 then (if b.up then .ok (k, pa) else .error 0x10D)
    else if b.mode = 1 then
      match b.outWin off with
      | none => .error 0x123
      | some w => if b.up then .ok (k, w.tgt + (off - w.off)) else .error 0x124
    else .error 0x10C

-- The doorbell proxy (R449) ----------------------------------------------------------------------------------------------

/-- Every page of a range lies under an I/O lease of the PASID (R448, R449). -/
def State.leased (s : State) (pasid va len : Nat) : Bool :=
  (List.range ((va + len - 1) / pageBytes + 1 - va / pageBytes)).all (fun i =>
    !(s.ioLeasesOf pasid ((va / pageBytes + i) * pageBytes)).isEmpty)

/-- The checks of DBW in order (R449). -/
def State.dbwFault (s : State) (n : Now) (x tail : Word) : Except Code Nat :=
  let k := x.toNat % 4096
  if 4096 ≤ x.toNat then .error 0x100
  else match s.bindings.find k with
    | none => .error 0x100
    | some b =>
      if b.pasid ≠ n.t.pasid then .error 0x101
      else if b.follow then .error 0x102
      else if b.depth ≤ tail.toNat then .error 0x103
      else if !s.leased b.pasid b.qbase (b.depth * 2 ^ b.esz) then .error 0x106
      else .ok k

/-- DBW (R449, R256): its release writes back the core's dirty bytes, and the fragment waits in WAIT-L until the DBP has accepted it, 16 ck
later. -/
def execDbw (a b : SReg) (s : State) : Out :=
  s.word .cores (fun n =>
    let tail := n.g.sget b.val
    match s.dbwFault n (n.g.sget a.val) tail with
    | .error c => s.trapNow n { code := c }
    | .ok k =>
      let s := s.release (n.party s.cur.team) (some 6)
      let d : Dw := { binding := k, tail := tail.setWidth 32, who := s.cur, team := s.cur.team, lin := n.t.lin, pc := n.f.pc }
      let s : State := { s with dws := s.dws.put s.nextId d, nextId := s.nextId + 1 }
      s.waits n .waitL (.busy (s.clock + 16)))

-- IOLD and IOST (R465, R466) --------------------------------------------------------------------------------------------------

/-- The address x of IOLD and IOST checked: the sub-link and bus address, or the trap (R465). -/
def State.ioAddr (s : State) (n : Now) (cfg write : Bool) (x size : Nat) : Except Code (Nat × Nat) × State :=
  if cfg then
    let k := 8 * (x / 2 ^ 32 % 16) + x / 2 ^ 36 % 8
    if x / 2 ^ 28 % 16 ≠ 0 ∨ 2 ^ 39 ≤ x then (.error 0x004, s)
    else if (s.subs.find k).isNone ∨ (s.sub k).mode ≠ 0 then (.error 0x10C, s)
    else if x % size ≠ 0 then (.error 0x05E, s)
    else (if (s.sub k).up then .ok (k, x % 2 ^ 28) else .error 0x10D, s)
  else
    let ok (e : Word) : Bool := if write then pteW e else pteR e
    let p := n.party s.cur.team
    match s.xlate p.place p.pasid x ok with
    | (.fault c, s) => (.error c, s)
    | (.absent, s) => (.error (s.absentCode p x), s)
    | (.page e, s) =>
      if !ok e.pte then (.error (if write then 0x049 else 0x048), s)
      else if pteType e.pte ≠ 2 then (.error 0x10C, s)
      else if x % size ≠ 0 then (.error 0x05E, s)
      else (s.mmioRoute (e.pa x), s)

/-- The answer of an endpoint to a read: its data, or one of the completion errors 0x108 to 0x10F. What an endpoint
answers, and whether it answers at all, is outside the device: a free value (log 13). -/
def endpointRead (k size : Nat) : Word × Option Code :=
  let x := Config.freeWord k
  (BitVec.ofNat 64 (x.toNat % 2 ^ (8 * size)),
    if bit (Config.freeWord (k + 1)) 3 then some (codeOf 4 1 (bits (Config.freeWord (k + 1)) 2 0)) else none)

/-- IOLD (R465): its result is pending until the endpoint's completion, or the loss of the request, arrives. DESIGN CHOICE (log 13). -/
def execIold (la : La) (cfg : Bool) (sz : Sz) (d a : SReg) (disp : BitVec 19) (s : State) : Out :=
  s.word .systemIo (fun n =>
    let x := (n.g.sget a.val + disp.signExtend 64).toNat
    let va : Word := BitVec.ofNat 64 x
    match s.ioAddr n cfg false x (szBytes sz) with
    | (.error c, s) =>
        if c = 0x10D ∨ c = 0x124 then
          s.later n la { regs := [.s d.val], vals := some [], bad := some { code := c, va := some va } }
        else s.trapNow n { code := c, va := some va }
    | (.ok (k, addr), s) =>
      let (v, err) := endpointRead s.fresh (szBytes sz)
      let t : Tlp := { sub := k, addr := addr, cfg := cfg, size := szBytes sz }
      let gone := !(s.sub k).carries (s.streamOf t) || bit (Config.freeWord (s.fresh + 1)) 4
      let r : Req := { kind := .iold s.cur.gid s.cur.slot s.nextId d.val (szBytes sz) cfg, sub := k, addr := addr, since := s.clock
                       team := s.cur.team, pc := n.f.pc, va := va }
      let s : State := { s with
        fresh := s.fresh + 2
        reqs := s.reqs.put s.nextId r }
      (s.send t).later n la { regs := [.s d.val], vals := if gone then none else some [.s d.val v],
                              bad := err.map (fun c => ({ code := c, va := some va } : Fail)) })

/-- IOST (R465): posted in the memory form; the configuration form waits for its completion. -/
def execIost (cfg : Bool) (sz : Sz) (a b : SReg) (disp : BitVec 19) (s : State) : Out :=
  s.word .systemIo (fun n =>
    let x := (n.g.sget a.val + disp.signExtend 64).toNat
    let va : Word := BitVec.ofNat 64 x
    match s.ioAddr n cfg true x (szBytes sz) with
    | (.error c, s) =>
        if !cfg ∧ (c = 0x10D ∨ c = 0x124) then (s.logTeam s.cur.team 0x10E n.f.pc va).done n
        else s.trapNow n { code := c, va := some va }
    | (.ok (k, addr), s) =>
      let data := leBytes (szBytes sz) (n.g.sget b.val).toNat
      let s := s.send { sub := k, addr := addr, cfg := cfg, data := some data, size := szBytes sz }
      if cfg then
        let r : Req := { kind := .cfgWrite s.cur.gid s.cur.slot, sub := k, addr := addr, since := s.clock, team := s.cur.team
                         pc := n.f.pc, va := va }
        let s : State := { s with reqs := s.reqs.put s.nextId r, nextId := s.nextId + 1 }
        s.waits n .waitL .answer
      else s.done n)

-- SVCALL (R447) -----------------------------------------------------------------------------------------------------------------

/-- The hub whose queue takes a team's calls: its queue's FE, or a system group's own hub (R439). -/
def State.callHub (s : State) (t : Team) : Nat :=
  match t.kind with
  | .system => hubOfCore t.core
  | _ => ((s.queues.find t.queue).map (·.hub)).getD (hubOfCore t.core)

/-- Calls that a hub's queue holds and has not begun (R439). -/
def State.queuedCalls (s : State) (h : Nat) : Nat :=
  (s.calls.all.filter (fun e => e.2.hub = h ∧ e.2.num < 64 ∧ e.2.begun.isNone ∧ e.2.who.isNone)).length

/-- Calls that a hub has not accepted enter its queue in the order in which they came, and their fragments go on
(R447). -/
def State.admitCalls (s : State) (h : Nat) : Nat → State
  | 0 => s
  | fuel + 1 =>
      if s.queuedCalls h < 4096 then
        match s.calls.all.find? (fun e => e.2.hub = h ∧ e.2.who.isSome) with
        | some (k, c) =>
            let s : State := { s with calls := s.calls.put k { c with who := none } }
            match c.who with
            | some w => State.admitCalls (s.wakes w) h fuel
            | none => s
        | none => s
      else s

/-- The argument block checked and its CTR and VER read, each whole (R447): the counter and its operand. DEDUCED (log 41). -/
def State.callBlock (s : State) (n : Now) (x : Word) : Except Code (Ctr × Word) × State :=
  let p := n.party s.cur.team
  if x.toNat % 64 ≠ 0 then (.error 0x05F, s)
  else match s.xlate p.place p.pasid x.toNat (fun e => pteR e && pteW e) with
    | (.fault _, s) => (.error 0x139, s)
    | (.absent, s) => (.error 0x139, s)
    | (.page e, s) =>
      if !(pteR e.pte && pteW e.pte) ∨ pteType e.pte = 1 ∨ pteType e.pte = 2 ∨ s.loadPoison p (e.pa x.toNat) 16 then
        (.error 0x139, s)
      else
        let (l, s) := s.loadBytes p (e.pa x.toNat) (pteType e.pte) 16
        let ctr : Word := BitVec.ofNat 64 (leNat (l.take 8))
        if leNat ((l.drop 8).take 1) ≠ 1 then (.error 0x13C, s)
        else if bit ctr 63 then (.error 0x13F, s)
        else match s.ctrOperand n s.cur.team (.add false) ctr with
          | (.ok (.peer _), s) => (.error 0x13F, s)
          | (.ok k, s) => (.ok (k, ctr), s)
          | (.error _, s) => (.error 0x13F, s)

/-- SVCALL (R447): the call is a release at SYS of the fragment's earlier accesses, and the fragment goes on when the
hub's queue accepts it. -/
def execSvcall (a : SReg) (n : Fin 64) (s : State) : Out :=
  s.word .cores (fun w =>
    let x := w.g.sget a.val
    if 48 ≤ n.val then s.trapNow w { code := 0x138 }
    else match s.callBlock w x with
      | (.error c, s) => s.trapNow w { code := c, va := some x }
      | (.ok (k, cv), s) =>
        let s := s.release (w.party s.cur.team) (some 6)
        let h := s.callHub w.t
        let room := s.queuedCalls h < 4096 && !(s.calls.all.any (fun e => e.2.hub = h ∧ e.2.who.isSome))
        let c : Call := { num := n.val, hub := h, block := x, ctr := k, ctrVa := cv, pasid := w.t.pasid, team := s.cur.team, lin := w.t.lin
                          since := s.clock, who := if room then none else some s.cur, pc := w.f.pc }
        let s : State := { s with calls := s.calls.put s.nextId c, nextId := s.nextId + 1 }
        if room then s.done w else s.waits w .waitL .service)

-- MSI bindings (R451 to R453) ---------------------------------------------------------------------------------------------------------

/-- A binding's counter operand translated under its PASID (R453 steps 1 and 2, R448). -/
def State.bindCounter (s : State) (hub pasid : Nat) (x : Word) : Except Code Ctr × State :=
  if x = 0 ∨ bit x 63 then (.error 0x06E, s)
  else
    let p : Party := { place := .hub hub, pasid := pasid }
    match s.xlate p.place pasid x.toNat (fun e => pteR e || pteW e) with
    | (.fault c, s) => (.error c, s)
    | (.absent, s) => (.error (s.absentCode p x.toNat), s)
    | (.page e, s) =>
      if !(pteR e.pte || pteW e.pte) then (.error 0x048, s)
      else match pteType e.pte with
        | 1 => (if x.toNat % 8 ≠ 0 then .error 0x05A else .ok (.mem (e.pa x.toNat)), s)
        | 2 => (match s.mmioAt (e.pa x.toNat) with
            | some (k, _) => if (s.sub k).mode = 1 then .error 0x092 else .error 0x06E
            | none => .error 0x06E, s)
        | _ => (.error 0x06E, s)

/-- A binding made invalid; the unbind is logged (R453). DEDUCED (log 40). -/
def State.msiOff (s : State) (h k : Nat) : State :=
  match (s.hub h).msi.find k with
  | some b => (s.putHub h { s.hub h with msi := (s.hub h).msi.del k }).logEvent h 0x12B b.pasid b.va
  | none => s

/-- A binding installed. -/
def State.msiPut (s : State) (h k : Nat) (b : MsiBind) : State := s.putHub h { s.hub h with msi := (s.hub h).msi.put k b }

/-- An MSI's add to the counter of its binding: 1, or the low 4 bytes of its data; a release at SYS (R452, R256). -/
def State.msiAdd (s : State) (h : Nat) (b : MsiBind) (data : Nat) : State :=
  s.emit { ctr := b.ctr, act := .add (BitVec.ofNat 64 (if b.data then data % 2 ^ 32 else 1)), who := .msi h, scope := some 6
           pasid := b.pasid, va := b.va }

/-- A PASID of contexts that have all ended (R452, R459). DEDUCED (log 90). -/
def State.deadPasid (s : State) (pasid : Nat) : Bool :=
  s.ctxs.all.any (fun e => e.2.pasid = pasid) && s.ctxs.all.all (fun e => e.2.pasid ≠ pasid || e.2.killed)

/-- A message under a binding that is installed: the cases of R452 after those of its binding. DEDUCED (log 89). -/
def State.msiTake (s : State) (h : Nat) (b : MsiBind) (size data : Nat) : State :=
  if s.deadPasid b.pasid then s.logEvent h 0x12A b.pasid b.va
  else if (size ≠ 4 ∧ size ≠ 8) ∨ (size = 8 ∧ 2 ^ 32 ≤ data) then s.logEvent h 0x12D b.pasid b.va
  else match s.hubOperand h b.pasid (.add false) b.va with
    | (.ok c, s) => s.msiAdd h { b with ctr := c } data
    | (.error _, s) => s.logEvent h 0x129 b.pasid b.va

/-- A binding's installation completes: the messages held for it are delivered under it (R452). -/
def State.msiInstalled (s : State) (h k : Nat) (b : MsiBind) : State :=
  let held := ((s.hub h).msiHeld.filter (fun e => e.1 = k)).map (·.2)
  let s := s.msiPut h k { b with installing := false, valid := true }
  let s := s.putHub h { s.hub h with msiHeld := (s.hub h).msiHeld.filter (fun e => e.1 ≠ k) }
  held.foldl (fun (s : State) (m : Nat × Nat) => s.msiTake h { b with installing := false, valid := true } m.1 m.2) s

/-- MSIB (R453). The converter installs the binding in two steps, between which the fragment does not go on and messages
are held (R452). DEDUCED (log 40). -/
def execMsib (mode : MsiMode) (a : SReg) (s : State) : Out :=
  s.word .system (fun n =>
    let x := (n.g.sget a.val).toNat
    let k := x % 65536
    let h := x / 65536 % 2
    if 2 ^ 17 ≤ x then s.trapNow n { code := 0x004 }
    else if mode = .off then (s.msiOff h k).done n
    else if 63 < a.val + 2 then s.trapNow n { code := 0x00B }
    else
      let op := n.g.sget (a.val + 1)
      let pasid := (n.g.sget (a.val + 2)).toNat
      if 2 ^ 20 ≤ pasid then s.trapNow n { code := 0x004 }
      else match s.bindCounter h pasid op with
        | (.error c, s) => s.trapNow n { code := c, va := some op }
        | (.ok ctr, s) =>
          let b : MsiBind := { pasid := pasid, ctr := ctr, va := op, data := mode = .data, installing := true }
          match (s.hub h).msi.find k with
          | some o =>
              if o.valid ∧ o.pasid ≠ pasid then s.trapNow n { code := 0x12C }
              else if o = { b with valid := o.valid } then (s.msiInstalled h k b).done n
              else (s.msiPut h k { b with valid := o.valid }).putFrag s.cur (n.f.again s.clock)
          | none => (s.msiPut h k { b with valid := false }).putFrag s.cur (n.f.again s.clock))

-- ATSINV and PRGR (R456, R457) ----------------------------------------------------------------------------------------------------------

/-- The sub-link of a function address (R456). -/
def fnSub (fn : Nat) : Nat := 8 * (fn / 2 ^ 16 % 16) + fn / 2 ^ 20 % 8

/-- Invalidate Requests sent to a function, for a range of a PASID, of every PASID (Global Invalidate), or for all it holds; a request record
waits for the completion (R457). -/
def State.sendInval (s : State) (fn : Nat) (kind : ReqKind) (team : Nat) (pc va : Word) (pasid count : Nat) (all : Bool)
    (glob : Bool := false) : State :=
  let s := s.send { sub := fnSub fn, addr := va.toNat, data := some (leBytes 8 (pasid + count * 2 ^ 20 + (if glob then 2 ^ 62 else 0) + (if all then 2 ^ 63 else 0)))
                    size := 8 }
  { s with
    reqs := s.reqs.put s.nextId { kind := kind, sub := fnSub fn, addr := fn, since := s.clock, team := team, pc := pc, va := va }
    funcs := s.funcs.upd fn (fun f => { f with given := f.given.filter (fun e =>
      !(all || ((glob || e.1 = pasid) && va.toNat / pageBytes ≤ e.2 && e.2 < va.toNat / pageBytes + count))) })
    nextId := s.nextId + 1 }

/-- ATSINV (R457): the fragment waits until every completion has come. -/
def execAtsinv (all : Bool) (a : SReg) (s : State) : Out :=
  s.word .system (fun n =>
    let fn := (n.g.sget a.val).toNat
    let p := (n.g.sget (a.val + 1)).toNat
    let va := n.g.sget (a.val + 2)
    let cnt := (n.g.sget (a.val + 3)).toNat
    if 2 ^ 23 ≤ fn then s.trapNow n { code := 0x004 }
    else if !all ∧ 63 < a.val + 3 then s.trapNow n { code := 0x00B }
    else if !all ∧ (p / 2 ^ 20 % 2 ^ 43 ≠ 0 ∨ va.toNat % pageBytes ≠ 0 ∨ cnt < 1 ∨ 2 ^ 24 < cnt) then s.trapNow n { code := 0x004 }
    else if !((s.funcs.find fn).any (·.ats)) then s.trapNow n { code := 0x117 }
    else
      let s := s.sendInval fn (.atsInv (some s.cur) fn none) s.cur.team n.f.pc va (p % 2 ^ 20) cnt all (2 ^ 63 ≤ p)
      s.waits n .waitL .answer)

/-- The response to a page request group: 0 Success, 1 Invalid Request, 2 Response Failure (R456). -/
def State.prgAnswer (s : State) (fn prg pasid code : Nat) : State :=
  s.send { sub := fnSub fn, addr := fn % 2 ^ 16, data := some (leBytes 8 (prg + code * 2 ^ 12 + pasid * 2 ^ 32)), size := 8 }

/-- PRGR (R456): a release at SYS, then the response to a group that the TA holds. A group has a PASID, so that one named without a valid PASID
is none that the TA holds. DEDUCED (log 127). -/
def execPrgr (rc : PrgCode) (a : SReg) (s : State) : Out :=
  s.word .system (fun n =>
    let x := (n.g.sget a.val).toNat
    let y := (n.g.sget (a.val + 1)).toNat
    let fn := x % 2 ^ 23
    let prg := x / 2 ^ 32 % 2 ^ 9
    let pasid := y % 2 ^ 20
    if 63 < a.val + 1 then s.trapNow n { code := 0x00B }
    else if x / 2 ^ 23 % 2 ^ 9 ≠ 0 ∨ 2 ^ 41 ≤ x then s.trapNow n { code := 0x004 }
    else match (s.funcs.find fn).bind (fun f => if bit (n.g.sget (a.val + 1)) 20 then f.groups.find? (fun e => e.1 = pasid && e.2.1 = prg) else none) with
      | none => s.trapNow n { code := 0x114 }
      | some (_, _, c) =>
        let s := s.release (n.party s.cur.team) (some 6)
        let code := match rc with | .ok => 0 | .inv => 1 | .fail => 2
        let s : State := { s with
          funcs := s.funcs.upd fn (fun f => { f with
            groups := f.groups.filter (fun e => !(e.1 = pasid && e.2.1 = prg)), pageReqs := f.pageReqs - c
            pri := f.pri && code ≠ 2, state := if code = 2 then 4 else f.state }) }
        let s := s.prgAnswer fn prg pasid code
        let s := if code = 2 then s.logTeam s.cur.team 0x115 n.f.pc 0 else s
        s.done n)

end Sys2Proof.Machine
end

