-- ==== Sys2Proof/Machine/Baton.lean ====
section
/-! DEFINITION. The matrix baton and its queue (R307, R312 to R314). -/

namespace Sys2Proof.Machine

/-- The team of a group number. -/
def teamOf (gid : Nat) : Nat := gid / 16

/-- The engine of a core holds an operation of some team other than t. DEDUCED (log 96). -/
def Core.busyFor (c : Core) (t : Nat) : Bool := c.engine.any (fun e => e.who.team ≠ t)

/-- Every fragment of a group that waits in BATON goes on (R312), and so does every fragment of its team whose FORM 0x8 word waits for
the team's saved holding, when `back` says that this is granted (R314). -/
def State.wakeBaton (s : State) (gid : Nat) (back : Bool) : State :=
  (s.teamFrags (teamOf gid)).foldl (fun s e =>
    if e.2.st = .waitB ∧ ((e.2.why = .baton ∧ e.1 / 64 = gid) ∨ (e.2.why = .heldBaton ∧ back)) then s.wakes ⟨e.1 / 64, e.1 % 64⟩ else s) s

/-- The saved quarters and the stopped operation of a team installed on its core (R314). -/
def State.install (s : State) (k t : Nat) : State :=
  match s.teams.find t with
  | none => s
  | some x =>
    if x.installed then s
    else
      let c := s.core k
      let latches := (List.range 4).foldl (fun (l : Tab Latch) q =>
        match x.savedLatches.find? (fun e => e.1 = q) with
        | some (_, comp, data) => l.put q { valid := true, team := t, comp := comp, data := data }
        | none => l.upd q (fun y => { y with valid := false })) c.latches
      let s := s.putCore k { c with latches := latches, engine := c.engine ++ x.savedOps }
      s.putTeam t { x with installed := true, savedLatches := [], savedOps := [] }

/-- The baton granted to a group (R312); the first grant after a relaunch installs what was saved (R314). -/
def State.grantBaton (s : State) (k gid : Nat) : State :=
  let c := s.core k
  let q := c.batonQ.filter (· ≠ gid)
  let s := s.putCore k { c with holder := some gid, grantTo := none, batonQ := q }
  let back := ((s.teams.find (teamOf gid)).bind (·.savedBaton)) = some gid
  let s := s.install k (teamOf gid)
  let s := if back then s.updTeam (teamOf gid) (fun t => { t with savedBaton := none }) else s
  s.wakeBaton gid back

/-- The baton of a core passed on by its holder's team: to the target, or to the head of the queue; without either it
becomes free (R312). -/
def State.passBaton (s : State) (k t : Nat) (target : Option Nat) : State :=
  let c := s.core k
  match target.orElse (fun _ => c.batonQ.head?) with
  | none => s.putCore k { c with holder := none, grantTo := none }
  | some g =>
    if teamOf g = t then s.grantBaton k g
    else s.putCore k { c with holder := none, grantTo := some g }

/-- A free baton goes to the head of the queue, and a passed one to its target, once the engine holds no operation of
another team (R312). DEDUCED (log 96). -/
def State.batonStep (s : State) (k : Nat) : State :=
  let c := s.core k
  match c.holder with
  | some _ => s
  | none =>
    match c.grantTo.orElse (fun _ => c.batonQ.head?) with
    | some g => if c.busyFor (teamOf g) then s else s.grantBaton k g
    | none => s

/-- A group leaves its core's queue, and the baton it holds passes on (R313). -/
def State.leaveBaton (s : State) (k gid : Nat) : State :=
  let c := s.core k
  let s := s.putCore k { c with batonQ := c.batonQ.filter (· ≠ gid), grantTo := if c.grantTo = some gid then none else c.grantTo }
  if c.holder = some gid then s.passBaton k (teamOf gid) none else s

/-- A saved baton holding whose group has ended is void: the team's FORM 0x8 words wait for it no more (R313, R314). -/
def State.voidBaton (s : State) (gid : Nat) : State :=
  if ((s.teams.find (teamOf gid)).bind (·.savedBaton)) = some gid then
    (s.updTeam (teamOf gid) (fun t => { t with savedBaton := none })).wakeBaton gid true
  else s

/-- A team leaves its core's queue with all its entries, and the baton that it holds passes on (R313, R314). -/
def State.quitBaton (s : State) (k t : Nat) : State :=
  let c := s.core k
  let s := s.putCore k { c with
    batonQ := c.batonQ.filter (fun g => teamOf g ≠ t), grantTo := c.grantTo.filter (fun g => teamOf g ≠ t) }
  if c.holder.any (fun g => teamOf g = t) then s.passBaton k t none else s

end Sys2Proof.Machine
end

