-- ==== Sys2Proof/Machine/Mtx.lean ====
section
/-! DEFINITION. FORM 0x8 MTX: the baton words, B quarters, MMA, tiles, drains, compression and status, with the steps of
the matrix engine (chapter 13). -/

namespace Sys2Proof.Machine

-- Issue (R311, R314, R310) ----------------------------------------------------------------------------------------

/-- A FORM 0x8 word: until its team's saved baton holding is granted again it waits in WAIT-B (R314). -/
def State.mtx (s : State) (wt : Wait) (h : Now → State) : Out :=
  s.wordW wt .matrix (fun n =>
    if n.t.savedBaton.isSome then s.putFrag s.cur { n.f with st := .waitB, why := .heldBaton, ready := none } else h n)

/-- The group of the word holds the baton. -/
def State.holds' (s : State) (n : Now) : Bool := (s.core n.t.core).holder = some s.cur.gid
/-- A group of the word's team holds the baton. -/
def State.teamHolds (s : State) (n : Now) : Bool := ((s.core n.t.core).holder.map teamOf) = some s.cur.team

/-- The engine takes no operation of the team now: its queue is full, or an MMA.rep of the team is outstanding (R310). -/
def State.engineShut (s : State) (n : Now) : Bool :=
  let e := (s.core n.t.core).engine
  16 ≤ e.length || e.any (fun x => x.who.team = s.cur.team && (match x.op with | .mma _ _ _ _ rep _ _ => 0 < rep | _ => false))

/-- An engine operation issued into its place, or waiting in WAIT-L for one (R310). -/
def State.engineAdd (s : State) (n : Now) (op : EngOp) (h : State → State) : State :=
  if s.engineShut n then s.putFrag s.cur { n.f with st := .waitL, why := .engineQueue, ready := none }
  else
    let c := s.core n.t.core
    let s' : State := { s with nextId := s.nextId + 1 }
    h (s'.putCore n.t.core
      { c with engine := c.engine ++ [{ op := op, who := s.cur, pc := n.f.pc, id := s.nextId }] })

/-- A scratch operand of the engine: in space 00 and a multiple of m, else the code (R317). -/
def engAddr (a m : Nat) (c : Code) : Option Code := if a / 2 ^ 30 ≠ 0 ∨ a % m ≠ 0 then some c else none

-- The baton (R312) ---------------------------------------------------------------------------------------------------

/-- BATON (R312). -/
def execBaton (wt : Wait) (s : State) : Out :=
  s.mtx wt (fun n =>
    if s.holds' n then s.done n
    else
      let c := s.core n.t.core
      let q := if c.batonQ.contains s.cur.gid then c.batonQ else c.batonQ ++ [s.cur.gid]
      (s.putCore n.t.core { c with batonQ := q }).waits n .waitB .baton)

/-- BPASS (R312). -/
def execBpass (wt : Wait) (a : Option SReg) (s : State) : Out :=
  s.mtx wt (fun n =>
    if !s.holds' n then s.trapNow n { code := 0x0DA }
    else match a with
      | none => (s.done n).passBaton n.t.core s.cur.team none
      | some r =>
        let x := (n.g.sget r.val).toNat
        if 16 ≤ x ∨ n.t.groups ≤ x ∨ n.t.ended.contains x then s.trapNow n { code := 0x0DB }
        else if x = s.cur.grp then s.trapNow n { code := 0x0DD }
        else (s.done n).passBaton n.t.core s.cur.team (some (16 * s.cur.team + x)))

-- B quarters (R309, R318, R325) -----------------------------------------------------------------------------------------

/-- Bytes of a quarter. -/
def quarterBytes (c : Bool) : Nat := if c then 2560 else 4096

/-- The tags of a quarter set at issue (R309). -/
def State.tagQuarter (s : State) (k q t : Nat) (c : Bool) : State :=
  let x := s.core k
  let l := (x.latches.find q).getD {}
  s.putCore k { x with latches := x.latches.put q { l with valid := true, team := t, comp := c } }

/-- MBQ (R325): the registers are read at issue. -/
def execMbq (wt : Wait) (c : Bool) (q : Fin 4) (a : VReg) (s : State) : Out :=
  s.mtx wt (fun n =>
    if !s.teamHolds n then s.trapNow n { code := 0x0D9 }
    else
      let data := (List.range (quarterBytes c)).foldl (fun (m : Cells Byte) o =>
        Cells.set 0 m o ((n.g.vget (a.val + o / 128) (o / 4 % 32)).extractLsb' (8 * (o % 4)) 8)) []
      s.engineAdd n (.mbq q.val c data) (fun s => (s.tagQuarter n.t.core q.val s.cur.team c).done n))

/-- MBQS (R325). -/
def execMbqs (wt : Wait) (tok : Tok) (c : Bool) (q : Fin 4) (a : SReg) (s : State) : Out :=
  s.mtx wt (fun n =>
    let x := (n.g.sget a.val).toNat % 2 ^ 32
    if !s.teamHolds n then s.trapNow n { code := 0x0D9 }
    else match engAddr x 128 0x0E3 with
      | some e => s.trapNow n { code := e, va := some (BitVec.ofNat 64 x) }
      | none =>
        match s.scrRange n.t s.cur.team x (quarterBytes c) 64 with
        | some b => s.trapNow n (badFail b)
        | none =>
          match n.g.tokRise tok.val with
          | none => s.trapNow n { code := 0x0C0 }
          | some g =>
            s.engineAdd n (.mbqs q.val c x tok.val) (fun s => (s.tagQuarter n.t.core q.val s.cur.team c).done { n with g := g }))

-- Format blocks (R315 to R317) --------------------------------------------------------------------------------------------

/-- The fields of a format block's 32 bytes (R315). -/
def fmtBlkOf (l : List Byte) : FmtBlk :=
  let h := leNat (l.take 8)
  let w (o : Nat) : Nat := leNat ((l.drop o).take 4)
  { anb := h / 2 ^ 26 % 8, bmid := h / 2 ^ 25 % 2 = 1, bp := h / 2 ^ 21 % 16, bbl := h / 2 ^ 20 % 2, bsc := h / 2 ^ 19 % 2 = 1
    bfmt := h / 2 ^ 16 % 8, abl := h / 2 ^ 12 % 2, asc := h / 2 ^ 11 % 2 = 1, afmt := h / 2 ^ 8 % 8
    ascale := w 8, bscale := w 12, astep := w 16, bstream := w 20, bstep := w 24 }

/-- The scaled path (R316). -/
def FmtBlk.scaled (f : FmtBlk) : Bool := f.asc
/-- The half path (R316). -/
def FmtBlk.half (f : FmtBlk) : Bool := 3 ≤ f.afmt

/-- The checks of a format block: version, reserved bits, fields and combinations (R324 step 5, R316). -/
def FmtBlk.fault (f : FmtBlk) (l : List Byte) : Option Code :=
  let h := leNat (l.take 8)
  let plain := !f.asc && !f.bsc && f.abl = 0 && f.bbl = 0 && f.ascale = 0 && f.bscale = 0
  let int := decide (f.afmt < 2) && decide (f.bfmt < 2) && plain
  let sc := decide (f.afmt < 3) && decide (f.bfmt < 3) && f.asc && f.bsc
  let hf := decide (3 ≤ f.afmt) && decide (3 ≤ f.bfmt) && plain
  if h % 256 ≠ 1 then some 0x0E8
  else if h / 2 ^ 29 ≠ 0 ∨ h / 2 ^ 13 % 8 ≠ 0 ∨ leNat (l.drop 28) ≠ 0 then some 0x0EA
  else if 5 ≤ f.anb ∨ 5 ≤ f.bfmt ∨ 5 ≤ f.afmt then some 0x0E9
  else if !(int || sc || hf) then some 0x0E9
  else if (if f.bfmt = 2 then f.bp < 2 || 8 < f.bp else f.bp ≠ 0) ∨ (f.bmid ∧ f.bfmt ≠ 2) then some 0x0E9
  else none

/-- Block lengths of A and B. -/
def FmtBlk.na (f : FmtBlk) : Nat := if f.abl = 1 then 32 else 16
def FmtBlk.nb (f : FmtBlk) : Nat := if f.bbl = 1 then 32 else 16

/-- A_base of step j and its checks: space, alignment, the bank's end, and every bank (R317, R324 step 6). -/
def State.aTileFault (s : State) (n : Now) (team anb a : Nat) : Option Bad :=
  match engAddr a 256 0x0EC with
  | some c => some (c, a)
  | none =>
    if 2 ^ 17 < a % 2 ^ 17 + 64 / 2 ^ anb * 256 then some (0x0EC, a)
    else (List.range (2 ^ anb)).findSome? (fun i => s.scrRange n.t team (a + i * 2 ^ 17) (64 / 2 ^ anb * 256) 64)

/-- A range of scratch that a step reads: its alignment and bounds. -/
def State.engRange (s : State) (n : Now) (team a m len : Nat) : Option Bad :=
  match engAddr a m 0x0EC with
  | some c => some (c, a)
  | none => s.scrRange n.t team a len 64

/-- The operand addresses of every step (R324 step 6, R323). -/
def State.mmaFault (s : State) (n : Now) (team : Nat) (f : FmtBlk) (a rep : Nat) (comp : Bool) : Option Bad :=
  if f.astep % 256 ≠ 0 then some (0x0EC, a)
  else if 0 < rep ∧ f.bstep ≠ 0 ∧ (f.bstream % 128 ≠ 0 ∨ f.bstep % 128 ≠ 0 ∨ f.bstep < 4 * quarterBytes comp) then
    some (0x0EC, f.bstream)
  else (List.range (rep + 1)).findSome? (fun j =>
    (s.aTileFault n team f.anb ((a + j * f.astep) % 2 ^ 32)).orElse (fun _ =>
    (if f.scaled then
      (s.engRange n team ((f.ascale + 2048 * j) % 2 ^ 32) 64 2048).orElse (fun _ =>
        s.engRange n team ((f.bscale + 2048 * j) % 2 ^ 32) 64 2048)
    else none).orElse (fun _ =>
    if 0 < j ∧ f.bstep ≠ 0 then s.engRange n team ((f.bstream + (j - 1) * f.bstep) % 2 ^ 32) 128 (4 * quarterBytes comp)
    else none)))

/-- The quarters' tags (R324 step 7). -/
def Core.quarterFault (c : Core) (team : Nat) : Option Code :=
  let l := (List.range 4).map (fun q => (c.latches.find q).getD {})
  if l.any (fun x => !x.valid) then some 0x0E0
  else if l.any (fun x => x.team ≠ team) then some 0x0E1
  else if l.any (fun x => x.comp) && l.any (fun x => !x.comp) then some 0x0E2
  else none

/-- A format block read from scratch or memory (R324 step 4). -/
def State.readFmt (s : State) (n : Now) (fs : Bool) (x : Word) : Except Fail FmtBlk × State :=
  let fin (s : State) (b : List Byte) : Except Fail FmtBlk × State :=
    let f := fmtBlkOf b
    match f.fault b with
    | some c => (.error { code := c, va := some x }, s)
    | none => (.ok f, s)
  let p := n.party s.cur.team
  if fs then
    let a := x.toNat % 2 ^ 32
    if a % 32 ≠ 0 then (.error { code := 0x0ED, va := some x }, s)
    else if a / 2 ^ 30 ≠ 0 then (.error { code := 0x0EC, va := some x }, s)
    else match s.scrPiece n.t s.cur.team .other a with
      | .error c => (.error { code := c, va := some x }, s)
      | .ok y => fin s (s.scrRead y 32)
  else if x.toNat % 32 ≠ 0 then (.error { code := 0x0ED, va := some x }, s)
  else match s.piece p .load x.toNat with
    | (.error c, s) => (.error { code := c, va := some x }, s)
    | (.ok (pa, type), s) =>
      if s.loadPoison p pa 32 then (.error { code := 0x07E, va := some x }, s)
      else let (b, s) := s.loadBytes p pa type 32; fin s b

/-- MMA (R320, R324). -/
def execMma (wt : Wait) (tok : Tok) (rep : BitVec 8) (fs : Bool) (d : Tile) (a b : SReg) (s : State) : Out :=
  s.mtx wt (fun n =>
    let base := (n.g.sget a.val).toNat % 2 ^ 32
    if !s.holds' n then s.trapNow n { code := 0x0D8 }
    else if n.t.ntiles ≤ d.val then s.trapNow n { code := 0x0F0 }
    else match s.readFmt n fs (n.g.sget b.val) with
      | (.error f, s) => s.trapNow n f
      | (.ok f, s) =>
        let comp := (((s.core n.t.core).latches.find 0).map (·.comp)).getD false
        match s.mmaFault n s.cur.team f base rep.toNat comp with
        | some e => s.trapNow n (badFail e)
        | none =>
          match (s.core n.t.core).quarterFault s.cur.team with
          | some c => s.trapNow n { code := c }
          | none =>
            match n.g.tokRise tok.val with
            | none => s.trapNow n { code := 0x0C0 }
            | some g => s.engineAdd n (.mma f d.val base comp rep.toNat 0 tok.val) (fun s => s.done { n with g := g }))

-- Tiles (R326, R327) --------------------------------------------------------------------------------------------------------

/-- MZERO (R326). -/
def execMzero (wt : Wait) (d : Tile) (cnt : Fin 16) (s : State) : Out :=
  s.mtx wt (fun n =>
    if !s.holds' n then s.trapNow n { code := 0x0D8 }
    else if n.t.ntiles ≤ d.val + cnt.val then s.trapNow n { code := 0x0F0 }
    else s.engineAdd n (.mzero d.val (cnt.val + 1)) (fun s => s.done n))

/-- Word i of scratch at a checked address. -/
def State.scrLane (s : State) (team a i : Nat) : Lane :=
  BitVec.ofNat 32 (leNat (s.scrRead (.cell team (a % 2 ^ 21 + 4 * i)) 4))

/-- MLOADA (R326): the words are read while the fragment is in WAIT-L, 64 ck. -/
def execMloada (wt : Wait) (d : Tile) (a : SReg) (s : State) : Out :=
  s.mtx wt (fun n =>
    let x := (n.g.sget a.val).toNat % 2 ^ 32
    if !s.holds' n then s.trapNow n { code := 0x0D8 }
    else if n.t.ntiles ≤ d.val then s.trapNow n { code := 0x0F0 }
    else match s.engRange n s.cur.team x 256 16384 with
      | some e => s.trapNow n (badFail e)
      | none =>
        let data := (List.range 4096).foldl (fun (m : Cells Lane) i => Cells.set 0 m i (s.scrLane s.cur.team x i)) []
        s.engineAdd n (.mloada d.val data) (fun s => s.waits n .waitL (.busy (s.clock + 64))))

/-- Registers that a drain of row groups writes (R328). -/
def drainRegs (dt : DrainTy) (nrg : Nat) : Nat :=
  match dt with
  | .f32 | .s32 => 16 * nrg
  | .bf16 | .f16 => 8 * nrg
  | .s8 => 4 * nrg
  | .np8 => 0

/-- Bytes of a drained row in scratch, RB (R328). -/
def drainRow : DrainTy → Nat
  | .f32 | .s32 => 256
  | .bf16 | .f16 => 128
  | .s8 | .np8 => 64

/-- MDRAIN (R327, R328). -/
def execMdrain (wt : Wait) (la : La) (dst : DrainDst) (a : Tile) (rg nrg : Fin 8) (dt : DrainTy) (ty : AccTy) (rm : Rm) (bl : Bl)
    (s : State) : Out :=
  s.mtx wt (fun n =>
    let rows := 8 * (nrg.val + 1)
    let pid := s.nextId
    let open' (regs : List PendReg) (drain : Bool) (s : State) : State :=
      s.done (n.opens s.cur.slot pid la.val { regs := regs, drain := drain })
    if !s.holds' n then s.trapNow n { code := 0x0D8 }
    else if n.t.ntiles ≤ a.val then s.trapNow n { code := 0x0F0 }
    else match dst with
      | .reg d =>
          { s with nextId := pid + 1 }.engineAdd n (.mdrain a.val rg.val (nrg.val + 1) dt ty rm bl none d.val pid n.f.em)
            (open' ((List.range (drainRegs dt (nrg.val + 1))).map (fun i => .v (d.val + i))) false)
      | .scr b =>
          let x := (n.g.sget b.val).toNat % 2 ^ 32
          match (s.engRange n s.cur.team x 64 (rows * drainRow dt)).orElse (fun _ =>
            if dt = .np8 then s.scrRange n.t s.cur.team (x + 4096) (8 * rows) 64 else none) with
          | some e => s.trapNow n (badFail e)
          | none =>
            { s with nextId := pid + 1 }.engineAdd n (.mdrain a.val rg.val (nrg.val + 1) dt ty rm bl (some x) 0 pid n.f.em) (open' [] true))

-- Status (R332) ----------------------------------------------------------------------------------------------------------------

/-- MSTAT (R332): read at issue, with the sticky bits cleared in the same instant. An MMA.rep that was stopped by a save is outstanding
until it ends (R314). -/
def execMstat (wt : Wait) (la : La) (tok : Tok) (clr : Bool) (d : SReg) (s : State) : Out :=
  s.mtx wt (fun n =>
    let e := n.t.savedOps ++ (s.core n.t.core).engine
    let own := e.findSome? (fun x => match x.op with
      | .mma _ _ _ _ rep prog k => if x.who.gid = s.cur.gid ∧ k = tok.val then some (rep, prog) else none
      | _ => none)
    let stat := match own with
      | some (rep, prog) => 2 ^ 19 + (rep + 1) * 2 ^ 8 + prog % 256
      | none => 0
    let depth := (e.filter (fun x => x.who.team = s.cur.team)).length
    let flag (b : Bool) (i : Nat) : Nat := if b then 2 ^ i else 0
    let x := depth * 2 ^ 40 + flag n.t.dsat 25 + flag n.t.fnan 24 + flag n.t.iovf 23 + stat
    let s := if clr then s.updTeam s.cur.team (fun t => { t with dsat := false, fnan := false, iovf := false }) else s
    s.writeLater n 8 la [.s d.val] [.s d.val (BitVec.ofNat 64 x)])

-- Quarter and tile data (R317, R318, R321) ----------------------------------------------------------------------------------------

/-- Bits that a format keeps for one element: 8 or 16. -/
def wide (fmt : Nat) : Bool := 3 ≤ fmt

/-- The byte of A row r at row offset o (R317). -/
def Team.aByte (t : Team) (anb base r o : Nat) : Byte :=
  Cells.get 0 t.scratch ((base + r % 2 ^ anb * 2 ^ 17 + r / 2 ^ anb * 256 + o) % 2 ^ 21)

/-- Bit i of a plane array's plane k, for B blocks of n (R69). -/
def planeBit (data : Nat → Byte) (nblk n k i : Nat) : Bool :=
  let b := i / n
  bit (data ((k * nblk + b) * (n / 8) + i % n / 8)) (i % 8)

/-- The q byte of element i of a plane array (R69). -/
def planeByte (data : Nat → Byte) (nblk n i : Nat) : Byte :=
  BitVec.ofNat 8 ((List.range 8).foldl (fun x k => if planeBit data nblk n k i then x + 2 ^ (7 - k) else x) 0)

/-- The raw bits of B[k][c] in a quarter; none where compression dropped it (R318). -/
def quarterElem (l : Latch) (fmt n c k : Nat) : Option Nat :=
  let at' (o : Nat) : Byte := Cells.get 0 l.data o
  if l.comp then
    let mask (g : Nat) : Byte := at' (2048 + 32 * c + g)
    if !bit (mask (k / 8)) (k % 8) then none
    else
      let i := ((List.range (k / 8)).foldl (fun x g => x + popcount (mask g)) 0)
        + ((List.range (k % 8)).foldl (fun x j => if bit (mask (k / 8)) j then x + 1 else x) 0)
      if wide fmt then some ((at' (128 * c + 2 * i)).toNat + 256 * (at' (128 * c + 2 * i + 1)).toNat)
      else if fmt = 2 then
        some ((List.range 8).foldl (fun x j => if bit (at' (128 * c + 16 * j + i / 8)) (i % 8) then x + 2 ^ (7 - j) else x) 0)
      else some (at' (128 * c + i)).toNat
  else if wide fmt then some ((at' (256 * c + 2 * k)).toNat + 256 * (at' (256 * c + 2 * k + 1)).toNat)
  else if fmt = 2 then some (planeByte (fun o => at' (256 * c + o)) (256 / n) n k).toNat
  else some (at' (256 * c + k)).toNat

/-- Every mask that a compressed quarter uses has four bits set (R324). -/
def maskOk (l : Latch) (fmt : Nat) : Bool :=
  !l.comp || (List.range 16).all (fun c => (List.range (if wide fmt then 16 else 32)).all (fun g =>
    popcount (Cells.get 0 l.data (2048 + 32 * c + g)) = 4))

/-- A scale entry: E, M, and its reserved byte (R68). -/
def Team.scaleEntry (t : Team) (base n idx : Nat) : Nat × Nat × Nat :=
  let sz := n / 8
  let x := leNat ((List.range sz).map (fun i => Cells.get 0 t.scratch ((base + idx * sz + i) % 2 ^ 21)))
  (x % 256, x / 256 % 2 ^ (n / 2), if n = 32 then x / 2 ^ 24 else 0)

/-- Every entry of a scale array is one that MMA accepts (R68, R321). -/
def Team.scalesOk (t : Team) (base n : Nat) : Bool :=
  (List.range (64 * (256 / n))).all (fun i => let e := t.scaleEntry base n i; e.1 ≠ 255 && e.2.2 = 0)

/-- The integer of an 8-bit element (R321). -/
def intOf (fmt p : Nat) (mid : Bool) (x : Nat) : Int :=
  if fmt = 1 then (x : Int) else if fmt = 2 then planeInt p mid (BitVec.ofNat 8 x) else (BitVec.ofNat 8 x).toInt

/-- The value of a half element. -/
def mHalf (fmt x : Nat) : Fl := (if fmt = 3 then fmtBf16 else fmtF16).unpack x

-- One step of an MMA (R320, R72 to R75) ---------------------------------------------------------------------------------------------

/-- The summing tree of R74 over leaves. -/
def leafTree : Nat → List Nat → Nat
  | 0, l => l.headD 0
  | n + 1, l =>
      let rec pairUp : List Nat → List Nat
        | a :: b :: r => (fmtF32.add .rne a b).1 :: pairUp r
        | r => r
      leafTree n (pairUp l)

/-- The operands of one step: the team's scratch, the format block, and the addresses of the step. -/
structure MmaStep where
  t : Team
  f : FmtBlk
  a : Nat
  sa : Nat
  sb : Nat
  latches : Nat → Latch

/-- Raw A[r][k] and B[k][c]. -/
def aElem (m : MmaStep) (r k : Nat) : Nat :=
  if wide m.f.afmt then (m.t.aByte m.f.anb m.a r (2 * k)).toNat + 256 * (m.t.aByte m.f.anb m.a r (2 * k + 1)).toNat
  else (m.t.aByte m.f.anb m.a r k).toNat
def bElem (m : MmaStep) (k c : Nat) : Option Nat := quarterElem (m.latches (c / 16)) m.f.bfmt m.f.nb (c % 16) k

/-- The integer path: the exact value of C + A·B (R75). -/
def intSum (m : MmaStep) (x : Lane) (r c : Nat) : Int :=
  (List.range 256).foldl (fun (s : Int) k =>
    match bElem m k c with
    | some b => s + intOf m.f.afmt 8 false (aElem m r k) * intOf m.f.bfmt 8 false b
    | none => s) x.toInt

/-- One scaled product: a signed dyadic term, none when a factor is a zero block (R72, R321). -/
def scaledTerm (m : MmaStep) (r c k : Nat) : Option (Bool × Nat × Int) :=
  let ea := m.t.scaleEntry m.sa m.f.na (r * (256 / m.f.na) + k / m.f.na)
  let eb := m.t.scaleEntry m.sb m.f.nb (c * (256 / m.f.nb) + k / m.f.nb)
  match bElem m k c with
  | none => none
  | some b =>
    if ea.1 = 0 ∨ eb.1 = 0 then none
    else
      let q := intOf m.f.afmt 8 false (aElem m r k) * intOf m.f.bfmt m.f.bp m.f.bmid b
      let e := (ea.1 : Int) - 134 - (if ea.2.1 / 2 ^ (k % m.f.na / 2) % 2 = 1 then 1 else 0)
        + ((eb.1 : Int) - 134 - (if eb.2.1 / 2 ^ (k % m.f.nb / 2) % 2 = 1 then 1 else 0))
      some (decide (q < 0), q.natAbs, e)

/-- A block sum as f32 (R72); an exact zero is +0. -/
def scaledLeaf (m : MmaStep) (r c j : Nat) : Nat :=
  let n := min m.f.na m.f.nb
  let (v, e) := exactSum ((List.range n).filterMap (fun i => scaledTerm m r c (j * n + i)))
  if v = 0 then 0 else (fmtF32.round (.mode .rne) (v < 0) v.natAbs e false).1

/-- A leaf of the half path (R73). -/
def halfLeaf (m : MmaStep) (r c j : Nat) : Nat :=
  let prods := (List.range 16).map (fun i =>
    let k := 16 * j + i
    (mHalf m.f.afmt (aElem m r k), match bElem m k c with | some b => mHalf m.f.bfmt b | none => .fin false 0 0))
  let inv := prods.any (fun p => p.1.isNan || p.2.isNan || (mulFl p.1 p.2).isNone)
  if inv then fmtF32.nan
  else (fmtF32.addAll .rne (prods.map (fun p => (mulFl p.1 p.2).getD (.fin false 0 0)))).1

/-- The new word (r, c) of the tile, with IOVF and FNAN (R320). -/
def mmaWord (m : MmaStep) (x : Lane) (r c : Nat) : Lane × Bool × Bool :=
  if m.f.half ∨ m.f.scaled then
    let n := if m.f.half then 8 else 256 / min m.f.na m.f.nb
    let leaves := (List.range n).map (fun j => if m.f.half then halfLeaf m r c j else scaledLeaf m r c j)
    let y := (fmtF32.add .rne x.toNat (leafTree n.log2 leaves)).1
    (BitVec.ofNat 32 y, false, (fmtF32.unpack y).isNan)
  else
    let v := intSum m x r c
    (BitVec.ofInt 32 v, v < -(2 ^ 31) || 2 ^ 31 ≤ v, false)

/-- Key of word (r, c) of a tile. -/
def tileKey (tile r c : Nat) : Nat := 4096 * tile + 64 * r + c

/-- The quarters of a stream loaded into the latches (R323). -/
def State.streamB (s : State) (k team a : Nat) (comp : Bool) : State :=
  let c := s.core k
  let sz := quarterBytes comp
  match s.teams.find team with
  | none => s
  | some t =>
    let latches := (List.range 4).foldl (fun (l : Tab Latch) q =>
      l.put q { (c.latches.find q).getD {} with
        data := (List.range sz).foldl (fun (m : Cells Byte) o => Cells.set 0 m o (Cells.get 0 t.scratch ((a + q * sz + o) % 2 ^ 21))) [] }) c.latches
    s.putCore k { c with latches := latches }

/-- The step's operands are ones that it accepts; else the code found while it runs (R324). -/
def MmaStep.fault (m : MmaStep) : Option Code :=
  if m.f.scaled && !(m.t.scalesOk m.sa m.f.na && m.t.scalesOk m.sb m.f.nb) then some 0x0EB
  else if !((List.range 4).all (fun q => maskOk (m.latches q) m.f.bfmt)) then some 0x0F9
  else none

/-- Core periods of a step on the full array, and of its A reads (R322). -/
def stepTimes (f : FmtBlk) (comp : Bool) : Nat × Nat :=
  (if f.bfmt = 2 then (if comp then 4 * f.bp else 8 * f.bp) else if comp then 32 else 64, 16384 / (128 * 2 ^ f.anb))

/-- The periods counted in NCK by a step that begins while the alarm is raised (R333); the first of a rise on a die is logged
(R473). -/
def State.narrowStep (s : State) (k : Nat) (f : FmtBlk) (comp : Bool) : State :=
  let c := s.core k
  let (tarr, ta) := stepTimes f comp
  if s.alarm then
    let die := dieOfCore k
    let s := if s.cores.all.any (fun e => dieOfCore e.1 = die && e.2.narrow) then s else s.logEvent (hubOfCore k) (codeOf 5 3 die)
    s.putCore k { c with narrow := true, nck := c.nck + BitVec.ofNat 32 (max (2 * tarr) ta) }
  else s

/-- Fragments of a core that wait for the engine look again (R310). -/
def State.wakeEngine (s : State) (k : Nat) : State :=
  s.frags.all.foldl (fun s e =>
    if e.2.why = .engineQueue ∧ ((s.teams.find (e.1 / 1024)).map (·.core)) = some k then s.wakes ⟨e.1 / 64, e.1 % 64⟩ else s) s

/-- The head operation leaves the engine. -/
def State.engineNext (s : State) (k : Nat) : State :=
  (s.putCore k { s.core k with engine := (s.core k).engine.tail }).wakeEngine k

/-- One step of an MMA on a tile (R320). -/
def State.mmaTile (s : State) (team tile : Nat) (m : MmaStep) : State :=
  let words := (List.range 64).flatMap (fun r => (List.range 64).map (fun c =>
    (tileKey tile r c, mmaWord m (Cells.get 0 m.t.tiles (tileKey tile r c)) r c)))
  s.updTeam team (fun t => { t with
    tiles := words.foldl (fun (l : Cells Lane) w => Cells.set 0 l w.1 w.2.1) t.tiles
    iovf := t.iovf || words.any (fun w => w.2.2.1), fnan := t.fnan || words.any (fun w => w.2.2.2) })

/-- A running MMA meets a fault: it stops there, and its trap is raised in the issuing team (R324). -/
def State.failMma (s : State) (k : Nat) (e : EngEnt) (prog : Nat) (code : Code) : State :=
  let c := s.core k
  (s.putCore k { c with engine := { e with failed := true } :: c.engine.tail }).trapAway e.who e.pc
    { code := code, data := some (BitVec.ofNat 64 prog) } e.id

/-- The head of a core's engine queue performs one step of its MMA; any other head is left alone (R320, R323, R324). Its quarters have the
form that they had when it issued (R310). -/
def State.stepMma (s : State) (k : Nat) : State :=
  match (s.core k).engine with
  | [] => s
  | e :: rest =>
    match e.op with
    | .mma f tile a comp rep prog tok =>
      if e.failed then s
      else
        let s := if 0 < prog ∧ f.bstep ≠ 0 then s.streamB k e.who.team (f.bstream + (prog - 1) * f.bstep) comp else s
        match s.teams.find e.who.team with
        | none => s
        | some t =>
          let c := s.core k
          let m : MmaStep := { t := t, f := f, a := a + prog * f.astep, sa := f.ascale + 2048 * prog, sb := f.bscale + 2048 * prog
                               latches := fun q => { (c.latches.find q).getD {} with comp := comp } }
          match m.fault with
          | some code => s.failMma k e prog code
          | none =>
            let s := (s.mmaTile e.who.team tile m).narrowStep k f comp
            if prog < rep then s.putCore k { s.core k with engine := { e with op := .mma f tile a comp rep (prog + 1) tok } :: rest }
            else (s.engineNext k).tokFall e.who.gid tok
    | _ => s

/-- A team's MMA that is running on core k and whose current step reads a byte of its scratch, with its progress: an A tile, the scale
arrays, or a stream (R317, R323, R324). -/
def State.readingMma (s : State) (k team off : Nat) : Option (EngEnt × Nat) :=
  match (s.core k).engine.head? with
  | none => none
  | some e =>
    match e.op with
    | .mma f _ a comp _ prog _ =>
      let within (base n : Nat) : Bool := base % 2 ^ 21 ≤ off && off < base % 2 ^ 21 + n
      let reads := (List.range (2 ^ f.anb)).any (fun i => within (a + prog * f.astep + i * 2 ^ 17) (64 / 2 ^ f.anb * 256))
        || (f.scaled && (within (f.ascale + 2048 * prog) 2048 || within (f.bscale + 2048 * prog) 2048))
        || (decide (0 < prog) && f.bstep ≠ 0 && within (f.bstream + (prog - 1) * f.bstep) (4 * quarterBytes comp))
      if e.who.team = team && !e.failed && reads then some (e, prog) else none
    | _ => none

-- Drains (R327, R328) ------------------------------------------------------------------------------------------------------------------

/-- One drained word as its type, with DSAT (R327); np8 gives its f32 (R71). -/
def drainWord (dt : DrainTy) (ty : AccTy) (rm : Rm) (x : Lane) : Nat × Bool :=
  let v := x.toInt
  let fl := fmtF32.unpack x.toNat
  let ofInt (f : Fmt) : FRes := if v = 0 then (0, 0) else f.round (.mode rm) (v < 0) v.natAbs 0 false
  let isOver (r : FRes) : Bool := r.2 &&& fOF ≠ 0
  let toF (f : Fmt) : Nat × Bool :=
    match ty with
    | .f32 => let r := f.ofFl rm fl; (r.1, isOver r || fl.isNan)
    | .s32 => let r := ofInt f; (r.1, isOver r)
  let toI (lo hi : Int) (w : Nat) : Nat × Bool :=
    let clampTo (q : Int) : Nat × Bool := ((BitVec.ofInt w (max lo (min q hi))).toNat, q < lo || hi < q)
    match ty with
    | .s32 => clampTo v
    | .f32 =>
      match fl with
      | .nan _ => (0, true)
      | .inf neg => ((BitVec.ofInt w (if neg then lo else hi)).toNat, true)
      | .fin neg m e => let q := (rndInt rm neg m e).1; clampTo (if neg then -(q : Int) else q)
  match dt, ty with
  | .f32, .f32 => (x.toNat, false)
  | .s32, .s32 => (x.toNat, false)
  | .f32, .s32 => toF fmtF32
  | .bf16, _ => toF fmtBf16
  | .f16, _ => toF fmtF16
  | .s32, .f32 => toI (-(2 ^ 31)) (2 ^ 31 - 1) 32
  | .s8, _ => toI (-128) 127 8
  | .np8, .f32 => (x.toNat, false)
  | .np8, .s32 => ((ofInt fmtF32).1, false)

/-- Row r of a tile. -/
def Team.tileRow (t : Team) (tile r : Nat) : List Lane := (List.range 64).map (fun c => Cells.get 0 t.tiles (tileKey tile r c))

/-- The blocks of a row quantised to np8: the q bytes, the scale entries' bytes, and DSAT (R71, R328). -/
def drainNp8 (bl : Bl) (row : List Nat) : List Byte × List Byte × Bool :=
  let n := match bl with | .b16 => 16 | .b32 => 32
  (List.range (64 / n)).foldl (fun (x : List Byte × List Byte × Bool) j =>
    let (q, e, m, fl) := npPack ((row.drop (j * n)).take n)
    (x.1 ++ q, x.2.1 ++ leBytes (n / 8) (e + 256 * m), x.2.2 || fl &&& (fNV ||| fOF) ≠ 0)) ([], [], false)

/-- What a drain to registers writes: rows as bytes, laid out by R328. -/
def drainVals (dt : DrainTy) (d : Nat) (rows : List (List Nat)) : List RegVal :=
  let word (i : Nat) : Nat → RegVal := fun x => .v (d + i / 32) (i % 32) (BitVec.ofNat 32 x)
  match dt with
  | .f32 | .s32 => (rows.flatMap id).zipIdx.map (fun e => word e.2 e.1)
  | .bf16 | .f16 =>
      let l := rows.flatMap id
      (List.range (l.length / 2)).map (fun i => word i (l.getD (2 * i) 0 + 2 ^ 16 * l.getD (2 * i + 1) 0))
  | .s8 | .np8 =>
      let l := rows.flatMap id
      (List.range (l.length / 4)).map (fun i => word i ((List.range 4).foldl (fun x j => x + l.getD (4 * i + j) 0 * 256 ^ j) 0))

/-- Bytes of a drained element. -/
def drainBytes : DrainTy → Nat
  | .f32 | .s32 => 4
  | .bf16 | .f16 => 2
  | .s8 | .np8 => 1

/-- The value is that of a lane of a mask, or of no lane. -/
def RegVal.laneOf (m : Mask) : RegVal → Bool
  | .v _ i _ => bit m i
  | _ => true

/-- A drain performed (R327, R328): its values reach its pending result in the lanes that were active at issue (R31), or its stores are
made. -/
def State.drain (s : State) (e : EngEnt) (tile rg nrg : Nat) (dt : DrainTy) (ty : AccTy) (rm : Rm) (bl : Bl) (dst : Option Nat)
    (reg pid : Nat) (em : Mask) : State :=
  match s.teams.find e.who.team with
  | none => s
  | some t =>
    let rows := (List.range (8 * nrg)).map (fun i => (t.tileRow tile (8 * rg + i)).map (drainWord dt ty rm))
    let np := rows.map (fun r => drainNp8 bl (r.map (·.1)))
    let sat := if dt = .np8 then np.any (fun x => x.2.2) else rows.any (fun r => r.any (·.2))
    let s := s.putTeam e.who.team { t with dsat := t.dsat || sat }
    match dst with
    | none =>
        let vals := (drainVals dt reg (rows.map (fun r => r.map (·.1)))).filter (·.laneOf em)
        match s.pendOf e.who.gid pid with
        | some _ => s.setPend e.who.gid pid (fun p => p.map (fun p => { p with vals := some vals }))
        | none => { s with groups := s.groups.upd e.who.gid (fun g => g.puts vals) }
    | some b =>
        let s := s.updTeam e.who.team (fun t =>
          rows.zipIdx.foldl (fun t r =>
            let bytes := if dt = .np8 then (np.getD r.2 ([], [], false)).1 else r.1.flatMap (fun x => leBytes (drainBytes dt) x.1)
            let t := t.scrStore ((b + r.2 * drainRow dt) % 2 ^ 21) bytes
            if dt = .np8 then t.scrStore ((b + 4096 + 8 * r.2) % 2 ^ 21) (np.getD r.2 ([], [], false)).2.1 else t) t)
        (s.setPend e.who.gid pid (fun _ => none)).wakeResults e.who.gid

/-- The head of a core's engine queue performed when it is not an MMA (R310). -/
def State.performEngine (s : State) (k : Nat) : State :=
  match (s.core k).engine with
  | [] => s
  | e :: _ =>
    let latch (s : State) (q : Nat) (data : Cells Byte) : State :=
      let c := s.core k
      let l := (c.latches.find q).getD {}
      s.putCore k { c with latches := c.latches.put q { l with data := data } }
    match e.op with
    | .mma _ _ _ _ _ _ _ => s
    | .mbq q _ data => (latch s q data).engineNext k
    | .mbqs q c a tok =>
        match s.teams.find e.who.team with
        | none => s.engineNext k
        | some t =>
          let data := (List.range (quarterBytes c)).foldl (fun (m : Cells Byte) o =>
            Cells.set 0 m o (Cells.get 0 t.scratch ((a + o) % 2 ^ 21))) []
          ((latch s q data).engineNext k).tokFall e.who.gid tok
    | .mzero tile cnt =>
        (s.updTeam e.who.team (fun t => { t with
          tiles := t.tiles.filter (fun x => !(4096 * tile ≤ x.1 && x.1 < 4096 * (tile + cnt))) })).engineNext k
    | .mloada tile data =>
        (s.updTeam e.who.team (fun t => { t with
          tiles := (List.range 4096).foldl (fun (l : Cells Lane) i => Cells.set 0 l (4096 * tile + i) (Cells.get 0 data i)) t.tiles })).engineNext k
    | .mdrain tile rg nrg dt ty rm bl dst reg pid em =>
        (s.drain e tile rg nrg dt ty rm bl dst reg pid em).engineNext k

-- Compression (R329) ------------------------------------------------------------------------------------------------------------------------

/-- BFMT's code of a format. -/
def mfmtCode : MFmt → Nat
  | .s8 => 0
  | .n8 => 1
  | .np8 => 2
  | .bf16 => 3
  | .f16 => 4

/-- Column c of the uncompressed quarter: its raw elements in K order. -/
def quarterCol (l : Latch) (fmt n c : Nat) : List Nat :=
  (List.range (if wide fmt then 128 else 256)).map (fun k => (quarterElem l fmt n c k).getD 0)

/-- The magnitude by which MCMPR compares (R329), scaled so that it is a whole number. -/
def magOf (fmt x m : Nat) : Nat :=
  if wide fmt then x % 2 ^ 15
  else if fmt = 1 then 2 * x
  else
    let q := (BitVec.ofNat 8 x).toInt.natAbs
    if fmt = 2 then (if m = 1 then q else 2 * q) else 2 * q

/-- The four positions of a group that are kept: the largest magnitudes, ties to the lower K (R329). -/
def keepFour (mags : List Nat) : List Nat :=
  (List.range 8).filter (fun i =>
    ((List.range 8).filter (fun j =>
      mags.getD i 0 < mags.getD j 0 || (mags.getD i 0 = mags.getD j 0 && j < i))).length < 4)

/-- One compressed column: its 128 data bytes and its mask bytes; the mask bytes that the format does not use are free
values (R318; log 7). DEDUCED (log 20). -/
def compressCol (fmt : Nat) (col : List Nat) (ms : Nat → Nat) (free : Nat → Byte) : List Byte × List Byte :=
  let groups := (List.range (col.length / 8)).map (fun g =>
    keepFour ((List.range 8).map (fun j => magOf fmt (col.getD (8 * g + j) 0) (ms (8 * g + j)))))
  let kept := groups.zipIdx.flatMap (fun e => e.1.map (fun i => col.getD (8 * e.2 + i) 0))
  let data := if wide fmt then kept.flatMap (leBytes 2)
    else if fmt = 2 then
      (List.range 128).map (fun o => BitVec.ofNat 8 ((List.range 8).foldl (fun x i =>
        if kept.getD (8 * (o % 16) + i) 0 / 2 ^ (7 - o / 16) % 2 = 1 then x + 2 ^ i else x) 0))
    else kept.flatMap (leBytes 1)
  let masks := groups.map (fun l => BitVec.ofNat 8 (l.foldl (fun x i => x + 2 ^ i) 0))
  (data, masks ++ (List.range (32 - masks.length)).map free)

/-- MCMPR (R329): reads, then the 2560 bytes; the fragment is in WAIT-L until they are written. DEDUCED (log 20). -/
def execMcmpr (wt : Wait) (fmt : MFmt) (bl : Bl) (d a b : SReg) (s : State) : Out :=
  s.mtx wt (fun n =>
    let src := (n.g.sget a.val).toNat % 2 ^ 32
    let dst := (n.g.sget d.val).toNat % 2 ^ 32
    let sc := (n.g.sget b.val).toNat % 2 ^ 32
    let len := match bl with | .b16 => 16 | .b32 => 32
    let addr := (engAddr src 128 0x0FB).map (fun c => (c, src)) |>.orElse (fun _ => (engAddr dst 128 0x0FB).map (fun c => (c, dst)))
    let range := (s.scrRange n.t s.cur.team src 4096 64).orElse (fun _ => (s.scrRange n.t s.cur.team dst 2560 64).orElse (fun _ =>
      if fmt = .np8 then s.engRange n s.cur.team sc 64 512 else none))
    match addr.orElse (fun _ => range) with
    | some e => s.trapNow n (badFail e)
    | none =>
      let l : Latch := { data := (List.range 4096).foldl (fun (m : Cells Byte) o => Cells.set 0 m o (Cells.get 0 n.t.scratch ((src + o) % 2 ^ 21))) [] }
      let cols := (List.range 16).map (fun c => quarterCol l (mfmtCode fmt) len c)
      let nan := wide (mfmtCode fmt) && cols.any (fun c => c.any (fun x => (mHalf (mfmtCode fmt) x).isNan))
      let badScale := fmt = .np8 && (List.range (16 * (256 / len))).any (fun i => (n.t.scaleEntry sc len i).1 = 255)
      if nan then s.trapNow n { code := 0x0F8 }
      else if badScale then s.trapNow n { code := 0x0FA }
      else
        let ms (c k : Nat) : Nat := if fmt = .np8 then (n.t.scaleEntry sc len (c * (256 / len) + k / len)).2.1 / 2 ^ (k % len / 2) % 2 else 0
        let out := cols.zipIdx.map (fun e => compressCol (mfmtCode fmt) e.1 (ms e.2) (fun i => (Config.freeWord (s.fresh + 32 * e.2 + i)).setWidth 8))
        let s := s.updTeam s.cur.team (fun t =>
          (t.scrStore (dst % 2 ^ 21) (out.flatMap (·.1))).scrStore ((dst + 2048) % 2 ^ 21) (out.flatMap (·.2)))
        ({ s with fresh := s.fresh + 512 } : State).waits n .waitL (.busy (s.clock + 32)))

-- Steps of the engine --------------------------------------------------------------------------------------------------------------------------

/-- The engine performs its next operation that is not an MMA (R310). -/
def execEngineOpPerform (core : Nat) (s : State) : Out := .next (s.performEngine core)
/-- One step of an MMA completes (R320). -/
def execMmaStep (core : Nat) (s : State) : Out := .next (s.stepMma core)
/-- A free or passed baton is granted (R312). -/
def execBatonGrant (core : Nat) (s : State) : Out := .next (s.batonStep core)

end Sys2Proof.Machine
end

