-- ==== Sys2Proof/Machine/Divergence.lean ====
section
/-! DEFINITION. Fragments, reconvergence records and the held list (R143, R170 to R175). -/

namespace Sys2Proof.Machine

/-- The chain of a fragment from a record outwards (R170). -/
def chain (recs : Tab Rec) : Nat → Option Nat → List Nat
  | 0, _ => []
  | _, none => []
  | n + 1, some r => r :: chain recs n ((recs.find r).bind (·.par))

/-- The chain of a record; a group has at most 16 records. -/
def Group.chain (g : Group) (r : Option Nat) : List Nat := Machine.chain g.recs 17 r

/-- The innermost record of a chain with a token (R171, R172). -/
def Group.match' (g : Group) (r : Option Nat) (k : BitVec 8) : Option Nat :=
  (g.chain r).find? (fun x => ((g.recs.find x).map (·.tok)) = some k)

/-- The least free record number (R170). DESIGN CHOICE (log 130). -/
def Group.freeRec (g : Group) : Nat := ((List.range 17).find? (fun i => (g.recs.find i).isNone)).getD 16

/-- The lowest free pool slot of a core (R143). -/
def State.poolSlot (s : State) (core : Nat) : Option Nat :=
  let used := s.frags.all.filterMap (fun e =>
    if (s.teams.find (e.1 / 1024)).any (fun t => t.core = core && t.onCore) then some (e.1 % 64) else none)
  ((List.range (fragSlots core)).filter (fun k => homeSlots core ≤ k)).find? (fun k => !used.contains k)

/-- The fragments of a group that wait at a record, in ascending slot (R173). -/
def State.waitersAt (s : State) (gid r : Nat) : List (Nat × Frag) :=
  (s.fragsOf gid).filter (fun e => e.2.st = .join && e.2.rcd = some r)

/-- A fragment whose next sequential address has reached 2^56 traps at the last word it executed (R162). -/
def State.fallsOff (s : State) (c : Cur) : State :=
  match s.frags.find c.fid with
  | some f => if f.pc.toNat < 2 ^ 56 then s else s.raise c (f.pc - 8) { code := 0x026 }
  | none => s

/-- complete(x) (R173): `self` is the fragment that issued the completing JOIN. -/
def State.completeRec (s : State) (gid r : Nat) (self : Option Nat) : State :=
  match s.groups.find gid with
  | none => s
  | some g =>
    match g.recs.find r with
    | none => s
    | some x =>
      let held := g.held.filter (fun h => h.joined && h.rcd = some r)
      let g1 : Group := { g with recs := g.recs.del r, held := g.held.filter (fun h => !(h.joined && h.rcd = some r)) }
      match s.waitersAt gid r with
      | w :: rest =>
        let stays := self = some w.1
        let f : Frag := { w.2 with
          em := x.exp, pc := w.2.jpc + 8, rcd := x.par, why := .none, ready := some (s.clock + 2)
          st := if stays && w.2.active.isSome then .active else .pending
          active := if stays then w.2.active else none }
        let s := { s with frags := (rest.foldl (fun (fr : Tab Frag) (e : Nat × Frag) => fr.del e.1) s.frags).put w.1 f }
        ({ s with groups := s.groups.put gid g1 } : State).fallsOff ⟨gid, w.1 % 64⟩
      | [] =>
        match held with
        | [] => { s with groups := s.groups.put gid g1 }
        | h :: _ =>
          let e : Held := { em := x.exp, pc := h.jpc + 8, rcd := x.par, joined := false, jpc := 0 }
          let at' := (g.held.takeWhile (fun k => !(k.joined && k.rcd = some r))).length
          { s with groups := s.groups.put gid { g1 with held := g1.held.take at' ++ [e] ++ g1.held.drop at' } }

/-- check(x) (R173): a record completes when every lane it expects waits at it. -/
def State.checkRec (s : State) (gid r : Nat) (self : Option Nat) : State :=
  match s.groups.find gid with
  | none => s
  | some g =>
    match g.recs.find r with
    | none => s
    | some x =>
      let w := (s.waitersAt gid r).foldl (fun (m : Mask) e => m ||| e.2.em) 0
      let w := (g.held.filter (fun h => h.joined && h.rcd = some r)).foldl (fun (m : Mask) h => m ||| h.em) w
      if w ≠ 0 ∧ w = x.exp then s.completeRec gid r self else s

/-- leave(x, lanes) (R173). -/
def State.leaveRec (s : State) (gid r : Nat) (lanes : Mask) : State :=
  match s.groups.find gid with
  | none => s
  | some g =>
    match g.recs.find r with
    | none => s
    | some x =>
      let e := x.exp &&& ~~~lanes
      if e = 0 then { s with groups := s.groups.put gid { g with recs := g.recs.del r } }
      else ({ s with groups := s.groups.put gid { g with recs := g.recs.put r { x with exp := e } } }).checkRec gid r none

/-- leave on records, innermost first (R172, R174). -/
def State.leaveAll (s : State) (gid : Nat) (l : List Nat) (lanes : Mask) : State :=
  l.foldl (fun s r => s.leaveRec gid r lanes) s

/-- A READY entry takes fragment slot c (R175). -/
def State.enters' (s : State) (c : Cur) (h : Held) : State :=
  (s.putFrag c { em := h.em, pc := h.pc, st := .pending, rcd := h.rcd, ready := some (s.clock + 2), wins := h.wins, acquires := h.acquires }).fallsOff c

/-- The newest READY entry of the held list takes fragment slot c (R175); with none, the slot is freed. -/
def State.takeHeld (s : State) (c : Cur) : State :=
  match s.groups.find c.gid with
  | none => s
  | some g =>
    match g.held.reverse.find? (fun h => !h.joined) with
    | none => { s with frags := s.frags.del c.fid }
    | some h =>
      let s := s.putGroup c { g with held := (g.held.reverse.erase h).reverse }
      s.enters' c h

/-- hand_over(f) (R175): f becomes a JOINED held entry and the newest READY entry takes its slot. -/
def State.handOver (s : State) (c : Cur) : State :=
  match s.groups.find c.gid, s.frags.find c.fid with
  | some g, some f =>
    match g.held.reverse.find? (fun h => !h.joined) with
    | none => s
    | some h =>
      let rest := (g.held.reverse.erase h).reverse
      let s := s.putGroup c { g with held := rest ++ [{ em := f.em, pc := f.pc, rcd := f.rcd, joined := true, jpc := f.jpc }] }
      s.enters' c h
  | _, _ => s

/-- A group with no live fragment, slotted or held, has ended (R179). -/
def State.groupDone (s : State) (gid : Nat) : Bool :=
  (s.fragsOf gid).isEmpty && ((s.groups.find gid).map (·.held)).all List.isEmpty

/-- A fragment ends: its lanes retire, and its slot goes to a READY entry or is freed (R174, R175, R179). Its pending results are the
group's, and are written all the same. The baton of a group that ends passes on (R313). DEDUCED (log 94). -/
def State.endFrag (s : State) (c : Cur) : State :=
  match s.at' c with
  | none => s
  | some n =>
    let s := (s.leaveAll c.gid (n.g.chain n.f.rcd) n.f.em).takeHeld c
    if s.groupDone c.gid then (s.updTeam c.team (fun t => { t with ended := t.ended ++ [c.grp] })).leaveBaton n.t.core c.gid |>.voidBaton c.gid
    else s

end Sys2Proof.Machine
end

