-- ==== Sys2Proof/Machine/Ctl.lean ====
section
/-! DEFINITION. FORM 0x6 CTL and the EXT word: control transfer, divergence, suspension, ending (R40, R41, R161 to
R181). -/

namespace Sys2Proof.Machine

-- Targets (R41, R162) ---------------------------------------------------------------------------------------------

/-- The target of a relative form (R162). -/
def Now.target {w : Nat} (n : Now) (disp : BitVec w) : Word := n.f.pc + 8 * disp.signExtend 64

/-- The checks of a target to which control is transferred (R41). -/
def State.checkTarget (s : State) (n : Now) (t : Word) : Option Fail × State :=
  if t.toNat % 8 ≠ 0 then (some { code := 0x020, va := some t }, s)
  else if 2 ^ 56 ≤ t.toNat then (some { code := 0x021, va := some t }, s)
  else match s.fetchWord (n.party s.cur.team) t.toNat with
    | (.error c, s) => (some { code := c, va := some t }, s)
    | (.ok w, s) => (if bits w 63 60 = 15 then some { code := 0x003, va := some t } else none, s)

/-- Group and fragment written, and the fragment goes on at a target; its next word issues two ck later (R165). -/
def State.jump (s : State) (n : Now) (t : Word) : State :=
  (s.putGroup s.cur n.g).putFrag s.cur { n.f with pc := t, ready := some (s.clock + 2) }

/-- The registers that a control word writes, two ck after issue, when the next word may issue (R84, R165). DEDUCED (log 109). -/
def State.opens6 (s : State) (n : Now) (l : List RegVal) : State × Now :=
  if l.isEmpty then (s, n)
  else ({ s with nextId := s.nextId + 1 }, n.opens s.cur.slot s.nextId 0 (shortPend l 0 (s.clock + 2) false))

/-- Control transferred to a checked target, with the registers that the word writes. -/
def State.branch (s : State) (n : Now) (t : Word) (l : List RegVal := []) : State :=
  match s.checkTarget n t with
  | (some f, s) => s.trapNow n f
  | (none, s) => let (s, n) := s.opens6 n l; s.jump n t

/-- The fragment goes on at the next word, two ck later (R165). -/
def State.next6 (s : State) (n : Now) (l : List RegVal := []) : State := let (s, n) := s.opens6 n l; s.done n 8 2

-- Uniform control transfer (R166 to R169) ----------------------------------------------------------------------------

/-- BRA (R166). -/
def execBra (disp : BitVec 30) (s : State) : Out := s.word .any (fun n => s.branch n (n.target disp))
/-- BRA.l (R166, R39). -/
def execBraL (target : BitVec 56) (s : State) : Out := s.word .any (fun n => s.branch n (target.setWidth 64))
/-- BRC (R166). -/
def execBrc (g : Guard) (disp : BitVec 30) (s : State) : Out :=
  s.word .any (fun n => if guardTrue n.f n.g g then s.branch n (n.target disp) else s.next6 n)

/-- The modes that permit a link: a vector pair is no link of a prologue (R181). DEDUCED (log 88). -/
def linkPermit : Link → Permit
  | .sca _ => .any
  | .vec _ => .cores

/-- The values that a link register receives (R168). -/
def linkVals (em : Mask) (link : Link) (x : Word) : List RegVal :=
  match link with
  | .sca r => [.s r.val x]
  | .vec k => laneVals em (fun i => pairVals (2 * k.val) i x)

/-- The link names a vector pair, which prologue mode does not permit (R163, R181). DEDUCED (log 88). -/
def linkBarred (n : Now) (link : Link) : Bool :=
  match link with
  | .sca _ => false
  | .vec _ => n.t.kind = .prologue

/-- CALL with its link value (R168): the target is checked first, then the link value (R162). -/
def State.callTo (s : State) (n : Now) (link : Link) (t : Word) (size : Nat) : State :=
  if linkBarred n link then s.trapNow n { code := 0x02A }
  else match s.checkTarget n t with
    | (some f, s) => s.trapNow n f
    | (none, s) =>
      let x := n.f.pc + BitVec.ofNat 64 size
      if 2 ^ 56 ≤ x.toNat then s.trapNow n { code := 0x026 }
      else let (s, n) := s.opens6 n (linkVals n.f.em link x); s.jump n t

/-- CALL (R168). -/
def execCall (link : Link) (disp : BitVec 30) (s : State) : Out :=
  s.word (linkPermit link) (fun n => s.callTo n link (n.target disp) 8)
/-- CALL.l (R168, R39). -/
def execCallL (link : Link) (target : BitVec 56) (s : State) : Out :=
  s.word (linkPermit link) (fun n => s.callTo n link (target.setWidth 64) 16)

/-- The address in a link register; none when the active lanes of a pair differ (R169). -/
def linkBase (n : Now) (link : Link) : Option Word :=
  match link with
  | .sca r => some (n.g.sget r.val)
  | .vec k =>
      let xs := (lanesOf n.f.em).map (fun i => n.g.pairGet (2 * k.val) i)
      let base := xs.headD 0
      if xs.all (fun x => x = base) then some base else none

/-- RET and JMPI (R169). -/
def State.returnBy (s : State) (n : Now) (link : Link) (off : Word) (code : Code) : State :=
  if linkBarred n link then s.trapNow n { code := 0x02A }
  else match linkBase n link with
    | none => s.trapNow n { code := code }
    | some base => s.branch n (base + off)

/-- RET (R169). -/
def execRet (link : Link) (s : State) : Out := s.word (linkPermit link) (fun n => s.returnBy n link 0 0x023)
/-- JMPI (R169): the index counts words. -/
def execJmpi (link : Link) (b : SReg) (s : State) : Out :=
  s.word (linkPermit link) (fun n => s.returnBy n link (8 * n.g.sget b.val) 0x027)
/-- SDBNZ (R167). -/
def execSdbnz (d : SReg) (disp : BitVec 30) (s : State) : Out :=
  s.word .any (fun n =>
    let x := n.g.sget d.val - 1
    if x ≠ 0 then s.branch n (n.target disp) [.s d.val x] else s.next6 n [.s d.val x])

-- Divergence and reconvergence (R171 to R175) ---------------------------------------------------------------------------

/-- BRD after its checks (R171): t and n are the taken and the other lanes, r its record. -/
def State.split (s : State) (w : Now) (t n : Mask) (target : Word) (pool : Option Nat) (r : Nat) : State :=
  let next := w.f.pc + 8
  let f := { w.f with rcd := some r }
  match pool with
  | some k =>
      let (em, pc, side, spc) := if popcount n ≤ popcount t then (t, target, n, next) else (n, next, t, target)
      let s := (s.jump { w with f := { f with em := em } } pc).putFrag { s.cur with slot := k }
        { em := side, pc := spc, st := .pending, rcd := f.rcd, ready := some (s.clock + 2), wins := w.f.wins, acquires := w.f.acquires }
      (s.fallsOff s.cur).fallsOff { s.cur with slot := k }
  | none =>
      let e : Held := { em := n, pc := next, rcd := f.rcd, joined := false, jpc := 0, wins := w.f.wins, acquires := w.f.acquires }
      s.jump { w with f := { f with em := t }, g := { w.g with held := w.g.held ++ [e] } } target

/-- The record that a BRD matches stays innermost as it was; a new one is opened (R171). -/
def State.brdEffect (s : State) (w : Now) (t n : Mask) (tok : BitVec 8) (target : Word) (pool : Option Nat) : State :=
  let w := match w.g.match' w.f.rcd tok with
    | some _ => w
    | none =>
      let r := w.g.freeRec
      { w with g := { w.g with recs := w.g.recs.put r { tok := tok, exp := w.f.em, par := w.f.rcd } }, f := { w.f with rcd := some r } }
  if t = 0 then s.next6 w
  else if n = 0 then s.jump w target
  else s.split w t n target pool (w.f.rcd.getD 0)

/-- BRD (R171): the target is checked first, then 0x025, then 0x024. -/
def execBrd (g : Guard) (tok : BitVec 8) (disp : BitVec 22) (s : State) : Out :=
  s.word .cores (fun w =>
    let t := w.f.em &&& w.g.guard g
    let n := w.f.em &&& ~~~t
    let target := w.target disp
    let (bad, s) := if t = 0 then (none, s) else s.checkTarget w target
    match bad with
    | some f => s.trapNow w f
    | none =>
      let pool := if (s.fragsOf s.cur.gid).length < 8 then s.poolSlot w.t.core else none
      if (w.g.match' w.f.rcd tok).isNone ∧ 16 ≤ w.g.recs.keys.length then s.trapNow w { code := 0x025 }
      else if t ≠ 0 ∧ n ≠ 0 ∧ pool = none ∧ 8 ≤ w.g.held.length then s.trapNow w { code := 0x024 }
      else s.brdEffect w t n tok target pool)

/-- JOIN's effect once every pending result of the fragment is written: every window of it is closed (R32, R172). -/
def State.joinAt (s : State) (n : Now) (tok : BitVec 8) : State :=
  match n.g.match' n.f.rcd tok with
  | none => s.next6 n
  | some r =>
    let c := s.cur
    let s := s.putFrag c { n.f with rcd := some r, jpc := n.f.pc, st := .join, ready := none }
    let s := s.leaveAll c.gid ((n.g.chain n.f.rcd).takeWhile (· ≠ r)) n.f.em
    let s := s.checkRec c.gid r (some c.fid)
    match s.frags.find c.fid with
    | some f => if f.st = .join ∧ f.rcd = some r ∧ f.jpc = n.f.pc then s.handOver c else s
    | none => s

/-- JOIN (R172): every window of its fragment closes; it issues once every result that the fragment has pending is written (R32). -/
def execJoin (tok : BitVec 8) (s : State) : Out :=
  s.word .cores (fun n =>
    let n := { n with f := n.f.closes (n.f.wins.map (·.1)) }
    if n.awaited ≠ [] then s.interlock n n.awaited
    else
      let s := (s.putFrag s.cur n.f).settle s.cur.gid
      match s.now with
      | none => s
      | some n => s.joinAt n tok)

-- Suspension, ending and traps (R178 to R181) ------------------------------------------------------------------------------

/-- Every token that a mask names is zero. -/
def Group.tokensZero (g : Group) (m : Wait) : Bool := (List.range 8).all (fun k => !bit m k || g.tget k = 0)

/-- YIELD (R178): pc := target, and the fragment leaves the active set until the tokens are zero; with all of them zero it is PENDING
and ready from the next ck, so that its next word issues at c + 2 at the earliest (R165). DEDUCED (log 54). -/
def execYieldW (wt : Wait) (disp : BitVec 22) (s : State) : Out :=
  s.word .cores (fun n =>
    let t := n.target disp
    match s.checkTarget n t with
    | (some f, s) => s.trapNow n f
    | (none, s) =>
      let f := { n.f with pc := t }
      if n.g.tokensZero wt then s.putFrag s.cur { f with st := .pending, active := none, ready := some (s.clock + 1) }
      else s.putFrag s.cur { f with st := .waitT, why := .tokens wt, active := none, ready := none })

/-- WAITT (R149, R178): the fragment stalls in place, at this word, until the tokens are zero. -/
def execWaitt (wt : Wait) (s : State) : Out :=
  s.word .cores (fun n =>
    if n.g.tokensZero wt then s.next6 n else s.putFrag s.cur { n.f with st := .stallT, why := .tokens wt, ready := none })

/-- STOP (R179, R174). -/
def execStop (s : State) : Out := s.word .cores (fun _ => s.endFrag s.cur)

/-- TRAP (R180). -/
def execTrap (n : Fin 8) (payload : BitVec 20) (s : State) : Out :=
  s.word .cores (fun w => s.trapNow w { code := codeOf 0 6 n.val, data := some (payload.setWidth 64) })

/-- NOP (R181). -/
def execNop (s : State) : Out := s.word .any (fun n => s.next6 n)

/-- EXT issued as an instruction (R40). -/
def execExt (_payload : BitVec 60) (s : State) : Out := s.word .any (fun n => s.trapNow n { code := 0x003 })

end Sys2Proof.Machine
end

