-- ==== Sys2Proof/Machine/Teams.lean ====
section
/-! DEFINITION. Teams on cores: what a resident team holds, and SRAM banks (R86, R156, R182 to R186). -/

namespace Sys2Proof.Machine

/-- The teams that hold resources of a core. -/
def State.coreTeams (s : State) (k : Nat) : List (Nat × Team) := s.teams.all.filter (fun e => e.2.core = k && e.2.onCore)

/-- RING banks that the declared capacities of a team's rings need (R264). -/
def ringBanks (caps : List Nat) : Nat := (caps.foldl (· + ·) 0 + 4095) / 4096
/-- RING banks of a team: those of its declarations, and those that BMODE added (R264, R279). -/
def Team.br (t : Team) : Nat :=
  ringBanks (t.rings.all.map (fun (e : Nat × Ring) => e.2.base)) + (t.rings.all.map (fun (e : Nat × Ring) => e.2.added)).foldl (· + ·) 0
/-- Banks of its core that a team holds: its own, and one that BMODE is switching. -/
def Team.bankCount (t : Team) : Nat := t.bs + t.br + (if t.switches.head?.any (·.begun.isSome) then 1 else 0)
/-- The team that holds a bank. -/
def BankMode.owner : BankMode → Option Nat
  | .way => none
  | .scratch t _ => some t
  | .ring t _ _ => some t
  | .switching t => some t
/-- Register blocks of a team (R376). -/
def Team.blocks (t : Team) : Nat := t.groups * t.nregs / 16

/-- The footprint F of a team (R156). -/
def footprint (g n bs br a : Nat) : Nat :=
  roundUp (0x1000 + g * (128 * n + 768) + 0x20000 * (bs + br) + 0x4000 * a + (if 0 < a then 0x4000 else 0)) pageBytes
/-- The footprint of a team as it stands. -/
def Team.foot (t : Team) : Nat := footprint t.groups t.nregs t.bs t.br t.ntiles

/-- The lowest of banks 8 to 23 in a mode. -/
def Core.bankIn (c : Core) (m : BankMode) : Option Nat := (List.range 24).find? (fun b => 8 ≤ b && c.bank b = m)
/-- A bank in one mode switched to another (R184). -/
def Core.switchBank (c : Core) (m m' : BankMode) : Core :=
  match c.bankIn m with
  | some b => { c with banks := Cells.set .way c.banks b m' }
  | none => c

/-- The code of a bank's mode in BANKMAP (R186). -/
def BankMode.code : BankMode → Nat
  | .way => 0
  | .scratch _ _ => 1
  | .ring _ _ _ => 2
  | .switching _ => 3

/-- BANKMAP of a core (R186). -/
def Core.bankMap (c : Core) : Nat :=
  let modes := (List.range 16).map (fun k => (c.bank (8 + k)).code)
  let nway := 8 + (modes.filter (fun m => m = 0)).length
  nway * 2 ^ 35 + ((List.range 16).map (fun k => modes.getD k 0 * 2 ^ (2 * k))).foldl (· + ·) 0

/-- The lowest n WAY banks leave L1: the dirty bytes of their ways are written back and their lines are dropped (R184). -/
def State.giveWays (s : State) (k n : Nat) : State :=
  let banks := ((List.range 24).filter (fun b => 8 ≤ b && (s.core k).bank b = .way)).take n
  ((s.core k).lines.all.filter (fun e => banks.contains e.2)).foldl (fun (s : State) e => s.evictLine k e.1) s

-- BMODE (R185, R279, R430) ------------------------------------------------------------------------------------------

/-- The place lies in scratch of a team. -/
def At.ofTeam (t : Nat) : At → Bool
  | .scr k _ => k = t
  | _ => false

/-- The team has copies or engine operations outstanding, or a lane copy of a cluster peer touches its scratch: what a switch waits for
(R185). -/
def State.bankBusy (s : State) (t : Nat) : Bool :=
  s.copies.all.any (fun e => match e.2.own with | .group gid _ => gid / 16 = t | _ => false)
    || s.laneCopies.all.any (fun e => e.2.gid / 16 = t || e.2.lanes.any (fun l => l.1.ofTeam t || l.2.ofTeam t))
    || (match s.teams.find t with
        | some x => (s.core x.core).engine.any (fun e => e.who.team = t)
        | none => false)

/-- The ring's counts are equal, so that its capacity may change (R279). -/
def Ring.idle (r : Ring) : Bool := r.tail = r.pub && r.pub = r.head

/-- The code with which BMODE is refused (R430, R279). -/
def Team.switchFault (t : Team) (tr : BankTr) (q : Nat) : Option Code :=
  match tr, t.rings.find q with
  | .way, _ => if t.bs = 0 then some 0x066 else none
  | .ring, r => if t.bs = 0 then some 0x066 else if r.any Ring.idle then none else some 0x0AB
  | .scratch, r => if r.any (fun r => r.added ≠ 0 && r.idle) then none else some 0x0AC

/-- The cells of a team's highest bank leave it. -/
def Team.dropBank (t : Team) : Team :=
  { t with bs := t.bs - 1, scratch := t.scratch.filter (fun e => e.1 < (t.bs - 1) * 0x20000) }

/-- A switch begins: from now on every access is checked against what is left (R185, R279). -/
def switchBegins (t : Team) (team : Nat) (c : Core) (tr : BankTr) (q : Nat) : Team × Core :=
  match tr with
  | .way | .ring => (t.dropBank, c.switchBank (.scratch team (t.bs - 1)) (.switching team))
  | .scratch =>
      let nth := ((t.rings.find q).map (·.added)).getD 0
      ({ t with rings := t.rings.upd q (fun r => { r with cap := r.cap - 4096, added := r.added - 1 }), ringOrder := t.ringOrder.erase q },
        c.switchBank (.ring team q nth) (.switching team))

/-- A switch ends: the zeroed bank takes its new mode (R184, R279). -/
def switchEnds (t : Team) (team : Nat) (c : Core) (tr : BankTr) (q : Nat) : Team × Core :=
  match tr with
  | .way => (t, c.switchBank (.switching team) .way)
  | .ring =>
      let nth := ((t.rings.find q).map (·.added)).getD 0 + 1
      ({ t with rings := t.rings.upd q (fun r => { r with cap := r.cap + 4096, added := nth }), ringOrder := q :: t.ringOrder },
        c.switchBank (.switching team) (.ring team q nth))
  | .scratch => ({ t with bs := t.bs + 1 }, c.switchBank (.switching team) (.scratch team t.bs))

/-- The team's switch in progress ends, and its fragment goes on. -/
def State.endSwitch (s : State) (t : Nat) (x : Team) (w : Switch) (rest : List Switch) : State :=
  let (x, c) := switchEnds { x with switches := rest } t (s.core x.core) w.tr w.q
  ((s.putTeam t x).putCore x.core c).wakes w.who

/-- The oldest BMODE of a team: refused, begun once nothing that it waits for is outstanding, or ended 512 ck after it began (R185, R430). DEDUCED (log 47). -/
def State.bankStep (s : State) (t : Nat) : State :=
  match s.teams.find t with
  | none => s
  | some x =>
    match x.switches with
    | [] => s
    | w :: rest =>
      match w.begun with
      | some ck => if ck + 512 ≤ s.clock then s.endSwitch t x w rest else s
      | none =>
        match x.switchFault w.tr w.q with
        | some c => (s.putTeam t { x with switches := rest }).raise w.who w.pc { code := c }
        | none =>
          if s.bankBusy t then s
          else
            let (x, c) := switchBegins x t (s.core x.core) w.tr w.q
            (s.putTeam t { x with switches := { w with begun := some s.clock } :: rest }).putCore x.core c

/-- Before a save, a team's switch in progress ends; a BMODE that has not begun issues again after the relaunch. DEDUCED (log 47). -/
def State.endSwitches (s : State) (t : Nat) : State :=
  match s.teams.find t with
  | none => s
  | some x =>
    let s := match x.switches with
      | w :: rest => if w.begun.isSome then s.endSwitch t x w rest else s
      | [] => s
    let l := (x.switches.filter (fun w => w.begun.isNone))
    (l.foldl (fun (s : State) w => s.updFrag w.who (fun f => { f with pc := w.pc, st := .pending, why := .none })) s).updTeam t
      (fun x => { x with switches := [] })

end Sys2Proof.Machine
end

