-- ==== Sys2Proof/Machine/Sys.lean ====
section
/-! DEFINITION. FORM 0xA SYS: special registers, ERET, TLBI, PGHARV, CSCOPE, BMODE, PARK and HALT (R64, R85, R86, R359,
R360, R427 to R433). -/

namespace Sys2Proof.Machine

-- Special registers (R85, R433) ---------------------------------------------------------------------------------

/-- A value in bits [hi:lo] of a word. -/
def field (x lo : Nat) : Nat := x * 2 ^ lo

/-- TEAMID of a team of a grid with extents X, Y (R85). -/
def teamId (dims : Nat × Nat × Nat) (lin : Nat) : Nat :=
  let x := max 1 dims.1
  let y := max 1 dims.2.1
  lin % x + field (lin / x % y) 21 + field (lin / (x * y)) 42

/-- CLUPOS (R85). -/
def Team.cluPos (t : Team) : Nat :=
  t.idx % max 1 t.clu.1 + field (t.idx / max 1 t.clu.1) 4 + field t.idx 8 + field t.clu.1 20 + field t.clu.2 24

/-- REGCFG (R86). FREEBLK counts from 192 blocks on a system core too. DESIGN CHOICE (log 116). -/
def State.regCfg (s : State) (t : Team) : Nat :=
  let used := ((s.coreTeams t.core).map (fun e => e.2.blocks)).foldl (· + ·) 0
  field (192 - used) 24 + field t.groups 16 + t.nregs

/-- ENGSTAT (R330). -/
def State.engStat (s : State) (t : Team) : Nat :=
  let c := s.core t.core
  field c.nck.toNat 32 + (if c.narrow then 128 else 0) + (if c.engine.isEmpty then 0 else 64)
    + (if t.dsat then 4 else 0) + (if t.fnan then 2 else 0) + (if t.iovf then 1 else 0)

/-- BATON (R331), for the group gid. -/
def State.batonReg (s : State) (t : Team) (gid : Nat) : Nat :=
  let c := s.core t.core
  let pos := (c.batonQ.takeWhile (· ≠ gid)).length
  let hteam := (c.holder.map (· / 16)) = some (gid / 16)
  field c.batonQ.length 24 + field (if hteam then c.holder.getD 0 % 16 else 0) 20 + (if hteam then 2 ^ 19 else 0)
    + (if c.holder = some gid then 2 ^ 18 else 0) + (if c.batonQ.contains gid then 2 ^ 17 else 0)
    + (if c.holder.isNone then 2 ^ 16 else 0) + (if c.batonQ.contains gid then pos else 0)

/-- PARKS (R160). -/
def Team.parks (t : Team) : Nat :=
  field t.thresh 32 + field (min t.npark 0xFFFF) 16 + field (min t.nfail 0xFF) 8 + (if 1 < t.clu.1 * t.clu.2 then 2 else 0)
    + (if t.gsync then 1 else 0)

/-- TOKSTAT (R284). -/
def Group.tokStat (g : Group) : Nat := ((List.range 8).map (fun k => field (g.tget k) (8 * k))).foldl (· + ·) 0

/-- TRAPCAUSE of a system group (R433). -/
def TrapRegs.cause (t : TrapRegs) : Nat := (if t.v then 2 ^ 63 else 0) + t.code.toNat

/-- The registers below 0x100 as compute and system modes read them (R85). DEDUCED (log 39). -/
def State.lowReg (s : State) (n : Now) (num : Nat) : Nat :=
  let sys := n.t.kind = .system
  let z (x : Nat) : Nat := if sys then x else 0
  match num with
  | 0x001 => s.cur.grp
  | 0x002 => teamId n.t.dims n.t.lin
  | 0x003 => n.t.lin % 2 ^ 31
  | 0x004 => n.t.cluPos
  | 0x005 => n.t.dims.1 + field n.t.dims.2.1 21 + field n.t.dims.2.2 42
  | 0x006 => n.t.core % 2048
  | 0x007 => n.t.ctx % 2 ^ 16
  | 0x008 => n.t.pasid % 2 ^ 20
  | 0x009 => s.clock
  | 0x00A => s.regCfg n.t
  | 0x010 => n.g.fpflags.toNat
  | 0x011 => n.g.tokStat
  | 0x012 => s.engStat n.t
  | 0x013 => s.batonReg n.t s.cur.gid
  | 0x014 => n.t.parks
  | 0x020 => z n.g.trap.cause
  | 0x021 => z n.g.trap.pc.toNat
  | 0x022 => z n.g.trap.va.toNat
  | 0x023 => z n.g.trap.data.toNat
  | _ => 0

/-- The system registers (R433). -/
def State.sysReg (s : State) (n : Now) (num : Nat) : Nat :=
  let h := s.hub (hubOfCore n.t.core)
  match num with
  | 0x100 => n.g.vbase.toNat
  | 0x101 => n.g.trap.em.toNat
  | 0x102 => n.t.core - 2048
  | 0x107 => h.banksel
  | 0x108 => if h.banksel < 1536 then (s.core h.banksel).bankMap else 0
  | 0x110 => h.fedir.toNat
  | 0x111 => s.stageq.toNat
  | 0x118 => h.flogbase.toNat
  | 0x119 => h.flogcfg
  | 0x11A => h.flogpctr.toNat
  | 0x11B => h.flogcctr.toNat
  | 0x120 => h.serrcnt.toNat
  | _ => 0

/-- The value that SRD returns (R85, R428). DEDUCED (log 18). -/
def State.specialReg (s : State) (n : Now) (num : Nat) : Word :=
  BitVec.ofNat 64 (
    match n.t.kind with
    | .prologue => if num = 0x007 ∨ num = 0x008 ∨ num = 0x009 ∨ num = 0x010 then s.lowReg n num else 0
    | _ => if num < 0x100 then s.lowReg n num else s.sysReg n num)

/-- A register of 0x100 to 0x3FF met outside system mode (R428). DEDUCED (log 17). -/
def barredReg (n : Now) (num : Nat) : Bool := n.t.kind ≠ .system && 0x100 ≤ num && num ≤ 0x3FF

/-- The floating-point results of the fragment that are still pending (R64). -/
def Now.floats (n : Now) : List Nat :=
  (n.f.wins.map (·.1)).filter (fun k => (n.g.pends.find k).any (·.fp))

/-- The fragment's windows on its floating-point results close, and those that are written set their flags (R64). -/
def State.closeFloats (s : State) (c : Cur) : State :=
  match s.at' c with
  | none => s
  | some n => (s.putFrag c (n.f.closes n.floats)).settle c.gid

/-- SRD (R428). SRD of FPFLAGS interlocks on the fragment's pending floating-point results, and reads the flags of all of them (R64). A
prologue reads LANEID as zero, into a scalar where D names one (R85; DEDUCED, log 18). -/
def execSrd (la : La) (num : BitVec 12) (d : Fin 128) (s : State) : Out :=
  s.word .any (fun n =>
    if barredReg n num.toNat then s.trapNow n { code := 0x02E }
    else if num = 0x010 then
      let s := s.closeFloats s.cur
      let wait := n.floats.filter (fun k => !n.g.resultIn k)
      if wait ≠ [] then s.interlock { n with f := n.f.closes n.floats } wait else
      match s.now with
      | none => s
      | some n => s.writeLater n 2 la [.s d.val] [.s d.val (s.specialReg n num.toNat)]
    else if num = 0 ∧ n.t.kind = .prologue ∧ 64 ≤ d.val then s.done n
    else if num = 0 ∧ n.t.kind ≠ .prologue then
      s.writeLater n 2 la [.v d.val] (laneVals n.f.em (fun i => [.v d.val i (BitVec.ofNat 32 i)]))
    else s.writeLater n 2 la [.s d.val] [.s d.val (s.specialReg n num.toNat)])

/-- The trap registers and registers of its own that a system group writes. -/
def Group.writeReg (g : Group) (num : Nat) (x : Word) : Group :=
  match num with
  | 0x020 => { g with trap := { g.trap with code := x.setWidth 9 } }
  | 0x021 => { g with trap := { g.trap with pc := x } }
  | 0x022 => { g with trap := { g.trap with va := x } }
  | 0x023 => { g with trap := { g.trap with data := x } }
  | 0x100 => { g with vbase := BitVec.ofNat 64 (x.toNat / 0x1000 * 0x1000) }
  | 0x101 => { g with trap := { g.trap with em := x.setWidth 32 } }
  | _ => g

/-- The hub registers that software writes; FLOGCFG is clamped to 6 to 16 (R433). -/
def Hub.writeReg (h : Hub) (num : Nat) (x : Word) : Hub :=
  match num with
  | 0x107 => { h with banksel := x.toNat % 2048 }
  | 0x110 => { h with fedir := x }
  | 0x118 => { h with flogbase := BitVec.ofNat 64 (x.toNat / 0x1000 * 0x1000) }
  | 0x119 => { h with flogcfg := max 6 (min 16 (x.toNat % 32)) }
  | 0x11A => { h with flogpctr := x }
  | 0x11B => { h with flogcctr := x }
  | _ => h

/-- The numbers that SWR may write in system mode, beside FPFLAGS and STAGEQ (R433). -/
def sysWritable (num : Nat) : Bool :=
  (0x020 ≤ num && num ≤ 0x023) || num = 0x100 || num = 0x101 || num = 0x107 || num = 0x110 || (0x118 ≤ num && num ≤ 0x11B)

/-- SWR of every register but FPFLAGS and STAGEQ (R428). -/
def execSwr (num : BitVec 12) (a : SReg) (s : State) : Out :=
  s.word .any (fun n =>
    let x := n.g.sget a.val
    if barredReg n num.toNat then s.trapNow n { code := 0x02E }
    else if n.t.kind = .system ∧ sysWritable num.toNat then
      let h := hubOfCore n.t.core
      (s.putHub h ((s.hub h).writeReg num.toNat x)).done { n with g := n.g.writeReg num.toNat x }
    else s.trapNow n { code := 0x02D })

/-- SWR FPFLAGS (R64). -/
def execFpflagsWrite (a : SReg) (s : State) : Out :=
  s.word .any (fun n => s.done { n with g := { n.g with fpflags := (n.g.sget a.val).setWidth 5 } })

/-- A STAGEQ value with every field clamped to 64 (R385). -/
def clampStageq (x : Word) : Word :=
  BitVec.ofNat 64 (((List.range 8).map (fun k => field (min 64 (x.toNat / 2 ^ (8 * k) % 256)) (8 * k))).foldl (· + ·) 0)

/-- SWR STAGEQ (R385). -/
def execStageqWrite (a : SReg) (s : State) : Out :=
  s.word .any (fun n =>
    if n.t.kind = .system then { s with stageq := clampStageq (n.g.sget a.val) }.done n
    else s.trapNow n { code := 0x02E })

-- ERET (R425) -------------------------------------------------------------------------------------------------------

/-- ERET (R425): TRAPPC is checked without clearing V, so that a bad one is a second trap of the group. DEDUCED (log 91). -/
def execEret (s : State) : Out :=
  s.word .system (fun n =>
    if !n.g.trap.v then s.trapNow n { code := 0x02F }
    else match s.checkTarget n n.g.trap.pc with
      | (some f, s) => s.trapNow n f
      | (none, s) =>
        let m := n.eret
        s.jump m m.f.pc)

-- TLBI (R360) -----------------------------------------------------------------------------------------------------------

/-- A translation kept by a TLBI: `hit` names the pages of a PASID, `g` drops shared ones too. -/
def tlbiKeeps (kind : TlbiKind) (g : Bool) (pasid page cnt : Nat) (e : TlbEnt) : Bool :=
  let overlap := e.vpn < page + cnt && page < e.vpn + e.size
  match kind with
  | .all => false
  | .pasid => !(e.table.isNone && e.pasid = pasid)
  | _ => !(overlap && (if e.table.isNone then e.pasid = pasid else g))

/-- Translations dropped from every cache of the device (R360). -/
def State.tlbDrop (s : State) (keep : TlbEnt → Bool) : State :=
  { s with
    cores := s.cores.map (fun e => (e.1, e.2.map (fun c => { c with tlb := c.tlb.filter keep })))
    fieldTlb := s.fieldTlb.map (fun e => (e.1, e.2.map (fun l => l.filter keep)))
    tte := s.tte.map (fun e => (e.1, e.2.map (fun l => l.filter keep)))
    ta := s.ta.map (fun e => (e.1, e.2.map (fun l => l.filter keep))) }

/-- Every translation of a range of pages of a PASID dropped, shared ones included. -/
def State.tlbDropRange (s : State) (pasid va cnt : Nat) : State :=
  s.tlbDrop (tlbiKeeps .range true pasid (va / pageBytes) cnt)

/-- A TLBI has dropped its translations; its fragment goes on when the accesses under way that may have used them are performed (R360).
DEDUCED (log 122). -/
def State.afterAccesses (s : State) (n : Now) : State :=
  let ops := (s.ops.all.filter (fun e => match e.2.ctr with | .mem _ => true | _ => false)).map (fun (e : Nat × CtrOp) => e.1)
  if s.laneCopies = [] ∧ ops = [] then s.done n else s.waits n .waitL (.accesses s.laneCopies.keys ops)

/-- TLBI (R360). -/
def execTlbi (kind : TlbiKind) (g : Bool) (a : SReg) (s : State) : Out :=
  s.word .system (fun n =>
    let pasid := (n.g.sget a.val).toNat % 2 ^ 20
    let va := (n.g.sget (a.val + 1)).toNat
    let cnt := if kind = .range then (n.g.sget (a.val + 2)).toNat else 1
    let ranged := kind = .va ∨ kind = .range
    if 63 < a.val + (match kind with | .range => 2 | .va => 1 | _ => 0) then s.trapNow n { code := 0x00B }
    else if ranged ∧ (va % pageBytes ≠ 0 ∨ cnt < 1 ∨ 2 ^ 24 < cnt) then s.trapNow n { code := 0x004 }
    else if s.torn ≠ [] then s.putFrag s.cur (n.f.again s.clock)
    else (s.tlbDrop (tlbiKeeps kind g pasid (va / pageBytes) cnt)).afterAccesses n)

-- PGHARV (R359) -------------------------------------------------------------------------------------------------------------

/-- The 64 KiB frame of a page that PGHARV reports on: present, NORMAL or IOPIN. -/
def State.harvestFrame (s : State) (hub pasid va : Nat) : Option Nat :=
  if 2 ^ 56 ≤ va then none else
  match s.walk hub pasid va with
  | .fault _ => none
  | .leaf e _ size table =>
    if pteP e ∧ (pteType e = 0 ∨ pteType e = 3) then some ((entryOf pasid va e size table).pa va / pageBytes) else none

/-- One page harvested: its bit, and with .clr the grants revoked and the bit cleared (R358, R359). -/
def State.harvestPage (s : State) (hub pasid va : Nat) (clr : Bool) : Bool × State :=
  match s.harvestFrame hub pasid va with
  | none => (false, s)
  | some f =>
    if clr then
      let s := s.flushRange (f * pageBytes) pageBytes
      (Cells.get false s.grants f, { s with grants := Cells.set false s.grants f false })
    else (Cells.get false s.grants f, s)

/-- The pages of one byte of the bitmap harvested: the byte, the count, and the state. -/
def State.harvestByte (s : State) (hub pasid va : Nat) (clr : Bool) (j : Nat) : Nat → (Nat × Nat) × State
  | 0 => ((0, 0), s)
  | k + 1 =>
      let (b, s) := s.harvestPage hub pasid (va + j * pageBytes) clr
      let ((x, c), s) := State.harvestByte s hub pasid va clr (j + 1) k
      ((2 * x + (if b then 1 else 0), c + (if b then 1 else 0)), s)

/-- n pages harvested into the bitmap at a buffer, bytes in ascending order, through a party's own translation: the
count, or the fault that a byte of the buffer meets (R359). DEDUCED (log 66). -/
def State.harvest (s : State) (p : Party) (hub pasid va buf : Nat) (clr : Bool) (n j count : Nat) : Nat → Except Bad Nat × State
  | 0 => (.ok count, s)
  | fuel + 1 =>
      if n ≤ 8 * j then (.ok count, s)
      else match s.checkAccess p .store (buf + j) 1 with
        | (.error b, s) => (.error b, s)
        | (.ok l, s) =>
          let ((x, c), s) := s.harvestByte hub pasid va clr (8 * j) (min 8 (n - 8 * j))
          let s := s.writePieces p l [BitVec.ofNat 8 x]
          State.harvest s p hub pasid va buf clr n (j + 1) (count + c) fuel

/-- A page of the range lies under a migration, by its address or by its frame (R357). -/
def State.migrating (s : State) (pasid va n : Nat) : Bool :=
  s.migrations.any (fun m => (m.pasid = pasid && m.va < va + n * pageBytes && va < m.va + m.units * pageBytes)
    || (List.range n).any (fun i => (s.harvestFrame (s.hubFor pasid) pasid (va + i * pageBytes)).any (fun f => m.covers (f * pageBytes))))

/-- PGHARV (R359); over a page that migrates it waits (R357). DEDUCED (log 38). -/
def execPgharv (clr : Bool) (d a : SReg) (s : State) : Out :=
  s.word .system (fun n =>
    if 63 < a.val + 3 then s.trapNow n { code := 0x00B }
    else
      let pasid := (n.g.sget a.val).toNat % 2 ^ 20
      let va := (n.g.sget (a.val + 1)).toNat
      let cnt := (n.g.sget (a.val + 2)).toNat
      let buf := (n.g.sget (a.val + 3)).toNat
      if va % pageBytes ≠ 0 ∨ 2 ^ 56 ≤ va ∨ cnt < 1 ∨ 2 ^ 24 < cnt ∨ buf % 8 ≠ 0 then s.trapNow n { code := 0x004 }
      else if s.migrating pasid va cnt then s.putFrag s.cur (n.f.again s.clock)
      else match s.harvest (n.party s.cur.team) (hubOfCore n.t.core) pasid va buf clr cnt 0 0 (cnt / 8 + 1) with
        | (.error b, s) => s.trapNow n (badFail b)
        | (.ok c, s) => s.done { n with g := n.g.sset d.val (BitVec.ofNat 64 c) })

-- CSCOPE (R429) -----------------------------------------------------------------------------------------------------------------

/-- n words of memory read by a party at 8-byte steps. -/
def State.readWords (s : State) (p : Party) (va : Nat) : Nat → Except Bad (List Byte) × State
  | 0 => (.ok [], s)
  | n + 1 =>
      match s.checkAccess p .load va 8 with
      | (.error b, s) => (.error b, s)
      | (.ok l, s) =>
        match s.readPieces p l with
        | ((_, true), s) => (.error (0x078, va), s)
        | ((x, false), s) =>
          match State.readWords s p (va + 8) n with
          | (.error b, s) => (.error b, s)
          | (.ok r, s) => (.ok (x ++ r), s)

/-- A scope entry set for the contexts of a PASID and in the scope tables that its attached queues name (R429). -/
def State.setScope (s : State) (pasid e : Nat) (l : List Byte) : State :=
  let s : State := { s with ctxs := s.ctxs.map (fun c => (c.1, c.2.map (fun c =>
    if c.pasid = pasid then { c with scopes := c.scopes.put e (BitVec.ofNat 1536 (leNat l)) } else c))) }
  let qs := (s.queues.all.map (·.2)).filter (fun q : Queue => q.pasid = pasid && !q.detached)
  qs.foldl (fun (s : State) (q : Queue) =>
    (List.range 24).foldl (fun (s : State) i =>
      let p : Party := { place := .hub q.hub, pasid := pasid }
      match s.checkAccess p .store (q.scope.toNat + 192 * (e - 8) + 8 * i) 8 with
      | (.ok r, s) => s.writePieces p r ((l.drop (8 * i)).take 8)
      | (.error _, s) => s) s) s

/-- CSCOPE (R429). -/
def execCscope (a : SReg) (e : Fin 32) (s : State) : Out :=
  s.word .system (fun n =>
    if e.val < 8 then s.trapNow n { code := 0x004 }
    else if 63 < a.val + 1 then s.trapNow n { code := 0x00B }
    else match s.readWords (n.party s.cur.team) (n.g.sget (a.val + 1)).toNat 24 with
      | (.error b, s) => s.trapNow n (badFail b)
      | (.ok l, s) => (s.setScope ((n.g.sget a.val).toNat % 2 ^ 20) e.val l).done n)

-- BMODE (R430, R279, R184) ----------------------------------------------------------------------------------------------------------

/-- BMODE (R430): the fragment waits in WAIT-L until its switch has ended. DEDUCED (log 47). -/
def execBmode (tr : BankTr) (q : RingN) (s : State) : Out :=
  s.word .cores (fun n =>
    if n.t.kind = .system then s.trapNow n { code := 0x067 }
    else match (if n.t.switches = [] then n.t.switchFault tr q.val else none) with
      | some c => s.trapNow n { code := c }
      | none =>
        let w : Switch := { who := s.cur, pc := n.f.pc, tr := tr, q := q.val }
        let s := s.waits n .waitL .answer
        (s.updTeam s.cur.team (fun t => { t with switches := t.switches ++ [w] })).bankStep s.cur.team)

-- PARK and HALT (R431, R432) -----------------------------------------------------------------------------------------------------------------

/-- PARK (R431): a CWAIT for which the park threshold counts as elapsed. -/
def execPark (a b : SReg) (acq : Option Scope) (s : State) : Out :=
  s.word .cores (fun n =>
    if n.t.kind = .system then s.ctrWait n a b acq
    else if s.holdsBaton s.cur.team ∨ s.waitsBaton s.cur.team then s.trapNow n { code := 0x0DC }
    else s.ctrWait n a b acq .park)

/-- HALT (R432): the fragment leaves the active set until its deadline; a deadline that has passed makes it a NOP. -/
def execHalt (a : SReg) (s : State) : Out :=
  s.word .system (fun n =>
    let dl := (n.g.sget a.val).toNat
    if dl ≤ s.clock then s.done n
    else
      let s := s.waits n .waitL (.deadline dl s.clock)
      s.updFrag s.cur (fun q => if q.why = .deadline dl s.clock then { q with active := none } else q))

end Sys2Proof.Machine
end

