-- ==== Sys2Proof/Machine/Queue.lean ====
section
/-! DEFINITION. The front end's queues and packets (R363 to R371): taking packets, and the packets that the FE performs
itself. -/

namespace Sys2Proof.Machine

-- Areas of the device-structure range (R340) ----------------------------------------------------------------------

/-- The first gap of n bytes, at a multiple of 64 KiB, from lo up to hi among areas in ascending order. DESIGN CHOICE (log 42). -/
def firstFit (hi n lo : Nat) : List (Nat × Nat) → Option Nat
  | [] => if lo + n ≤ hi then some lo else none
  | (b, len) :: l => if lo + n ≤ b then some lo else firstFit hi n (max lo (roundUp (b + len) pageBytes)) l

/-- The start and size of the device-structure range (R340). -/
def deviceBase : Nat := 0xBC00000000
def deviceBytes : Nat := 0x400000000

/-- An area put into a list in ascending order of bases. -/
def insertArea (l : List (Nat × Nat)) (a : Nat × Nat) : List (Nat × Nat) :=
  l.takeWhile (fun b => b.1 < a.1) ++ a :: l.dropWhile (fun b => b.1 < a.1)

/-- Areas that the system image holds in the range: the PASID directories with the queue tables and level-1 page tables that they
name, the fault logs and the page request queues (R340, R341, R363). -/
def State.imageAreas (s : State) : List (Nat × Nat) :=
  (s.hubs.all.flatMap (fun (e : Nat × Hub) =>
    [(e.2.fedir.toNat, 0x800000), (e.2.flogbase.toNat, 64 * 2 ^ e.2.flogcfg), (e.2.flogpctr.toNat, 8), (e.2.flogcctr.toNat, 8),
      (e.2.prqBase.toNat, 0x20000), (e.2.prqCtr.toNat, 16)]
    ++ (s.pasidsOf e.1).flatMap (fun k =>
      let d := s.dirEntry e.1 k
      [(bits d 63 39 * 2 ^ 20, 256 * 2 ^ bits d 9 6), (dirRoot d, 0x10000)]))).filter (fun a => deviceRange a.1)

/-- An area of n bytes set aside: its base (R365, R376). DESIGN CHOICE (log 42). -/
def State.setAside (s : State) (n : Nat) : Option (Nat × State) :=
  if n = 0 then some (0, s)
  else
    let used := s.devAlloc.foldl insertArea (s.imageAreas.foldl insertArea [])
    match firstFit (deviceBase + deviceBytes) n deviceBase used with
    | some b => some (b, { s with devAlloc := Cells.set 0 s.devAlloc b n })
    | none => none

-- Reads by the FE -----------------------------------------------------------------------------------------------------

/-- Words of memory from bytes. -/
def wordsOf : Nat → List Byte → List Word
  | 0, _ => []
  | n + 1, l => BitVec.ofNat 64 (leNat (l.take 8)) :: wordsOf n (l.drop 8)

/-- n words read by the FE of a hub under a PASID; uncorrectable data has a code of its own (R411). -/
def State.feRead (s : State) (hub pasid va n : Nat) : Except Code (List Word) × State :=
  match s.readWords { place := .hub hub, pasid := pasid } va n with
  | (.error b, s) => (.error (if b.1 = 0x078 ∨ b.1 = 0x07F then 0x07D else b.1), s)
  | (.ok l, s) => (.ok (wordsOf n l), s)

/-- The scope at which a hub party's operation acts: narrower ones act as DEV (R245). -/
def hubScope (sc : Nat) : Nat := if sc = 6 then 6 else 5

/-- A field of a word. -/
def fieldOf (w : Word) (hi lo : Nat) : Nat := bits w hi lo

-- Directory entries and QCBs (R363, R364) ---------------------------------------------------------------------------------

/-- A PASID directory entry that stops the taking of packets (R363). -/
def dirBad (d : Word) : Bool := !bit d 0 || !bit d 1 || bits d 5 3 ≠ 0 || 12 < bits d 9 6

/-- Word 0 of a QCB that R366 refuses. -/
def qcbBad (w : Word) : Bool :=
  !bit w 0 || !bit w 1 || bits w 15 8 ≠ 1 || bits w 7 4 ≠ 0 || bits w 31 20 ≠ 0 || bits w 63 48 ≠ 0

/-- An add made by a queue's FE to a counter operand that has been checked: performed at once, or sent to a peer. -/
def State.feAdd (s : State) (q : Queue) (c : Ctr) (x : Word) (v : Nat) (scope : Option Nat) : State :=
  let o : CtrOp := { ctr := c, act := .add (BitVec.ofNat 64 v), who := .nobody, scope := scope, pasid := q.pasid, va := x }
  match c with
  | .peer _ => s.emit o
  | _ => s.perform o

/-- The device runs (R474). -/
def State.running (s : State) : Bool := s.power = .running

/-- Cores have power: the device runs, or retention entry is in progress (R474). -/
def State.awake (s : State) : Bool :=
  match s.power with
  | .running => true
  | .entering _ => true
  | .retention => false
  | .resuming _ => false
  | .off => false
/-- The FE takes and starts a queue's work: the device runs, and the queue's context has not ended (R414). -/
def State.serves (s : State) (q : Queue) : Bool := s.running && !((s.ctxs.find q.ctx).any (·.killed))

-- Taking packets (R363, R366 to R369) -------------------------------------------------------------------------------------------

/-- A QCB found malformed at a reread: HALT is set, and the fault is reported (R366). -/
def State.qcbFault (s : State) (k : Nat) (q : Queue) (w : Word) : State :=
  let s := s.homeWrite q.qcb (leBytes 8 (w ||| 8).toNat)
  let s := s.updQueue k (fun q => { q with halted := true, malformed := true })
  (s.queueCause k 0x0B6 0 q.next).queueFault k

/-- The reserved fields and ranges of a packet (R368, R369). -/
def packetBad (w : List Word) : Bool :=
  let h := w.headD 0
  let f (i : Nat) : Word := w.getD i 0
  let zero (l : List Nat) : Bool := l.all (fun i => f i = 0)
  let small (i : Nat) : Bool := (f i).toNat < 2 ^ 32
  bits h 63 23 ≠ 0 || bits h 21 17 = 7 || bits h 15 8 ≠ 1 || !zero [6, 7] ||
  match bits h 7 0 with
  | 1 => !((f 1).toNat % 128 = 0 && !bit (f 2) 63 && small 5)
  | 2 => !((f 3).toNat ≤ 2 ^ 40 && small 5)
  | 3 => !(small 2 && zero [3, 4, 5])
  | 4 => !zero [3, 4, 5]
  | 5 => !((f 1).toNat % 8 = 0 && zero [3, 4, 5])
  | 6 => !((f 1).toNat % 8 = 0 && small 4 && zero [5])
  | 7 => !(small 4 && zero [5])
  | 8 => !zero [2, 3, 4, 5]
  | _ => true

/-- The packet of 64 bytes. -/
def packetOf (idx : Nat) (w : List Word) : Packet :=
  let h := w.headD 0
  { idx := idx, type := bits h 7 0, ord := bit h 22, sc := bits h 21 17, bar := bit h 16, f := (w.drop 1).take 5 }

/-- Field i of a packet, counted from offset 8. -/
def Packet.fld (p : Packet) (i : Nat) : Word := p.f.getD i 0
/-- The scope of a packet's release or acquire. -/
def Packet.scope (p : Packet) : Option Nat := if p.ord then some (hubScope p.sc) else none

/-- The slot of packet n (R367). -/
def Queue.slot (q : Queue) (n : Nat) : Word := q.base + BitVec.ofNat 64 (64 * (n % 2 ^ q.lsz))

-- Descriptors (R375) ---------------------------------------------------------------------------------------------------------------------------

/-- A descriptor's fields, or its code (R375, R263). -/
def descOf (w : List Word) : Except Code Desc :=
  let f (i : Nat) : Word := w.getD i 0
  let h := f 0
  let regs := bits h 15 8
  let scr := bits (f 2) 21 0
  let plen := bits (f 2) 40 32
  let ring (k : Nat) : Word := f (8 + k)
  let rings := ((List.range 8).filter (fun k => ring k ≠ 0)).map (fun k => (k, bits (ring k) 12 0, bits (ring k) 36 16))
  if bits h 7 0 ≠ 1 ∨ regs < 32 ∨ 128 < regs ∨ regs % 16 ≠ 0 ∨ bits h 23 20 ≠ 0 ∨ 11 < bits h 27 24 ∨ bit h 31 ∨ 16 < bits h 36 32
      ∨ bit h 39 ∨ 1000 < bits h 49 40 ∨ 16 < bits h 54 50 ∨ bits h 63 55 ≠ 0 then .error 0x0B4
  else if (f 1).toNat % 8 ≠ 0 ∨ 0x200000 < scr ∨ bits (f 2) 31 22 ≠ 0 ∨ 256 < plen ∨ bits (f 2) 63 41 ≠ 0 then .error 0x0B4
  else if (f 3).toNat % 32 ≠ 0 ∨ (f 4).toNat % 8 ≠ 0 ∨ (plen = 0 ∧ f 4 ≠ 0) ∨ f 5 ≠ 0 ∨ f 6 ≠ 0 ∨ f 7 ≠ 0 then .error 0x0B4
  else if (List.range 8).any (fun k => bits (ring k) 15 13 ≠ 0 || bits (ring k) 63 37 ≠ 0) then .error 0x0B4
  else if rings.any (fun r => r.2.1 < 8 || 4096 < r.2.1 || r.2.1 % 8 ≠ 0 || r.2.2 < 1 || 1048576 < r.2.2) then .error 0x0A5
  else .ok
    { regs := regs, groups := bits h 19 16 + 1, cols := bits h 27 24 + 1, rows := bits h 30 28 + 1, acct := bits h 36 32
      gsync := bit h 37, paged := bit h 38, park := bits h 49 40, nws := bits h 54 50, entry := f 1, scr := scr, plen := plen
      wset := f 3, prol := f 4, rings := rings }

/-- The descriptor at an address, read once and whole (R375). -/
def State.readDesc (s : State) (q : Queue) (va : Word) : Except Code Desc × State :=
  match s.feRead q.hub q.pasid va.toNat 16 with
  | (.error c, s) => (.error c, s)
  | (.ok w, s) => (descOf w, s)

-- Taking, continued ----------------------------------------------------------------------------------------------------------

/-- Packet NEXT read, checked and taken, with its kernel descriptor (R367, R368, R375). -/
def State.takePacket (s : State) (k : Nat) (q : Queue) : State :=
  match s.feRead q.hub q.pasid (q.slot q.next).toNat 8 with
  | (.error c, s) => s.retireFault k c 0
  | (.ok w, s) =>
    if packetBad w then s.retireFault k 0x0B5 0
    else
      let p := packetOf q.next w
      let take (s : State) (p : Packet) : State := (s.updQueue k (fun q => { q with pkt := some p, step := .taken })).qcbSync k
      if p.type ≠ 1 then take s p
      else match s.readDesc q (p.fld 0) with
        | (.error c, s) => s.retireFault k c 0
        | (.ok d, s) => take s { p with desc := some d }

/-- The FE's waiter on TAIL placed (R365): for packet NEXT (R367), or for the next advance while taking has stopped (R363). -/
def State.tailAsk (s : State) (k : Nat) (q : Queue) : State :=
  match s.hubOperand q.hub q.pasid .wait q.tail with
  | (.error _, s) => s
  | (.ok c, s) =>
      let t := if q.halted ∨ q.stopped then s.ctrGet c + 1 else BitVec.ofNat 64 (q.next + 1)
      (s.emit { ctr := c, act := .wait t, who := .tail k, scope := some 6, pasid := q.pasid
                va := q.tail }).updQueue k (fun q => { q with tailWait := true })

/-- A queue whose state of taking changes: its waiter on TAIL is withdrawn and placed afresh (R363). -/
def State.tailAgain (s : State) (k : Nat) (h : Queue → Queue) : State :=
  let s := (s.withdraw (fun o => o.who = .tail k)).updQueue k (fun q => { h q with reached := false, tailWait := false })
  match s.queues.find k with
  | none => s
  | some q => s.tailAsk k q

/-- PACKET_TAKE (R367): the FE waits on TAIL; once it has reached NEXT + 1, the directory entry and word 0 of the QCB
are reread (R363, R365) and the packet is taken. -/
def execPacketTake (queue : Nat) (s : State) : Out :=
  .next (match s.queues.find queue with
    | none => s
    | some q =>
      if q.step ≠ .idle ∨ q.detach ∨ q.suspended ∨ q.halted ∨ q.stopped ∨ !s.serves q then s
      else if !q.reached then (if q.tailWait then s else s.tailAsk queue q)
      else
        let w := s.memWord q.qcb
        if dirBad (s.dirEntry q.hub q.pasid) then s.tailAgain queue (fun q => { q with stopped := true, since := s.clock })
        else if qcbBad w then (s.qcbFault queue q w).tailAgain queue id
        else if bit w 3 then s.tailAgain queue (fun q => { q with halted := true, since := s.clock })
        else (s.updQueue queue (fun q => { q with prio := bits w 18 16 })).takePacket queue q)

/-- QCB_REREAD (R363): taking resumes when the entry is valid and present and HALT is clear; a malformed word 0 is reported (R366). -/
def execQcbReread (queue : Nat) (s : State) : Out :=
  .next (match s.queues.find queue with
    | none => s
    | some q =>
      if !q.halted ∧ !q.stopped then s
      else
        let w := s.memWord q.qcb
        let d := dirBad (s.dirEntry q.hub q.pasid)
        let s := if qcbBad w ∧ !q.malformed then s.qcbFault queue q w else s
        s.tailAgain queue (fun q => { q with stopped := d, halted := qcbBad w || bit w 3, malformed := qcbBad w, since := s.clock }))

-- The packet in progress -----------------------------------------------------------------------------------------------------------

/-- A queue with the packet of a type that it may start: taken, and not held by BAR, a suspension or retention. -/
def State.started (s : State) (k type : Nat) : Option (Queue × Packet) :=
  match s.queues.find k with
  | none => none
  | some q =>
    match q.pkt with
    | none => none
    | some p =>
      if (q.step = .taken ∨ q.step = .waitAgain) ∧ p.type = type ∧ (!p.bar ∨ q.live = []) ∧ !q.suspended ∧ s.serves q then some (q, p) else none

/-- Another producer than a launch ended before what follows in the queue (R394). -/
def State.depDev (s : State) (k : Nat) : State := s.updQueue k (fun q => { q with deps := none })

/-- CADD packet (R370). -/
def execCaddPacket (queue : Nat) (s : State) : Out :=
  .next (match s.started queue 3 with
    | none => s
    | some (q, p) =>
      match s.hubOperand q.hub q.pasid (.add false) (p.fld 0) with
      | (.error c, s) => s.retireFault queue c 0
      | (.ok c, s) =>
        if p.ord ∧ !s.settled then s
        else ((s.feAdd q c (p.fld 0) (p.fld 1).toNat p.scope).depDev queue).retire queue false)

/-- The code of a wait that a packet or node may not make (R411). -/
def packetWaitCode (c : Code) : Code :=
  if c = 0x090 then 0x091 else if c = 0x088 then 0x08A else if c = 0x098 then 0x099 else c

/-- CWAIT packet (R370): it holds a waiter until the home answers. -/
def execCwaitPacket (queue : Nat) (s : State) : Out :=
  .next (match s.started queue 4 with
    | none => s
    | some (q, p) =>
      match s.hubOperand q.hub q.pasid .wait (p.fld 0) with
      | (.error c, s) => s.retireFault queue (packetWaitCode c) 0
      | (.ok c, s) =>
        ((s.emit { ctr := c, act := .wait (p.fld 1), who := .packet queue, scope := p.scope, pasid := q.pasid, va := p.fld 0
                   }).updQueue queue (fun q => { q with step := .waiting })).qcbSync queue)

/-- WRITE packet (R370): an 8-byte store by the FE. -/
def execWrite (queue : Nat) (s : State) : Out :=
  .next (match s.started queue 5 with
    | none => s
    | some (q, p) =>
      let who : Party := { place := .hub q.hub, pasid := q.pasid }
      match s.checkAccess who .store (p.fld 0).toNat 8 with
      | (.error b, s) => s.retireFault queue b.1 0
      | (.ok l, s) => ((s.writePieces who l (leBytes 8 (p.fld 1).toNat)).depDev queue).retire queue false)

/-- WRSIG packet (R370, R372): both checks first, then the store and its add, which nothing divides. -/
def execWrsig (queue : Nat) (s : State) : Out :=
  .next (match s.started queue 6 with
    | none => s
    | some (q, p) =>
      let who : Party := { place := .hub q.hub, pasid := q.pasid }
      match s.checkAccess who .store (p.fld 0).toNat 8 with
      | (.error b, s) => s.retireFault queue b.1 0
      | (.ok l, s) =>
        match s.hubOperand q.hub q.pasid (.add false) (p.fld 2) with
        | (.error c, s) => s.retireFault queue c 0
        | (.ok c, s) =>
          if !s.settled then s
          else
            let s := s.writePieces who l (leBytes 8 (p.fld 1).toNat)
            ((s.feAdd q c (p.fld 2) (p.fld 3).toNat (some (hubScope p.sc))).depDev queue).retire queue false)

/-- MARKER packet (R369). -/
def execMarker (queue : Nat) (s : State) : Out :=
  .next (match s.started queue 8 with
    | none => s
    | some (_, p) => ((s.updQueue queue (fun q => { q with mark := p.fld 0 })).depDev queue).retire queue false)

-- Completion adds and the ends of packets (R369) ---------------------------------------------------------------------------------------------

/-- The completion add that a packet or node names; none where its counter field is 0. -/
def doneOf (ctr : Word) (val : Nat) (scope : Option Nat) : Option DoneAdd :=
  if ctr = 0 then none else some { ctr := ctr, val := val, scope := scope }

/-- A completion operand checked when its packet or node starts (R377). DEDUCED (log 45). -/
def State.checkDone (s : State) (q : Queue) (d : Option DoneAdd) : Option Code × State :=
  match d with
  | none => (none, s)
  | some d =>
    match s.hubOperand q.hub q.pasid (.add false) d.ctr with
    | (.error c, s) => (some c, s)
    | (.ok _, s) => (none, s)

/-- A completion add made. -/
def State.makeDone (s : State) (k : Nat) (d : Option DoneAdd) : State :=
  match d, s.queues.find k with
  | some d, some q => s.queueAdd q d.ctr d.val d.scope
  | _, _ => s

/-- A packet that had retired ends with its completion add. DEDUCED (log 45). -/
def State.packetDone (s : State) (k idx : Nat) (d : Option DoneAdd) : State := (s.makeDone k d).packetEnds k idx

/-- A packet that had retired ends with a fault (R377). -/
def State.packetFails (s : State) (k idx : Nat) (c : Code) : State :=
  ((s.queueCause k c 0 idx).queueFault k).packetEnds k idx

/-- A COPY of the FE enters the queue of its hub's bulk engines (R370). -/
def State.feCopy (s : State) (q : Queue) (own : CopyFor) (src dst : Word) (len : Nat) : State :=
  let die := 4 * q.hub
  { s with
    copies := s.copies.put s.nextId { kind := .linear src dst len, own := own, die := die, pasid := q.pasid }
    copyQueue := s.copyQueue.put die (((s.copyQueue.find die).getD []) ++ [s.nextId])
    nextId := s.nextId + 1 }

/-- COPY packet (R370): it retires when an engine takes it; a copy of nothing starts and ends at once. -/
def execCopyPacket (queue : Nat) (s : State) : Out :=
  .next (match s.started queue 2 with
    | none => s
    | some (q, p) =>
      let d := doneOf (p.fld 3) (p.fld 4).toNat p.scope
      match s.checkDone q d with
      | (some c, s) => s.retireFault queue c 0
      | (none, s) =>
        if p.fld 2 = 0 then ((s.makeDone queue d).depDev queue).retire queue false
        else
          let id := s.nextId
          ((s.feCopy q (.packet queue p.idx d) (p.fld 0) (p.fld 1) (p.fld 2).toNat).updQueue queue
            (fun q => { q with step := .copying id })).qcbSync queue)

/-- The QCB's step of a launch in progress. -/
def Launch.pstep (l : Launch) (id : Nat) : PStep :=
  match l.step with
  | .prologue => .prologue l.run
  | .inPrologue => .prologue l.run
  | .admission => .admission
  | .admitted => .again id

/-- The step of a launch shown in its queue's record. -/
def State.showStep (s : State) (id : Nat) : State :=
  match s.launches.find id with
  | none => s
  | some l =>
    match l.own with
    | .packet k _ => (s.updQueue k (fun q => { q with step := l.pstep id })).qcbSync k
    | .node _ _ => s

/-- A launch that starts: its prologue first, if it has one (R371, R378). -/
def State.newLaunch (s : State) (k : Nat) (q : Queue) (own : LaunchFor) (d : Desc) (grid args : Word) (done : Option DoneAdd)
    (deps : Option (List Nat)) : State :=
  let l : Launch := { desc := d, queue := k, own := own, pasid := q.pasid, ctx := q.ctx, grid := grid, args := args, arg0 := args, done := done
                      step := if d.plen = 0 then .admission else .prologue, since := s.clock, deps := deps }
  let id := s.nextId
  let s : State := { s with launches := s.launches.put id l, nextId := id + 1 }
  match own with
  | .packet _ _ => (s.updQueue k (fun q => { q with launch := some id })).showStep id
  | .node _ _ => s

/-- LAUNCH packet (R369, R375): with the descriptor that was read when the packet was taken, the prologue or admission follows. -/
def execLaunch (queue : Nat) (s : State) : Out :=
  .next (match s.started queue 1 with
    | none => s
    | some (q, p) =>
      let d := doneOf (p.fld 3) (p.fld 4).toNat p.scope
      match s.checkDone q d with
      | (some c, s) => s.retireFault queue c 0
      | (none, s) =>
        match p.desc with
        | none => s
        | some desc => s.newLaunch queue q (.packet queue p.idx) desc (p.fld 1) (p.fld 2) d q.deps)

end Sys2Proof.Machine
end

