-- ==== Sys2Proof/Machine/Graphs.lean ====
section
/-! DEFINITION. Graphs (R397 to R408): loading, arrival counts, node kinds and ends. -/

namespace Sys2Proof.Machine

-- Structure (R397, R398) ------------------------------------------------------------------------------------------

def GNode.kind (n : GNode) : Nat := bits n.word 7 0
def GNode.nsw (n : GNode) : Nat := bits n.word 11 8
def GNode.npred (n : GNode) : Nat := bits n.word 15 12
/-- thr(j) (R402). -/
def GNode.thr (n : GNode) : Nat := max 1 n.npred
/-- SUCC0 or SUCC1; none for 0xFFFF. -/
def succOf (x : Nat) : List Nat := if x = 0xFFFF then [] else [x]
def GNode.succ0 (n : GNode) : List Nat := succOf (bits n.word 47 32)
def GNode.succ1 (n : GNode) : List Nat := succOf (bits n.word 63 48)
/-- Both successors in ascending index. -/
def GNode.succs (n : GNode) : List Nat :=
  if bits n.word 47 32 ≤ bits n.word 63 48 then n.succ0 ++ n.succ1 else n.succ1 ++ n.succ0
/-- The scope of the node's release or acquire. -/
def GNode.scope (n : GNode) : Option Nat := if bit n.word 23 then some (hubScope (bits n.word 22 18)) else none

/-- A structure word and SWITCH table that R397 to R399 refuse, in a graph of nn nodes. -/
def nodeBad (nn : Nat) (n : GNode) : Bool :=
  let w := n.word
  let kind := n.kind
  let idx (x : Nat) : Bool := x = 0xFFFF || x < nn
  let ord := bit w 23
  let sc := bits w 22 18
  !idx (bits w 63 48) || !idx (bits w 47 32) || bits w 31 24 ≠ 0 || bits w 17 16 ≠ 0 || kind = 0 || 8 < kind
    || (ord && 5 ≤ kind) || sc = 7 || (!ord && sc ≠ 0) || (n.nsw ≠ 0 && kind ≠ 7)
    || (kind = 7 && (bits w 63 48 ≠ 0xFFFF
        || (List.range 16).any (fun k => if k ≤ n.nsw then !idx (n.table.getD k 0xFFFF) else n.table.getD k 0xFFFF ≠ 0xFFFF)))
    || (kind = 8 && (bits w 63 48 ≠ 0xFFFF || bits w 47 32 ≠ 0xFFFF))

/-- The 16 entries of a SWITCH table in four words. -/
def switchTable (l : List Word) : List Nat := (List.range 16).map (fun k => bits (l.getD (k / 4) 0) (16 * (k % 4) + 15) (16 * (k % 4)))

-- Starting and ending nodes (R402, R405) -----------------------------------------------------------------------------

/-- try(j): the node starts when it is idle and has its arrivals. -/
def Graph.tryNode (x : Graph) (clock j : Nat) : Graph :=
  match x.nodes.find j with
  | none => x
  | some n =>
    if x.ended ∨ x.fault.isSome ∨ n.running ∨ n.arr < n.thr then x
    else { x with nodes := x.nodes.put j { n with arr := n.arr - n.thr, running := true, due := true, args := [] }, since := clock }

def State.updGraph (s : State) (g : Nat) (h : Graph → Graph) : State := { s with graphs := s.graphs.upd g h }

/-- arrive(j). -/
def State.arrive (s : State) (g j : Nat) : State :=
  match s.graphs.find g with
  | none => s
  | some x =>
    match x.nodes.find j with
    | none => s
    | some n =>
      if x.ended then s
      else if n.arr + 1 = 256 then s.graphFails g j 0x0B5 false
      else s.updGraph g (fun x => ({ x with nodes := x.nodes.put j { n with arr := n.arr + 1 } }).tryNode s.clock j)

/-- The end of node j with the successors it chose (R402); `fields` are those where it ran, none for a node that is not a
KERNEL (R394). -/
def State.nodeEnd (s : State) (g j : Nat) (succs : List Nat) (fields : Option (List Nat) := none) : State :=
  let s := s.updGraph g (fun x => { x with
    nodes := x.nodes.upd j (fun n => { n with running := false, due := false }), since := s.clock
    deps := x.deps.bind (fun d => fields.map (fun f => d ++ f)) })
  let s := succs.foldl (fun (s : State) i => s.arrive g i) s
  s.updGraph g (fun x => x.tryNode s.clock j)

/-- A node's due effect: its graph, the queue, and the node; none while its queue is suspended (R408), or while a lower node of the graph is
due (R402). -/
def State.nodeDue (s : State) (g j kind : Nat) : Option (Graph × Queue × GNode) :=
  match s.graphs.find g with
  | none => none
  | some x =>
    match x.nodes.find j, s.queues.find x.queue with
    | some n, some q =>
        if n.due ∧ n.kind = kind ∧ x.nodes.all.all (fun e => j ≤ e.1 || !e.2.due) ∧ !q.suspended ∧ s.serves q then some (x, q, n) else none
    | _, _ => none

/-- The effect of a node has been made. -/
def State.madeDue (s : State) (g j : Nat) : State :=
  s.updGraph g (fun x => { x with nodes := x.nodes.upd j (fun n => { n with due := false }) })

/-- The argument fields of a node at offsets 8 to 56 from the first that this start has not read: all that are left, or the next one alone, so
that a store that races the start is seen in some fields and not in others (R404; log 129). -/
def State.nodeArgs (s : State) (x : Graph) (q : Queue) (j : Nat) (n : GNode) : Except Code (List Word) × State :=
  let k := n.args.length
  let (one, s) := s.tears (k < 6)
  match s.feRead q.hub q.pasid (x.va.toNat + 64 + 64 * j + 8 + 8 * k) (if one then 1 else 7 - k) with
  | (.error c, s) => (.error c, s)
  | (.ok w, s) => (.ok (n.args ++ w), s)

/-- A 4-byte word read by the FE (R404). -/
def State.feRead32 (s : State) (q : Queue) (va : Nat) : Except Code Nat × State :=
  let p : Party := { place := .hub q.hub, pasid := q.pasid }
  match s.checkAccess p .load va 4 with
  | (.error b, s) => (.error b.1, s)
  | (.ok l, s) =>
    match s.readPieces p l with
    | ((_, true), s) => (.error 0x07D, s)
    | ((b, false), s) => (.ok (leNat b), s)

/-- A node's effect on its arguments, once all seven are read; a failed read is a graph fault (R404, R405). -/
def State.withArgs (s : State) (g j kind : Nat) (bad : (Nat → Word) → Bool) (h : State → Graph → Queue → GNode → (Nat → Word) → State) : Out :=
  .next (match s.nodeDue g j kind with
    | none => s
    | some (x, q, n) =>
      match s.nodeArgs x q j n with
      | (.error c, s) => s.graphFault g j c false
      | (.ok w, s) =>
        let f (i : Nat) : Word := w.getD (i - 1) 0
        if w.length < 7 then s.updGraph g (fun x => { x with nodes := x.nodes.upd j (fun n => { n with args := w }) })
        else if bad f then s.graphFault g j 0x0B5 false else h s x q n f)

/-- Every one of the fields i of a list is zero. -/
def zeros (f : Nat → Word) (l : List Nat) : Bool := l.all (fun i => f i = 0)

-- Nodes (R403, R406) ------------------------------------------------------------------------------------------------------

/-- KERNEL node: as a LAUNCH packet (R403). -/
def execKernelNode (graph node : Nat) (s : State) : Out :=
  s.withArgs graph node 1 (fun f => !((f 1).toNat % 128 = 0 && !bit (f 2) 63 && (f 5).toNat < 2 ^ 32 && zeros f [6, 7]))
    (fun s x q n f =>
      let d := doneOf (f 4) (f 5).toNat n.scope
      match s.checkDone q d with
      | (some c, s) => s.graphFault graph node c false
      | (none, s) =>
        match s.readDesc q (f 1) with
        | (.error c, s) => s.graphFault graph node c false
        | (.ok desc, s) =>
          (s.madeDue graph node).newLaunch x.queue q (.node graph node) desc (f 2) (if f 3 = 0 then x.arg else f 3) d x.deps)

/-- COPY node: as a COPY packet (R403). -/
def execCopyNode (graph node : Nat) (s : State) : Out :=
  s.withArgs graph node 2 (fun f => !((f 3).toNat ≤ 2 ^ 40 && (f 5).toNat < 2 ^ 32 && zeros f [6, 7]))
    (fun s x q n f =>
      let d := doneOf (f 4) (f 5).toNat n.scope
      match s.checkDone q d with
      | (some c, s) => s.graphFault graph node c false
      | (none, s) =>
        if f 3 = 0 then (s.makeDone x.queue d).nodeEnd graph node n.succs
        else (s.madeDue graph node).feCopy q (.node graph node d) (f 1) (f 2) (f 3).toNat)

/-- CADD node: as a CADD packet; the node ends after the add (R403). -/
def execCaddNode (graph node : Nat) (s : State) : Out :=
  s.withArgs graph node 3 (fun f => !((f 2).toNat < 2 ^ 32 && zeros f [3, 4, 5, 6, 7]))
    (fun s _ q n f =>
      match s.hubOperand q.hub q.pasid (.add false) (f 1) with
      | (.error c, s) => s.graphFault graph node c false
      | (.ok c, s) =>
        (s.emit { ctr := c, act := .add (BitVec.ofNat 64 (f 2).toNat), who := .node graph node, scope := n.scope, pasid := q.pasid
                  va := f 1 }).madeDue graph node)

/-- A CWAIT node whose wait a suspension withdrew asks for it afresh, without reading its arguments again (R404, R408). -/
def State.askAgain (s : State) (graph node : Nat) (o : CtrOp) : State :=
  (s.emit { o with seq := 0, retried := false }).updGraph graph (fun x => { x with
    nodes := x.nodes.upd node (fun n => { n with due := false, asked := none }) })

/-- CWAIT node: as a CWAIT packet (R403). -/
def execCwaitNode (graph node : Nat) (s : State) : Out :=
  match (s.nodeDue graph node 4).bind (fun e => e.2.2.asked) with
  | some o => .next (s.askAgain graph node o)
  | none =>
  s.withArgs graph node 4 (fun f => !(zeros f [3, 4, 5, 6, 7]))
    (fun s _ q n f =>
      match s.hubOperand q.hub q.pasid .wait (f 1) with
      | (.error c, s) => s.graphFault graph node (packetWaitCode c) false
      | (.ok c, s) =>
        (s.emit { ctr := c, act := .wait (f 2), who := .node graph node, scope := n.scope, pasid := q.pasid, va := f 1 }).madeDue graph node)

/-- COND node: one successor by a predicate word (R399, R403). -/
def execCondNode (graph node : Nat) (s : State) : Out :=
  s.withArgs graph node 5 (fun f => !((f 1).toNat % 4 = 0 && zeros f [2, 3, 4, 5, 6, 7]))
    (fun s _ q n f =>
      match s.feRead32 q (f 1).toNat with
      | (.error c, s) => s.graphFault graph node c false
      | (.ok v, s) => s.nodeEnd graph node (if v ≠ 0 then n.succ0 else n.succ1))

/-- SWITCH node: one successor by an index table (R399, R403). -/
def execSwitchNode (graph node : Nat) (s : State) : Out :=
  s.withArgs graph node 7 (fun f => !((f 1).toNat % 4 = 0 && zeros f [2, 3]))
    (fun s _ q n f =>
      match s.feRead32 q (f 1).toNat with
      | (.error c, s) => s.graphFault graph node c false
      | (.ok v, s) => s.nodeEnd graph node (if v ≤ n.nsw then succOf (n.table.getD v 0xFFFF) else n.succ0))

/-- The predicate of a LOOP at this start, none when its word faults (R406). -/
def State.loopGo (s : State) (q : Queue) (n : GNode) (pva first : Word) : Except Code Bool × State :=
  if bit first 32 ∧ n.it = 0 then (.ok true, s)
  else if pva = 0 then (.ok true, s)
  else match s.feRead32 q pva.toNat with
    | (.error c, s) => (.error c, s)
    | (.ok v, s) => (.ok (v ≠ 0), s)

/-- LOOP node (R406). -/
def execLoopNode (graph node : Nat) (s : State) : Out :=
  s.withArgs graph node 6
    (fun f => !((f 1).toNat % 4 = 0 && bits (f 2) 31 0 ≠ 0 && bits (f 2) 63 33 = 0 && (f 3).toNat % 8 = 0 && zeros f [4, 5, 6, 7]))
    (fun s _ q n f =>
      match s.loopGo q n (f 1) (f 2) with
      | (.error c, s) => s.graphFault graph node c false
      | (.ok go, s) =>
        let setIt (s : State) (x : Nat) : State := s.updGraph graph (fun g => { g with nodes := g.nodes.upd node (fun n => { n with it := x }) })
        if go ∧ n.it < bits (f 2) 31 0 then (setIt s (n.it + 1)).nodeEnd graph node n.succ0
        else
          let p : Party := { place := .hub q.hub, pasid := q.pasid }
          if f 3 = 0 then (setIt s 0).nodeEnd graph node n.succ1
          else match s.checkAccess p .store (f 3).toNat 8 with
            | (.error b, s) => s.graphFault graph node b.1 false
            | (.ok l, s) => (setIt (s.writePieces p l (leBytes 8 n.it)) 0).nodeEnd graph node n.succ1)

/-- END node: no further node starts (R405). -/
def execEndNode (graph node : Nat) (s : State) : Out :=
  s.withArgs graph node 8 (fun f => !(zeros f [1, 2, 3, 4, 5, 6, 7]))
    (fun s _ _ _ _ => (s.updGraph graph (fun x => { x with ended := true })).nodeEnd graph node [])

-- The graph packet and the end of a graph (R400, R405) --------------------------------------------------------------------------

/-- The structure of nodes j to j + n − 1 read (R400). -/
def State.loadNodes (s : State) (q : Queue) (va nn j : Nat) : Nat → Except Code (Tab GNode) × State
  | 0 => (.ok [], s)
  | n + 1 =>
      match s.feRead q.hub q.pasid (va + 64 + 64 * j) 1 with
      | (.error c, s) => (.error c, s)
      | (.ok w, s) =>
        let word := w.headD 0
        let (t, s) := if bits word 7 0 = 7 then s.feRead q.hub q.pasid (va + 64 + 64 * j + 32) 4 else (.ok [], s)
        match t with
        | .error c => (.error c, s)
        | .ok t =>
          let g : GNode := { word := word, table := if bits word 7 0 = 7 then switchTable t else [] }
          if nodeBad nn g then (.error 0x0B5, s)
          else match State.loadNodes s q va nn (j + 1) n with
            | (.error c, s) => (.error c, s)
            | (.ok r, s) => (.ok (Tab.put r j g), s)

/-- Graphs running on a hub, and the nodes that they have loaded (R400). DEDUCED (log 99). -/
def State.graphLoad (s : State) (hub : Nat) : Nat × Nat :=
  let l := (s.graphs.all.map (fun (e : Nat × Graph) => e.2)).filter (fun x => ((s.queues.find x.queue).map (·.hub)) = some hub)
  (l.length, (l.map (fun x => x.nodes.length)).foldl (· + ·) 0)

/-- A graph that has been loaded starts, with every node whose NPRED is 0 (R402). -/
def State.startGraph (s : State) (k : Nat) (q : Queue) (p : Packet) (nodes : Tab GNode) : State :=
  let g : Graph := { va := p.fld 0, arg := p.fld 1, queue := k, idx := p.idx, pasid := q.pasid, since := s.clock, deps := q.deps
                     done := doneOf (p.fld 2) (p.fld 3).toNat p.scope
                     nodes := nodes.map (fun e => (e.1, e.2.map (fun n => if n.npred = 0 then { n with running := true, due := true } else n))) }
  let s : State := { s with graphs := s.graphs.put s.nextId g, nextId := s.nextId + 1 }
  s.retire k true

/-- GRAPH packet (R400): it waits for room, loads and checks the graph, and retires. DEDUCED (log 99). -/
def execGraph (queue : Nat) (s : State) : Out :=
  .next (match s.queues.find queue with
    | none => s
    | some q =>
      match q.pkt with
      | none => s
      | some p =>
        if ¬(p.type = 7 ∧ (q.step = .taken ∨ q.step = .room) ∧ (!p.bar ∨ q.live = []) ∧ !q.suspended ∧ s.serves q) then s
        else
          let va := (p.fld 0).toNat
          let (nGraphs, nNodes) := s.graphLoad q.hub
          let wait (s : State) : State := (s.updQueue queue (fun q => { q with step := .room })).qcbSync queue
          match s.checkDone q (doneOf (p.fld 2) (p.fld 3).toNat p.scope) with
          | (some c, s) => s.retireFault queue c 0
          | (none, s) =>
            if 64 ≤ nGraphs then wait s
            else if va % 64 ≠ 0 then s.retireFault queue 0x0B5 0
            else match s.feRead q.hub q.pasid va 8 with
              | (.error c, s) => s.retireFault queue c 0
              | (.ok w, s) =>
                let h := w.headD 0
                let nn := bits h 26 16
                if bits h 63 27 ≠ 0 ∨ nn = 0 ∨ 1024 < nn ∨ bits h 15 8 ≠ 0 ∨ bits h 7 0 ≠ 1 ∨ !(w.drop 1).all (· = 0) then
                  s.retireFault queue 0x0B5 0
                else if 4096 < nNodes + nn then wait s
                else match s.loadNodes q va nn 0 nn with
                  | (.error c, s) => s.retireFault queue c 0
                  | (.ok nodes, s) => s.startGraph queue q p nodes)

/-- GRAPH_END (R405): no node runs, so none can start; the completion add is made unless the graph faulted. -/
def execGraphEnd (graph : Nat) (s : State) : Out :=
  .next (match s.graphs.find graph with
    | none => s
    | some x =>
      if x.nodes.all.any (fun e => e.2.running) then s
      else
        let s : State := { s with graphs := s.graphs.del graph }
        let s := if x.fault.isSome then s else s.makeDone x.queue x.done
        (s.packetEnds x.queue x.idx).depDev x.queue)

/-- GRAPH_WATCHDOG (R411, R414): no node has started or ended for the watchdog limit. DEDUCED (log 46). -/
def execGraphWatchdog (graph : Nat) (s : State) : Out :=
  .next (match s.graphs.find graph with
    | none => s
    | some x =>
      let limit := ((s.queues.find x.queue).map (·.wdog)).getD 1000 * 1000 * ckUs
      if x.fault.isSome ∨ s.clock < x.since + limit then s
      else
        let s := s.updGraph graph (fun x => { x with fault := some (0x0BA, 0) })
        (s.queueCause x.queue 0x0BA 0 x.idx).queueFault x.queue)

end Sys2Proof.Machine
end

