-- ==== Sys2Proof/Machine/Ring.lean ====
section
/-! DEFINITION. Rings (chapter 11): pushing, popping, reading, publishing and refilling. A ring operation is performed at
its home when it issues, so the order of issue is the order of arrival (R270; log 11). -/

namespace Sys2Proof.Machine

-- The state of a ring (R265, R267, R269) --------------------------------------------------------------------------

/-- TAIL − HEAD. -/
def Ring.occ (r : Ring) : Nat := r.tail - r.head
/-- Records held on chip. -/
def Ring.onChip (r : Ring) : Nat := r.occ - r.spilled
/-- Bytes of the spill ring (R265). -/
def spillBytes (w c : Nat) : Nat := roundUp ((w - c) * 32) 256
/-- Records that the spill ring can hold. -/
def Ring.slots (r : Ring) : Nat := spillBytes r.w r.base / 32
/-- The offset of a ring's spill ring in its team's spill area: in ring order (R265). DESIGN CHOICE (log 118). -/
def Team.spillOff (t : Team) (q : Nat) : Nat :=
  ((t.rings.all.filter (fun e => e.1 < q)).map (fun e => spillBytes e.2.w e.2.base)).foldl (· + ·) 0
/-- The physical address at which record j of a ring is spilled (log 11). -/
def Team.spillAt (t : Team) (q : Nat) (r : Ring) (j : Nat) : Nat :=
  t.spill.getD 0 + t.spillOff q + 32 * (j % max 1 r.slots)

/-- Records of a push of k that must be spilled (R269). -/
def Ring.toSpill (r : Ring) (k : Nat) : Nat := if r.spilled = 0 then k - (r.cap - r.occ) else k

/-- One record accepted and placed (R269, R273). DEDUCED (log 11). -/
def State.accept (s : State) (team q : Nat) (x : BitVec 256) : State :=
  match s.teams.find team with
  | none => s
  | some t =>
    match t.rings.find q with
    | none => s
    | some r =>
      let out : Bool := !(r.spilled = 0 && r.occ < r.cap)
      let s := if out then s.homeWrite (t.spillAt q r r.tail) (leBytes 32 x.toNat) else s
      let r' : Ring := { r with tail := r.tail + 1, spilled := r.spilled + (if out then 1 else 0), recs := Cells.set 0 r.recs r.tail x }
      s.updTeam team (fun t => { t with rings := t.rings.put q r' })

/-- The oldest record taken from a ring, and whether its spill slot was uncorrectable (R269, R280). DEDUCED (log 11). -/
def State.popOne (s : State) (team q : Nat) : (BitVec 256 × Bool) × State :=
  match s.teams.find team with
  | none => ((0, false), s)
  | some t =>
    match t.rings.find q with
    | none => ((0, false), s)
    | some r =>
      let x := Cells.get 0 r.recs r.head
      let out : Bool := r.onChip = 0
      let bad := out && s.poisoned (t.spillAt q r r.head) 32
      let r' : Ring := { r with head := r.head + 1, spilled := r.spilled - (if out then 1 else 0), recs := Cells.set 0 r.recs r.head 0 }
      ((x, bad), s.updTeam team (fun t => { t with rings := t.rings.put q r' }))

/-- The records that a pop takes: the published ones, into the lowest lanes (R274). -/
def Ring.popCount (r : Ring) (em : Mask) : List Nat := (lanesOf em).take (r.pub - r.head)

/-- Records popped for lanes in ascending order. -/
def State.popLanes (s : State) (team q : Nat) : List Nat → (List (Nat × BitVec 256) × Bool) × State
  | [] => (([], false), s)
  | i :: l =>
      let ((x, b), s) := s.popOne team q
      let ((r, b'), s) := State.popLanes s team q l
      (((i, x) :: r, b || b'), s)

-- Targets (R272) ------------------------------------------------------------------------------------------------------

/-- The target ring of a word: its team and state; system mode is refused first. -/
def State.ringTarget (s : State) (n : Now) (self q : Nat) (x : Option SReg) : Except Code (Nat × Ring) :=
  if n.t.kind = .system then .error 0x0AD
  else
    let idx := match x with
      | some r => (n.g.sget r.val).toNat % 128
      | none => n.t.idx
    if x.isSome ∧ n.t.clu.1 * n.t.clu.2 ≤ idx then .error 0x061
    else
      let team := if x.isSome then s.clusterTeam n.t self idx else some self
      match team with
      | none => .error 0x0AA
      | some k =>
        match (s.teams.find k).bind (fun t => t.rings.find q) with
        | some r => .ok (k, r)
        | none => .error 0x0A8

/-- The record that lane i pushes (R273). -/
def Group.ringRec (g : Group) (a i : Nat) : BitVec 256 :=
  BitVec.ofNat 256 ((List.range 8).foldl (fun x j => x + (g.vget (a + j) i).toNat * 2 ^ (32 * j)) 0)

-- At the home (R269, R270, R273 to R275) ---------------------------------------------------------------------------------

/-- The k records of a push would exceed W (R273). -/
def Ring.overflow (r : Ring) (k : Nat) : Bool := r.w < r.occ + k
/-- The push finds a spill slot for each record that needs one (R269). -/
def Ring.room (r : Ring) (k : Nat) : Bool := r.spilled + r.toSpill k ≤ r.slots
/-- The code of a push beyond W (R273). -/
def RingOp.overCode (o : RingOp) : Code := if o.x then 0x0A1 else 0x0A0

def State.updRing (s : State) (team q : Nat) (h : Ring → Ring) : State :=
  s.updTeam team (fun t => { t with rings := t.rings.upd q h })
/-- The ring of a team. -/
def State.ringOf (s : State) (team q : Nat) : Option Ring := (s.teams.find team).bind (fun t => t.rings.find q)

/-- A push is accepted (R273): its release is made, its records are placed, and its fragment goes on. -/
def State.acceptPush (s : State) (team q : Nat) (o : RingOp) (recs : List (BitVec 256)) : State :=
  let s := match s.at' o.who with
    | some n => s.release (n.party o.who.team) (some 2)
    | none => s
  let s := recs.foldl (fun s x => s.accept team q x) s
  let s := s.updRing team q (fun r => { r with batches := r.batches ++ [{ count := recs.length, fid := o.who.fid, seq := o.seq }] })
  s.updFrag o.who (fun f => if f.why = .answer then { f with why := .busy (max o.due (s.clock + 1)) } else f)

/-- A push at its home: refused, held behind the pushes held before it or for want of a spill slot, or accepted (R269, R270, R273). -/
def State.takePush (s : State) (team q : Nat) (o : RingOp) (recs : List (BitVec 256)) : State :=
  match s.ringOf team q with
  | none => s.raise o.who o.pc { code := 0x0AA }
  | some r =>
    if r.held ≠ [] then s.updRing team q (fun r => { r with held := r.held ++ [o] })
    else if r.overflow recs.length then s.raise o.who o.pc { code := o.overCode }
    else if r.room recs.length then s.acceptPush team q o recs
    else s.updRing team q (fun r => { r with held := r.held ++ [o] })

/-- What a popped record writes in lane i. -/
def ringVals (d i : Nat) (x : BitVec 256) : List RegVal :=
  (List.range 8).map (fun j => .v (d + j) i (x.extractLsb' (32 * j) 32))

/-- A pop at its home: what it writes, whether some record is uncorrectable, and the acquire of an answer that returned records (R274). -/
def State.takePop (s : State) (team q : Nat) (who : Cur) (em : Mask) (d p : Nat) (acq : Bool) : (List RegVal × Bool) × State :=
  match s.ringOf team q with
  | none => (([], false), s)
  | some r =>
    let lanes := r.popCount em
    let ((l, bad), s) := s.popLanes team q lanes
    let s := match s.teams.find who.team with
      | some t => if acq ∧ lanes ≠ [] ∧ t.onCore then s.acquire t.core (some 2) else s
      | none => s
    let got := lanes.foldl (fun (m : Mask) i => m ||| laneBit i) 0
    ((l.flatMap (fun e => ringVals d e.1 e.2) ++ [.p p em got], bad), s)

/-- The third register of QINFO (R275). -/
def Ring.infoWord (r : Ring) : Word := BitVec.ofNat 64 (r.cap % 2 ^ 17 * 2 ^ 32 + r.spilled % 2 ^ 24)
/-- What QINFO writes (R275). -/
def Ring.infoVals (r : Ring) (d : Nat) : List RegVal :=
  [.s d (BitVec.ofNat 64 r.tail), .s (d + 1) (BitVec.ofNat 64 r.head), .s (d + 2) r.infoWord]

/-- The trap of a pop whose record is uncorrectable (R280). -/
def popFail (bad : Bool) : Option Fail := if bad then some { code := 0x0A3 } else none

/-- The pending result of a ring operation receives its values. -/
def State.ringAnswer (s : State) (o : RingOp) (l : List RegVal) (bad : Option Fail) : State :=
  (s.setPend o.who.gid o.pend (fun p => p.map (fun p => { p with vals := some l, bad := bad, due := max o.due p.due }))).acquired o.who.gid o.pend

/-- An operation of a cluster peer at its home (R270); its target has ended where there is no ring any more (R278). -/
def State.takeRingOp (s : State) (team q : Nat) (o : RingOp) : State :=
  match o.act, s.ringOf team q with
  | .push recs, _ => s.takePush team q o recs
  | _, none => s.ringAnswer o [] (some { code := 0x0AA })
  | .pop em d p acq, some _ =>
      let ((l, bad), s) := s.takePop team q o.who em d p acq
      s.ringAnswer o l (popFail bad)
  | .info d, some r => s.ringAnswer o (r.infoVals d) none

/-- The operations of cluster peers that arrived in earlier cks, in the order of arrival (R270). DEDUCED (log 11). -/
def State.takeArrived (s : State) (team q : Nat) (all : Bool) : State :=
  match s.ringOf team q with
  | none => s
  | some r =>
    let now := fun (o : RingOp) => all || o.since < s.clock
    let s := s.updRing team q (fun r => { r with arrived := r.arrived.filter (fun o => !now o) })
    (r.arrived.filter now).foldl (fun s o => s.takeRingOp team q o) s

/-- Held pushes accepted, oldest first, as far as spill slots are free (R269). -/
def State.takeHeldPushes (s : State) (team q : Nat) : List RingOp → State
  | [] => s.updRing team q (fun r => { r with held := [] })
  | o :: l =>
      match s.ringOf team q, o.act with
      | some r, .push recs =>
          if r.overflow recs.length then State.takeHeldPushes (s.raise o.who o.pc { code := o.overCode }) team q l
          else if r.room recs.length then State.takeHeldPushes (s.acceptPush team q o recs) team q l
          else s.updRing team q (fun r => { r with held := o :: l })
      | _, _ => s

/-- An operation of a cluster peer takes its place among those that arrive: by ck, then cluster core index, then slot (R270). -/
def ringArrive (o : RingOp) : List RingOp → List RingOp
  | [] => [o]
  | a :: l =>
      if a.since < o.since ∨ (a.since = o.since ∧ (a.idx < o.idx ∨ (a.idx = o.idx ∧ a.who.slot ≤ o.who.slot))) then a :: ringArrive o l
      else o :: a :: l

-- Instructions (R273 to R275) -----------------------------------------------------------------------------------------

/-- The ring operation of a word. -/
def State.ringOp (s : State) (n : Now) (x far : Bool) (act : RingDo) (near : Nat) : RingOp :=
  { act := act, who := s.cur, x := x, idx := n.t.idx, pend := s.nextId, pc := n.f.pc, since := s.clock
    due := s.clock + (if far then (match act with | .push _ => 20 | _ => 24) else near), seq := s.nextId }

/-- An operation sent to the ring of a cluster peer (R270). -/
def State.sendRing (s : State) (team q : Nat) (o : RingOp) : State :=
  s.updRing team q (fun r => { r with arrived := ringArrive o r.arrived })

/-- QPUSH (R273): a release of the pushing fragment at CLU; its fragment is in WAIT-L until the home has accepted (R276). -/
def execQpush (g : Guard) (q : RingN) (a : VReg) (x : Option SReg) (s : State) : Out :=
  s.word .cores (fun n =>
    match s.ringTarget n s.cur.team q.val x with
    | .error c => s.trapNow n { code := c }
    | .ok (k, r) =>
      let recs := (lanesOf (activeLanes n.f n.g g)).map (fun i => n.g.ringRec a.val i)
      let far := decide (k ≠ s.cur.team)
      let o := s.ringOp n x.isSome far (.push recs) 8
      if recs = [] then s.done n
      else if !far && r.held = [] && r.overflow recs.length then s.trapNow n { code := o.overCode }
      else
        let s := ({ s with nextId := s.nextId + 1 } : State).waits n .waitL .answer
        if far then s.sendRing k q.val o else s.takePush k q.val o recs)

/-- QPOP (R274). -/
def execQpop (la : La) (acq : Bool) (q : RingN) (d : VReg) (p : PReg) (x : Option SReg) (s : State) : Out :=
  s.word .cores (fun n =>
    match s.ringTarget n s.cur.team q.val x with
    | .error c => s.trapNow n { code := c }
    | .ok (k, _) =>
      let regs : List PendReg := (List.range 8).map (fun j => .v (d.val + j)) ++ [.p p.val]
      if k = s.cur.team then
        let ((l, bad), s) := s.takePop k q.val s.cur n.f.em d.val p.val acq
        s.writeLater n 12 la regs l 0 false (popFail bad)
      else
        let o := s.ringOp n x.isSome true (.pop n.f.em d.val p.val acq) 12
        let n := if acq then { n with f := { n.f with acquires := n.f.acquires ++ [o.pend] } } else n
        (s.later n la { regs := regs }).sendRing k q.val o)

/-- QINFO (R275). -/
def execQinfo (la : La) (q : RingN) (d : SReg) (x : Option SReg) (s : State) : Out :=
  s.word .cores (fun n =>
    match s.ringTarget n s.cur.team q.val x with
    | .error c => s.trapNow n { code := c }
    | .ok (k, r) =>
      let regs : List PendReg := [.s d.val, .s (d.val + 1), .s (d.val + 2)]
      if k = s.cur.team then s.writeLater n 12 la regs (r.infoVals d.val)
      else (s.later n la { regs := regs }).sendRing k q.val (s.ringOp n x.isSome true (.info d.val) 12))

-- The ring logic (R269, R273, R277, R278) --------------------------------------------------------------------------------

/-- The oldest accepted push published: PUB rises, and the published counter by as much (R268, R273). -/
def State.publish (s : State) (team q : Nat) : State :=
  match s.teams.find team with
  | none => s
  | some t =>
    match t.rings.find q with
    | none => s
    | some r =>
      match r.batches with
      | [] => s
      | b :: rest =>
        let s := s.updTeam team (fun t => { t with rings := t.rings.put q { r with pub := r.pub + b.count, batches := rest } })
        s.ctrAdd (.scr team (56 + q)) (BitVec.ofNat 64 b.count)

/-- The oldest accepted push may be published: every write is performed, and every counter operation that its fragment issued before it
(R255, R273). -/
def State.publishable (s : State) (team q : Nat) : Bool :=
  match s.ringOf team q with
  | none => false
  | some r =>
    match r.batches with
    | [] => false
    | b :: _ => s.settled && !(s.ops.all.any (fun e => sameFrag e.2.who (.frag b.fid 0) && e.2.seq < b.seq))

/-- One spilled record read back into a freed slot (R269); uncorrectable data raises 0x0A2 in the owning team (R280). DEDUCED (log 37). -/
def State.refillOne (s : State) (team q : Nat) : State :=
  match s.teams.find team with
  | none => s
  | some t =>
    match t.rings.find q with
    | none => s
    | some r =>
      if r.spilled = 0 ∨ r.cap ≤ r.onChip then s
      else if s.poisoned (t.spillAt q r (r.head + r.onChip)) 32 then
        { s with fresh := s.fresh + 1 }.trapAway ⟨16 * team, 0⟩ (Config.freeWord s.fresh) { code := 0x0A2 } 0
      else s.updTeam team (fun t => { t with rings := t.rings.put q { r with spilled := r.spilled - 1 } })

/-- What a ring has received is performed, every accepted push is published, and every refill completes (R277, R278). -/
def State.settleRing (s : State) (team q : Nat) : State :=
  let s := s.takeArrived team q true
  match s.ringOf team q with
  | none => s
  | some r =>
    let s := (List.range r.spilled).foldl (fun s _ => s.refillOne team q) s
    let s := s.takeHeldPushes team q r.held
    match s.ringOf team q with
    | none => s
    | some r => (List.range r.batches.length).foldl (fun s _ => s.publish team q) s

/-- The rings of a team settled (R277, R278). -/
def State.settleRings (s : State) (team : Nat) : State :=
  match s.teams.find team with
  | none => s
  | some t => t.rings.keys.foldl (fun s q => s.settleRing team q) s

/-- A home takes the operations that have arrived from peers; a push is in place and its release holds, and it is published (R270, R273). -/
def execRingPublish (team ring : Nat) (s : State) : Out :=
  let s := s.takeArrived team ring false
  .next (if s.publishable team ring then s.publish team ring else s)

/-- A refill read completes, and held pushes find spill slots (R269). DEDUCED (log 37). -/
def execRingRefill (team ring : Nat) (s : State) : Out :=
  let s := s.refillOne team ring
  .next (match s.ringOf team ring with
    | some r => if r.held = [] then s else s.takeHeldPushes team ring r.held
    | none => s)

end Sys2Proof.Machine
end

