-- ==== Sys2Proof/Machine/Record.lean ====
section
/-! DEFINITION. Context records in memory (R417, R419 to R421): what a save writes to a team's save area, and what a relaunch reads back.
The places that no rule gives hold free values, and what stands in them is kept in the team's own fields (log 9). -/

namespace Sys2Proof.Machine

/-- A run of bytes of a record, by its offset. -/
abbrev RecPiece := Nat × List Byte

/-- Bytes whose contents or places no rule gives. -/
def freePiece (fresh o n : Nat) : RecPiece := (o, (List.range n).map (fun i => (Config.freeWord (fresh + o + i)).setWidth 8))

/-- The team header (R4, R420): the trap fields, the comparators, the scratch counters and the ring counts have places; VER is the first
byte. DESIGN CHOICE (log 119). -/
def Team.headPieces (x : Team) (fresh : Nat) : List RecPiece :=
  let w (o : Nat) (v : Nat) : RecPiece := (o, leBytes 8 v)
  [(0, [1]), freePiece fresh 1 63, w 0x40 x.trap.cause, w 0x48 x.trap.pc.toNat, w 0x50 x.trap.va.toNat, w 0x58 x.trap.data.toNat, freePiece fresh 0x60 32]
    ++ x.dbg.cmp.map (fun e => w (0x80 + 8 * e.1) e.2.toNat)
    ++ [freePiece fresh 0xA0 96]
    ++ x.scnt.map (fun e => w (0x100 + 8 * e.1) e.2.toNat)
    ++ x.rings.all.flatMap (fun (e : Nat × Ring) => [w (0x300 + 24 * e.1) e.2.tail, w (0x308 + 24 * e.1) e.2.pub, w (0x310 + 24 * e.1) e.2.head])
    ++ [freePiece fresh 0x3C0 0xC40]

/-- A pc of a fragment record: a signed word offset from ENTRY (R421). DEDUCED (log 103). -/
def pcOffset (entry pc : Word) : List Byte := leBytes 4 ((pc - entry).sshiftRight 3).toNat

/-- The live fragments of a group as its records list them: the slotted ones in ascending slot as records 0 to 7, then the held list in
push order (R421). -/
def State.fragRecords (s : State) (gid : Nat) (g : Group) : List (Nat × Mask × Word × Option Word) :=
  ((s.fragsOf gid).zipIdx.map (fun e => (e.2, e.1.2.em, e.1.2.pc, if e.1.2.st = .join then some e.1.2.jpc else none)))
    ++ g.held.zipIdx.map (fun e => (8 + e.2, e.1.em, e.1.pc, if e.1.joined then some e.1.jpc else none))

/-- The fragment record that holds each lane, 31 for a retired lane, 5 bits for each (R421). -/
def laneOwners (l : List (Nat × Mask × Word × Option Word)) : Nat :=
  ((List.range 32).map (fun i => ((l.find? (fun e => e.2.1.getLsbD i)).map (·.1)).getD 31 * 2 ^ (5 * i))).foldl (· + ·) 0

/-- The block of a group of n registers at offset o (R421). -/
def State.groupPieces (s : State) (gid n : Nat) (entry : Word) (g : Group) (o : Nat) : List RecPiece :=
  let b := o + 128 * n
  let l := s.fragRecords gid g
  g.v.map (fun e => (o + 4 * e.1, leBytes 4 e.2.toNat))
    ++ (g.s.filter (fun e => e.1 ≠ 0)).map (fun e => (b + 8 * e.1, leBytes 8 e.2.toNat))
    ++ (g.p.filter (fun e => e.1 ≠ 0)).map (fun e => (b + 508 + 4 * e.1, leBytes 4 e.2.toNat))
    ++ [(b + 540, [g.fpflags.setWidth 8])] ++ g.tok.map (fun e => (b + 541 + e.1, leBytes 1 e.2)) ++ [(b + 549, leBytes 20 (laneOwners l))]
    ++ [freePiece s.fresh (b + 569) 192]
    ++ l.flatMap (fun e => (b + 569 + 10 * e.1, pcOffset entry e.2.2.1) :: (e.2.2.2.map (fun j => (b + 573 + 10 * e.1, pcOffset entry j))).toList)
    ++ g.recs.all.map (fun (e : Nat × Rec) => (b + 729 + 2 * e.1, leBytes 1 e.2.tok.toNat ++ (e.2.par.map (BitVec.ofNat 8)).toList))

/-- The offset of a group's block (R419). -/
def Team.blockAt (x : Team) (grp : Nat) : Nat := 0x1000 + grp * (128 * x.nregs + 768)

/-- The images of the banks, tiles and latches after the group blocks (R264, R318, R419). -/
def Team.imagePieces (x : Team) : List RecPiece :=
  let banks := x.blockAt x.groups
  let rings := banks + 0x20000 * x.bs
  let tiles := rings + 0x20000 * x.br
  let first (q : Nat) : Nat := ((x.rings.all.filter (fun (e : Nat × Ring) => e.1 < q)).map (fun (e : Nat × Ring) => e.2.cap)).foldl (· + ·) 0
  x.scratch.map (fun e => (banks + e.1, [e.2]))
    ++ x.rings.all.flatMap (fun (e : Nat × Ring) => (e.2.recs.filter (fun r => e.2.head ≤ r.1 && r.1 < e.2.head + e.2.onChip)).map (fun r =>
      (rings + 32 * (first e.1 + r.1 % max 1 e.2.cap), leBytes 32 r.2.toNat)))
    ++ x.tiles.map (fun e => (tiles + 4 * e.1, leBytes 4 e.2.toNat))
    ++ (if 0 < x.ntiles then x.savedLatches.flatMap (fun e => e.2.2.map (fun c => (tiles + 0x4000 * x.ntiles + 0x1000 * e.1 + c.1, [c.2]))) else [])

/-- The layout cache: the layout records of the team's outstanding CPYTs as read (R420, R422). -/
def State.layoutPieces (s : State) (t : Nat) : List RecPiece := (s.layoutsOf t).zipIdx.map (fun e => (0x400 + 64 * e.2, e.1.bytes))

/-- ENTRY of a team's kernel. -/
def State.kernelEntry (s : State) (x : Team) : Word := ((s.launches.find x.launch).map (·.desc.entry)).getD 0

/-- A saved team's context record written to its save area (R152, R419). -/
def State.writeRecord (s : State) (t : Nat) : State :=
  match s.teams.find t with
  | none => s
  | some x =>
    match x.saveAt with
    | none => s
    | some a =>
      let groups := (s.groupsOf t).flatMap (fun gid => match s.groups.find gid with
        | some g => s.groupPieces gid x.nregs (s.kernelEntry x) g (x.blockAt (gid % 16))
        | none => [])
      let pieces := x.headPieces s.fresh ++ s.layoutPieces t ++ groups ++ x.imagePieces
      let s := pieces.foldl (fun (s : State) (p : RecPiece) => s.homeWrite (a + p.1) p.2) (s.zeroRange a x.foot)
      { s with fresh := s.fresh + x.foot }

/-- Where the memory from base on, n elements of z bytes, is not zero. -/
def State.listed (s : State) (base n z : Nat) : List Nat :=
  ((s.mem.filter (fun e => base ≤ e.1 && e.1 < base + n * z)).map (fun e => (e.1 - base) / z)).eraseDups

/-- The code with which a record is refused at restore (R417): uncorrectable data, another interface version (R4), or a field that must be zero is not. -/
def State.recordFault (s : State) (t : Nat) : Option Code :=
  match s.teams.find t with
  | none => none
  | some x =>
    match x.saveAt with
    | none => none
    | some a =>
      if s.poison.any (fun e => a ≤ e.1 && e.1 < a + x.foot) then some 0x07B
      else if s.memByte a ≠ 1 then some 0x17B
      else if (s.groupsOf t).any (fun gid =>
        let b := a + x.blockAt (gid % 16) + 128 * x.nregs
        s.memWord b ≠ 0 || (List.range 7).any (fun i => s.memByte (b + 761 + i) ≠ 0)) then some 0x17B
      else none

/-- A team's cold waiter entries meet uncorrectable data in the area that its launch reserves for them (R225, R411). DEDUCED (log 114). -/
def State.coldBad (s : State) (t : Nat) : Bool :=
  s.cold.any (fun w => match w.op.who, w.op.act with | .frag f _, .wait _ => f / 1024 = t | _, _ => false)
    && ((s.teams.find t).bind (fun x => s.launches.find x.launch)).any (fun l => s.poison.any (fun e => l.cold.1 ≤ e.1 && e.1 < l.cold.1 + l.cold.2))

/-- A group's registers as its block holds them (R417, R421). DEDUCED (log 103). -/
def State.readGroup (s : State) (a n : Nat) (g : Group) : Group :=
  let b := a + 128 * n
  { g with
    v := (s.listed a (32 * n) 4).foldl (fun (m : Cells Lane) i => Cells.set 0 m i (BitVec.ofNat 32 (leNat (s.memRead (a + 4 * i) 4)))) []
    s := ((List.range 64).drop 1).foldl (fun (m : Cells Word) r => Cells.set 0 m r (s.memWord (b + 8 * r))) []
    p := ((List.range 8).drop 1).foldl (fun (m : Cells Mask) r => Cells.set 0 m r (BitVec.ofNat 32 (leNat (s.memRead (b + 508 + 4 * r) 4)))) []
    fpflags := (s.memByte (b + 540)).setWidth 5 }

/-- The registers, the pcs of slotted fragments and the comparators of a saved team, as its record holds them: what the context-resume
service may edit (R417). -/
def State.readRecord (s : State) (t : Nat) : State :=
  match s.teams.find t with
  | none => s
  | some x =>
    match x.saveAt with
    | none => s
    | some a =>
      let entry := s.kernelEntry x
      let block (gid : Nat) : Nat := a + x.blockAt (gid % 16)
      let pcs := (s.groupsOf t).flatMap (fun gid => (s.fragsOf gid).zipIdx.map (fun e =>
        (e.1.1, entry + 8 * (BitVec.ofNat 32 (leNat (s.memRead (block gid + 128 * x.nregs + 569 + 10 * e.2) 4))).signExtend 64)))
      { s with
        groups := (s.groupsOf t).foldl (fun (m : Tab Group) gid => m.upd gid (fun g => s.readGroup (block gid) x.nregs g)) s.groups
        frags := pcs.foldl (fun (m : Tab Frag) e => m.upd e.1 (fun f => { f with pc := e.2 })) s.frags
        teams := s.teams.put t { x with dbg := { x.dbg with
          cmp := (List.range 4).foldl (fun (m : Cells Word) k => Cells.set 0 m k (s.memWord (a + 0x80 + 8 * k))) [] } } }

/-- The debug block of a team edited; the record of a saved team holds its comparators too (R420, R446). DEDUCED (log 104). -/
def State.editDebug (s : State) (t : Nat) (edit : Debug → Debug) : State :=
  let s := s.updTeam t (fun y => { y with dbg := edit y.dbg })
  match s.teams.find t with
  | none => s
  | some x =>
    match x.saveAt with
    | none => s
    | some a => (List.range 4).foldl (fun (s : State) k => s.homeWrite (a + 0x80 + 8 * k) (leBytes 8 (Cells.get 0 x.dbg.cmp k).toNat)) s

end Sys2Proof.Machine
end

