-- ==== Sys2Proof/Machine/Save.lean ====
section
/-! DEFINITION. Saving teams, ending them, and ending launches and contexts (R152 to R158, R227, R303, R314, R390, R415 to
R423, R459). A saved team's registers stay in the tables under the team's number, beside the record that is written of them; what the
record gives no place is held in the team's own fields (log 9). -/

namespace Sys2Proof.Machine

-- Waiting teams (R151, R176) --------------------------------------------------------------------------------------------

/-- The states of R151 in which a fragment lets its team park. -/
def FragSt.idle : FragSt → Bool
  | .waitC => true
  | .waitT => true
  | .stallT => true
  | .join => true
  | .active => false
  | .pending => false
  | .waitL => false
  | .waitB => false

/-- A held READY entry of a group of the team: a live fragment that does not wait (R176). -/
def State.heldReady (s : State) (t : Nat) : Bool :=
  s.groups.all.any (fun e => e.1 / 16 = t && e.2.held.any (fun h => !h.joined))

/-- The team is park-eligible (R151, R176). -/
def State.idleTeam (s : State) (t : Nat) : Bool :=
  let fs := (s.teamFrags t).map (fun (e : Nat × Frag) => e.2)
  fs.all (fun f => f.st.idle) && fs.any (fun f => f.st ≠ .join) && !s.heldReady t && !s.holdsBaton t

/-- The operation was issued by a fragment of the team. -/
def ofTeam (t : Nat) (o : CtrOp) : Bool :=
  match o.who with
  | .frag f _ => f / 1024 = t
  | _ => false

/-- The operation is a wait of the team. -/
def waitOf (t : Nat) (o : CtrOp) : Bool :=
  ofTeam t o && (match o.act with | .wait _ => true | _ => false)

/-- Nothing of the team is on its way: no pending result, no counter operation or answer, no lane copy, no copy whose completion add is
still to be performed, and no ring operation (R32, R277, R303, R418). -/
def State.quiet (s : State) (t : Nat) : Bool :=
  s.groups.all.all (fun e => e.1 / 16 ≠ t || e.2.pends.all.all (fun p => p.2.written))
    && !(s.ops.all.any (fun e => ofTeam t e.2)) && !(s.answers.all.any (fun e => ofTeam t e.2.op))
    && !(s.torn.all.any (fun e => e.2.team = some t)) && !(s.laneCopies.all.any (fun e => e.2.gid / 16 = t)) && !((s.teamCopies t).any (fun e => e.2.adding)) && !(s.issueQ.any (fun c => c.team = t))
    && !(s.teams.all.any (fun e => e.2.rings.all.any (fun r => (r.2.arrived ++ r.2.held).any (fun o => o.who.team = t))))

/-- Every token of the team is zero, but for those that copies stalled on absent pages hold when `stalled` (R152,
R353). -/
def State.tokensZero (s : State) (t : Nat) (stalled : Bool) : Bool :=
  s.groups.all.all (fun e => e.1 / 16 ≠ t || (List.range 8).all (fun k =>
    e.2.tget k = if stalled then (s.copies.all.filter (fun c => c.2.own = .group e.1 k && c.2.stalled)).length else 0))

/-- The engine operation is an MMA.rep, or has stopped at a fault; the others are performed before a save (R314). -/
def EngEnt.saved (e : EngEnt) : Bool :=
  e.failed || (match e.op with | .mma _ _ _ _ rep _ _ => 0 < rep | _ => false)

/-- The engine of the team's core holds no operation of the team, or only such as a save takes with it. -/
def State.engineDone (s : State) (t : Nat) (x : Team) (all : Bool) : Bool :=
  (s.core x.core).engine.all (fun e => e.who.team ≠ t || (!all && e.saved))

-- Leaving a core (R83, R184, R208, R309, R313) -----------------------------------------------------------------------

/-- A queue has a compute team on a core, other than one given. -/
def State.queueRuns (s : State) (k t : Nat) : Bool :=
  s.teams.all.any (fun e => e.1 ≠ t && e.2.kind = .compute && e.2.queue = k && e.2.onCore)

/-- The slice of a queue stands still while no team of it is resident (R374). DEDUCED (log 107). -/
def State.sliceStops (s : State) (t : Nat) (x : Team) : State :=
  if x.kind ≠ .compute ∨ s.queueRuns x.queue t then s
  else s.updQueue x.queue (fun q => match q.sliceStart with
    | none => q
    | some c => { q with sliceStart := none, sliceUsed := s.clock - c })

/-- The slice of a queue that is not suspended runs on, with a team of it resident (R374). -/
def State.sliceRuns (s : State) (k : Nat) : State :=
  s.updQueue k (fun q => if q.sliceStart.isSome ∨ q.suspended then q else { q with sliceStart := some (s.clock - q.sliceUsed), sliceUsed := 0 })

/-- A suspended queue of which no team is pre-empted any more resumes, unless its context is suspended (R372, R374). DEDUCED (log 107). -/
def State.resumeQueue (s : State) (k : Nat) : State :=
  match s.queues.find k with
  | none => s
  | some q =>
    let out := s.teams.all.any (fun e => e.2.kind = .compute && e.2.queue = k && e.2.cause ≠ 0 && (e.2.run = .preempting || e.2.run = .relaunch))
    if !q.suspended ∨ out ∨ (s.ctxs.find q.ctx).any (·.suspended) then s
    else
      let s := s.updQueue k (fun q => { q with suspended := false })
      if s.queueRuns k (2 ^ 64) then s.sliceRuns k else s

/-- A team's banks, latches, engine operations and baton leave its core; the last team of a launch takes the launch's
read-only sectors with it. -/
def State.leaveCore (s : State) (t : Nat) (x : Team) : State :=
  let s := s.sliceStops t x
  let c := s.core x.core
  let banks := c.banks.filter (fun b => b.2.owner ≠ some t)
  let latches := c.latches.map (fun l => (l.1, l.2.map (fun l => if l.team = t then { l with valid := false } else l)))
  let s := s.putCore x.core { c with banks := banks, latches := latches, engine := c.engine.filter (fun e => e.who.team ≠ t) }
  let s := s.quitBaton x.core t
  let rest := (s.coreTeams x.core).any (fun e => e.1 ≠ t && e.2.kind = .compute && e.2.launch = x.launch)
  if rest then s else s.dropRo x.core x.launch

/-- Entries that homes take away, with the retries that the freed entries let in (R224). -/
def State.takeEntries (s : State) (hit : CtrOp → Bool) : List Waiter × State :=
  s.homes.all.foldl (fun (r : List Waiter × State) (e : Nat × Home) =>
    let h := e.2
    let gone := (h.general ++ h.reserved).filter (fun w => hit w.op)
      ++ (h.retry.filter hit).map (fun o => ⟨o, match o.act with | .wait t => t | _ => 0, 0⟩)
    if gone.isEmpty then r
    else
      (r.1 ++ gone, r.2.putHome e.1 (h.without (homeSize e.1) hit))) ([], s)

/-- The team's waiter entries and retries move to the cold lists (R227). -/
def State.toCold (s : State) (t : Nat) : State :=
  let (l, s) := s.takeEntries (waitOf t)
  { s with cold := s.cold ++ l }

-- Save space (R156, R157) -------------------------------------------------------------------------------------------------

/-- The save areas of a team's launch: the GRIDSYNC reserve, or the park pool of its queue, as base and bytes. -/
def State.saveRange (s : State) (x : Team) : Nat × Nat :=
  if x.gsync then ((s.launches.find x.launch).map (·.reserve)).getD (0, 0)
  else match s.queues.find x.queue with
    | some q => (q.pool, q.ppool * pageBytes)
    | none => (0, 0)

/-- A free save area for a team (R157). -/
def State.savePlace (s : State) (x : Team) : Option Nat :=
  let (b, n) := s.saveRange x
  let used := (s.teams.all.filterMap (fun (e : Nat × Team) => e.2.saveAt.map (fun a => (a, e.2.foot)))).filter (fun a => b ≤ a.1 && a.1 < b + n)
  firstFit (b + n) x.foot b (used.foldl insertArea [])

/-- At retention entry, when every team is saved, one whose pool has no room takes an area of its own among the context save areas (R340, R474).
DESIGN CHOICE (log 128). -/
def State.spareArea (s : State) (x : Team) : Option (Nat × State) :=
  match s.power with
  | .entering _ => s.setAside x.foot
  | _ => none

/-- Save areas taken for every team of a list at once, or none (R155). DEDUCED (log 49). -/
def State.takeSpace (s : State) : List Nat → Option State
  | [] => some s
  | t :: l =>
      match s.teams.find t with
      | none => State.takeSpace s l
      | some x =>
        match s.savePlace x, s.spareArea x with
        | some a, _ => State.takeSpace (s.putTeam t { x with saveAt := some a }) l
        | none, some (a, s) => State.takeSpace (s.putTeam t { x with saveAt := some a, extra := true }) l
        | none, none => none

/-- The area that was set aside for a team alone is given back. -/
def State.freeSpare (s : State) (x : Team) : State :=
  if x.extra then s.giveBack ((x.saveAt.getD 0), x.foot) else s

/-- A saved pc or jpc is out of the span that the record can hold (R423). -/
def State.spanBad (s : State) (t : Nat) : Bool :=
  match s.teams.find t with
  | none => false
  | some x =>
    match s.launches.find x.launch with
    | none => false
    | some l =>
      let far (a : Word) : Bool := !((a - l.desc.entry + BitVec.ofNat 64 (2 ^ 34)).toNat < 2 ^ 35)
      (s.teamFrags t).any (fun e => far e.2.pc || (e.2.st = .join && far e.2.jpc))
        || s.groups.all.any (fun e => e.1 / 16 = t && e.2.held.any (fun h => far h.pc || (h.joined && far h.jpc)))

-- The save (R152 steps 5 to 7, R303, R314, R418) ------------------------------------------------------------------------------

/-- A fragment that waits for a place in a service queue withdraws its call (R418). -/
def State.withdrawCall (s : State) (c : Cur) : State :=
  match s.calls.all.find? (fun e => e.2.who = some c) with
  | some (k, x) => ({ s with calls := s.calls.del k } : State).updFrag c (fun f => { f with pc := x.pc, why := .none, st := .pending })
  | none => s

/-- A fragment as a save holds it: outside the active set, with every window closed, and ready to issue again where it only waited to issue. A
STALL-T fragment gives its place up with the others, and is restored without one. DESIGN CHOICE (log 111). -/
def Frag.saved (f : Frag) : Frag :=
  let f : Frag := { f with active := none, ready := none, waitedAt := none, wins := [], acquires := [] }
  match f.st, f.why with
  | .active, _ => { f with st := .pending }
  | .waitL, .results _ => { f with st := .pending, why := .none }
  | .waitL, .acquire => { f with st := .pending, why := .none }
  | .waitL, .engineQueue => { f with st := .pending, why := .none }
  | .waitL, .busy _ => { f with st := .pending, why := .none }
  | .waitL, .pageHere => { f with st := .pending, why := .none }
  | .waitB, .heldBaton => { f with st := .pending, why := .none }
  | _, _ => f

/-- A cancelled copy stops: it leaves the engine and its token falls, without an add (R304). -/
def State.endCancelled (s : State) (id : Nat) : State :=
  match s.copies.find id with
  | some c =>
      let s : State := { s with copies := s.copies.del id, copyQueue := s.copyQueue.upd c.die (fun l => l.filter (· ≠ id)) }
      match c.own with
      | .group gid tok => s.copyGone gid tok id
      | _ => s
  | none => s

/-- The bulk copies of a team leave their engines at a chunk boundary; cancelled ones end (R303, R304). -/
def State.stopCopies (s : State) (t : Nat) : State :=
  (s.teamCopies t).foldl (fun (s : State) (e : Nat × Copy) =>
    if e.2.cancel then s.endCancelled e.1
    else { s with
      copies := s.copies.upd e.1 (fun c => { c with running := false })
      copyQueue := s.copyQueue.upd e.2.die (fun l => l.filter (· ≠ e.1)) }) s

/-- The team's state saved, its resources freed and its context record written (R152, R419). The dirty bytes of its core are written back
first, so that the team meets its own stores on any core (R250). DEDUCED (log 112). -/
def State.saveTeam (s : State) (t : Nat) (run : RunSt) : State :=
  let s := s.endSwitches t
  match s.teams.find t with
  | none => s
  | some x =>
    let c := s.core x.core
    let mine := fun (g : Nat) => g / 16 = t
    let x' : Team := { x with
      run := run, eligible := none
      savedBaton := if x.savedBaton.isSome then x.savedBaton else c.holder.filter mine
      savedQueue := c.batonQ.filter mine
      savedLatches := if x.installed then (c.latches.all.filter (fun l => l.2.valid && l.2.team = t)).map (fun l => (l.1, l.2.comp, l.2.data))
        else x.savedLatches
      savedOps := if x.installed then c.engine.filter (fun e => e.who.team = t) else x.savedOps
      installed := false }
    let s := (s.teamFrags t).foldl (fun (s : State) (e : Nat × Frag) => s.withdrawCall ⟨e.1 / 64, e.1 % 64⟩) ((s.completeTeam t).writeBackAll x.core)
    let s := (s.stopCopies t).toCold t
    let s := (s.settleRings t).leaveCore t x
    let s := s.updTeam t (fun y => { x' with scnt := y.scnt, rings := y.rings })
    ({ s with frags := s.frags.map (fun e => (e.1, e.2.map (fun f => if e.1 / 1024 = t then f.saved else f))) } : State).writeRecord t

-- Ends of teams, launches and contexts ------------------------------------------------------------------------------------------

/-- The waiters held on a team's scratch counters are answered with 0x061 (R198). -/
def State.orphan (s : State) (t : Nat) : State :=
  let hit (o : CtrOp) : Bool := match o.ctr with | .scr k _ => k = t | _ => false
  let (l, s) := s.takeEntries hit
  let cold := s.cold.filter (fun w => hit w.op)
  let s : State := { s with cold := s.cold.filter (fun w => !hit w.op) }
  (l ++ cold).foldl (fun (s : State) (w : Waiter) => s.answer w.op (.trap 0x061)) s

/-- A team's record leaves the device, and its launch has one team fewer (R179). -/
def State.forgetTeam (s : State) (t : Nat) (x : Team) : State :=
  let s := ((s.orphan t).dropTeam t).freeSpare x
  let s : State := { s with issueQ := s.issueQ.filter (fun c => c.team ≠ t) }
  if x.kind = .compute then ({ s with launches := s.launches.upd x.launch (fun l => { l with left := l.left - 1 }) } : State).resumeQueue x.queue
  else s

/-- A team terminated at instruction boundaries (R415): copies cancelled, engine operations and rings discarded, waiters
removed (R223). -/
def State.terminateTeam (s : State) (t : Nat) : State :=
  match s.teams.find t with
  | none => s
  | some x =>
    let own (o : CopyFor) : Bool := match o with | .group gid _ => gid / 16 = t | _ => false
    let ids := (s.teamCopies t).map (fun (e : Nat × Copy) => e.1)
    let s : State := { s with
      copies := s.copies.filter (fun e => !(e.2.any (fun c => own c.own)))
      copyQueue := s.copyQueue.map (fun e => (e.1, e.2.map (fun l => l.filter (fun i => !ids.contains i))))
      laneCopies := s.laneCopies.filter (fun e => !(e.2.any (fun c => c.gid / 16 = t)))
      calls := s.calls.filter (fun e => !(e.2.any (fun c =>
        (c.num = faultCall && c.team = t && c.launch.isNone) || c.who.any (fun w => w.team = t)))) }
    let s := s.withdraw (waitOf t)
    let s := if x.onCore then s.leaveCore t x else s
    s.forgetTeam t x

/-- A launch ends early with a code: its teams are terminated and no other is dispatched (R415). -/
def State.terminateLaunch (s : State) (l : Nat) (code : Code) : State :=
  let ts := s.teams.all.filter (fun e => e.2.kind ≠ .system && e.2.launch = l)
  let s := ts.foldl (fun (s : State) (e : Nat × Team) => s.terminateTeam e.1) s
  let s : State := { s with calls := s.calls.filter (fun e => !(e.2.any (fun c => c.launch = some l))) }
  { s with launches := s.launches.upd l (fun x => { x with
      failed := x.failed.orElse (fun _ => some code), nextTeam := x.total, left := 0, staged := [], charged := [], unplaced := [] }) }

/-- The index of the LAUNCH or GRAPH packet that a launch belongs to (R416). -/
def State.packetOfLaunch (s : State) (x : Launch) : Nat :=
  match x.own with
  | .packet _ i => i
  | .node g _ => ((s.graphs.find g).map (·.idx)).getD 0

/-- A trap ends a launch (R415): FCAUSE, FPC and FIDX are written, and its teams are terminated. FAULT is counted by
the trap's own entry. -/
def State.failLaunch (s : State) (l : Nat) (code : Code) (pc : Word) : State :=
  match s.launches.find l with
  | none => s
  | some x => (s.queueCause x.queue code pc (s.packetOfLaunch x)).terminateLaunch l code

/-- A launch that has not been admitted when its context ends: its packet is retired, or its node ends, without its
completion add (R414, R415). -/
def State.abandonLaunch (s : State) (l : Nat) (code : Code) : State :=
  match s.launches.find l with
  | none => s
  | some x =>
    let s : State := { s.terminateLaunch l code with launches := s.launches.del l }
    let s := s.giveBack x.spill |>.giveBack x.reserve |>.giveBack x.cold
    match x.own with
    | .packet q _ => (s.queueCause q code 0 (s.packetOfLaunch x)).retire q false
    | .node g j => s.graphFault g j code true

/-- The leaf of a page written as a whole (R356, R441). -/
def State.setLeaf (s : State) (hub pasid va : Nat) (h : Word → Word) : State :=
  match s.walk hub pasid va with
  | .leaf e at' _ _ => s.homeWrite at' (leBytes 8 (h e).toNat)
  | .fault _ => s

/-- A doorbell page that Vetiver mapped is unmapped. DESIGN CHOICE (log 72). -/
def State.unmapDoorbell (s : State) (hub pasid va : Nat) : State :=
  match s.slotOf hub pasid va with
  | some (a, 1) => (s.homeWrite a (leBytes 8 0)).tlbDropRange pasid (alignDown va pageBytes) 1
  | _ => s

/-- The driver of a function aborts the commands of a context that ended (R459 step 2). -/
def State.sendAbort (s : State) (fn ctx kind : Nat) : State :=
  let s := s.send { sub := fnSub fn, addr := fn, data := some (leBytes 8 ctx), size := 8 }
  { s with
    reqs := s.reqs.put s.nextId { kind := .driver fn kind none, sub := fnSub fn, addr := ctx, since := s.clock, team := 0, pc := 0, va := 0 }
    nextId := s.nextId + 1 }

/-- The I/O of a PASID whose context ended is closed (R459 steps 1 to 3): its DBP bindings and endpoint queues go, its
leased pages leave the address space into quarantine, and ATSINV runs over them. -/
def State.closeIo (s : State) (ctx : Nat) (pasid hub : Nat) : State :=
  let old := s
  let leases := s.ioLeases.all.filter (fun e => e.2.pasid = pasid)
  let vas := (leases.flatMap (fun (e : Nat × IoLease) => (List.range (e.2.bytes / pageBytes)).map (fun i => e.2.va + i * pageBytes))).eraseDups
  let pages := vas.filterMap (fun va => match s.walk hub pasid va with
    | .leaf e _ size table => if pteP e then some (va, (entryOf pasid va e size table).pa va) else none
    | .fault _ => none)
  let s : State := { s with
    bindings := s.bindings.filter (fun e => !(e.2.any (fun b => b.pasid = pasid)))
    ioLeases := s.ioLeases.filter (fun e => !(e.2.any (fun l => l.pasid = pasid)))
    funcs := s.funcs.map (fun e => (e.1, e.2.map (fun f => { f with queues := f.queues.filter (fun q => q.ctx ≠ ctx) })))
    quarantine := s.quarantine.put ctx { ctx := ctx, pasid := pasid, pages := pages, leases := leases.map (fun (e : Nat × IoLease) => e.2.va) } }
  let s := (old.funcs.all.filter (fun e => e.2.queues.any (fun q => q.ctx = ctx))).foldl (fun (s : State) (e : Nat × Func) =>
    let mine := e.2.queues.filter (fun q => q.ctx = ctx)
    let s := (mine.flatMap (·.dbs)).foldl (fun (s : State) va => s.unmapDoorbell hub pasid va) s
    s.sendAbort e.1 ctx (if mine.any (fun q => q.kind = 3) then 0x134 else 0x136)) s
  let s := vas.foldl (fun (s : State) va => (s.setLeaf hub pasid va (fun _ => 0)).tlbDropRange pasid va 1) s
  s.funcs.all.foldl (fun (s : State) (e : Nat × Func) =>
    leases.foldl (fun (s : State) (l : Nat × IoLease) =>
      if e.2.given.any (fun g => g.1 = pasid && l.2.va / pageBytes ≤ g.2 && g.2 < (l.2.va + l.2.bytes) / pageBytes) then
        s.sendInval e.1 (.atsInv none e.1 none) 0 0 (BitVec.ofNat 64 l.2.va) pasid (l.2.bytes / pageBytes) false
      else s) s) s

/-- A context ends with a code (R414, R459): every launch of it is terminated, the end is logged, FAULT of its queues rises,
and its I/O is closed. DEDUCED (log 50). -/
def State.endContext (s : State) (ctx : Nat) (code : Code) (e : FaultEntry := {}) : State :=
  match s.ctxs.find ctx with
  | none => s
  | some c =>
    if c.killed then s
    else
      let s : State := { s with ctxs := s.ctxs.put ctx { c with killed := true } }
      let ls := s.launches.all.filter (fun l => l.2.ctx = ctx)
      let s := ls.foldl (fun (s : State) (l : Nat × Launch) =>
        if l.2.step = .admitted then s.failLaunch l.1 code e.pc else s.abandonLaunch l.1 code) s
      let hub := (c.queues.head?.bind s.queues.find).elim 0 (·.hub)
      let s := s.logEntry hub { e with pasid := c.pasid, ctx := ctx, cend := true, lend := false, res := false, code := code }
      let s := c.queues.foldl (fun (s : State) k => s.queueFault k) s
      s.closeIo ctx c.pasid hub

end Sys2Proof.Machine
end

