-- ==== Sys2Proof/Machine/Life.lean ====
section
/-! DEFINITION. The lives of teams: placement, parking, pre-emption, relaunch, ends, trap stops, watchdogs and soft errors
(R151 to R159, R176, R179, R187, R314, R372 to R374, R395, R415, R416, R426). -/

namespace Sys2Proof.Machine

-- Placement (R141, R143, R155, R376) ----------------------------------------------------------------------------------

/-- What a team needs of a core. -/
structure Need where
  ctx : Nat
  groups : Nat
  blocks : Nat
  banks : Nat
  tiles : Nat
  pool : Nat := 0
deriving DecidableEq, Repr

/-- The sum over a list of teams. -/
def sumOf (l : List Team) (h : Team → Nat) : Nat := (l.map h).foldl (· + ·) 0

/-- Free pool slots of a core. -/
def State.freePool (s : State) (k : Nat) : List Nat :=
  let used := s.frags.all.filterMap (fun (e : Nat × Frag) =>
    if (s.teams.find (e.1 / 1024)).any (fun t => t.core = k && t.onCore) then some (e.1 % 64) else none)
  (List.range (fragSlots k)).filter (fun i => homeSlots k ≤ i && !used.contains i)

/-- Free group slots of a core: those of no group that lives on it (R143). Groups take them lowest first. DESIGN CHOICE (log 113). -/
def State.freeSlots (s : State) (k : Nat) : List Nat :=
  let used := s.groups.all.filterMap (fun (e : Nat × Group) =>
    if (s.teams.find (e.1 / 16)).any (fun t => t.core = k && t.onCore && !t.ended.contains (e.1 % 16)) then some e.2.slot else none)
  (List.range (homeSlots k)).filter (fun i => !used.contains i)

/-- The groups of a team that have not ended (R143, R179). -/
def Team.live (t : Team) : Nat := t.groups - t.ended.eraseDups.length

/-- A core can take a team (R376, R176). -/
def State.fits (s : State) (k : Nat) (n : Need) : Bool :=
  let ts := (s.coreTeams k).map (fun (e : Nat × Team) => e.2)
  ts.all (fun t => t.ctx = n.ctx) && sumOf ts Team.live + n.groups ≤ 32 && sumOf ts Team.blocks + n.blocks ≤ 192
    && sumOf ts (·.bankCount) + n.banks ≤ 16 && sumOf ts (·.ntiles) + n.tiles ≤ 16
    && n.pool ≤ (s.freePool k).length

/-- The cores of a cols × rows rectangle whose top left core is k, row by row, within one field (R139, R15). -/
def rectangle (k cols rows : Nat) : Option (List Nat) :=
  if k % 12 + cols ≤ 12 ∧ k % 96 / 12 + rows ≤ 8 ∧ k < 1536 then
    some ((List.range rows).flatMap (fun i => (List.range cols).map (fun j => k + 12 * i + j)))
  else none

/-- FIELDS of a QCB allows a field (R364). -/
def fieldAllowed (fields f : Nat) : Bool := fields = 0 || fields / 2 ^ f % 2 = 1

/-- A cluster fits the rectangle at a core: its cores in cluster order; a team that has ended needs nothing (R155, R376). -/
def State.fitsAt (s : State) (fields k : Nat) (clu : Nat × Nat) (needs : List (Option Need)) : Option (List Nat) :=
  match rectangle k clu.1 clu.2 with
  | none => none
  | some l => if fieldAllowed fields (fieldOfCore k) && (l.zip needs).all (fun e => e.2.all (s.fits e.1)) then some l else none

/-- The cores at which a cluster could be placed. -/
def State.places (s : State) (fields : Nat) (clu : Nat × Nat) (needs : List (Option Need)) : List Nat :=
  (List.range 1536).filter (fun k => (s.fitsAt fields k clu needs).isSome)

/-- What a saved team needs of a core: of the pool, a slot for each fragment that does not take a home slot (R176). DEDUCED (log 44). -/
def State.needOf (s : State) (t : Nat) (x : Team) : Need :=
  let pool := (s.groupsOf t).map (fun g => (s.fragsOf g).length - 1)
  { ctx := x.ctx, groups := x.live, blocks := x.blocks, banks := x.bs + x.br, tiles := x.ntiles, pool := pool.foldl (· + ·) 0 }

/-- The teams of a team's cluster by cluster core index. -/
def Team.cluster (x : Team) (t : Nat) : List Nat := if x.peers.isEmpty then [t] else x.peers

/-- What the teams of a saved cluster need, by cluster core index; none for one that has ended (R155). -/
def State.clusterNeeds (s : State) (t : Nat) (x : Team) : List (Option Need) :=
  let ms := s.members t
  (x.cluster t).map (fun k => if ms.contains k then (s.teams.find k).map (s.needOf k) else none)

/-- The scope of the acquire that a launch's dependences ask at a core; none without a dependence (R394). -/
def depScope (deps : Option (List Nat)) (k : Nat) : Option Nat :=
  match deps with
  | none => some 5
  | some [] => none
  | some l =>
      if l.all (fun f => f = fieldOfCore k) then some 3
      else if l.all (fun f => f / 2 = dieOfCore k) then some 4 else some 5

/-- A team takes a core's banks (R183, R184): the ways they leave are written back first. -/
def State.takeBanks (s : State) (t : Nat) (x : Team) (k : Nat) : State :=
  let s := s.giveWays k (x.bs + x.br)
  let modes := (List.range x.bs).map (BankMode.scratch t)
    ++ (List.replicate (ringBanks (x.rings.all.map (fun (e : Nat × Ring) => e.2.base))) (BankMode.ring t 8 0))
    ++ x.rings.all.flatMap (fun (e : Nat × Ring) => (List.range e.2.added).map (fun i => BankMode.ring t e.1 (i + 1)))
  s.putCore k (modes.foldl (fun (c : Core) m => c.switchBank .way m) (s.core k))

-- Relaunch (R154, R176, R303, R314, R395) ------------------------------------------------------------------------------------

/-- The team, and every team of its cluster, is queued for relaunch (R154, R155). -/
def State.requeue (s : State) (t : Nat) : State :=
  (s.members t).foldl (fun (s : State) k => s.updTeam k (fun x => if x.run = .parked then { x with run := .relaunch } else x)) s

/-- New slots of a team's fragments on a core, as old and new fragment numbers: the lowest saved slot of a group takes its
home slot, the others take pool slots in order (R176). -/
def slotPlan : List (Nat × List Nat) → List Nat → List Nat → List (Nat × Nat)
  | [], _, _ => []
  | (_, []) :: l, homes, pool => slotPlan l homes pool
  | (g, f :: rest) :: l, homes, pool =>
      (f, 64 * g + homes.headD 0) :: (rest.zip pool).map (fun e => (e.1, 64 * g + e.2)) ++ slotPlan l homes.tail (pool.drop rest.length)

/-- A fragment number after a relaunch. -/
def renamed (l : List (Nat × Nat)) (f : Nat) : Nat := ((l.find? (fun e => e.1 = f)).map (·.2)).getD f

/-- An operation whose fragment has moved. -/
def CtrOp.renamed (l : List (Nat × Nat)) (o : CtrOp) : CtrOp :=
  match o.who with
  | .frag f p => { o with who := .frag (Machine.renamed l f) p }
  | _ => o

/-- Operations, answers and waiters of fragments that have moved. -/
def State.renameOps (s : State) (l : List (Nat × Nat)) : State :=
  let w (x : Waiter) : Waiter := { x with op := x.op.renamed l }
  { s with
    ops := s.ops.map (fun e => (e.1, e.2.map (·.renamed l)))
    answers := s.answers.map (fun e => (e.1, e.2.map (fun (a : Ans) => { a with op := a.op.renamed l })))
    cold := s.cold.map w
    homes := s.homes.map (fun e => (e.1, e.2.map (fun (h : Home) =>
      { general := h.general.map w, reserved := h.reserved.map w, retry := h.retry.map (·.renamed l) }))) }

/-- The team's waiter entries return from the cold lists to their homes (R154, R227). An entry whose home has no free general entry stays on
its cold list, from which R226 wakes it all the same. DEDUCED (log 114). -/
def State.fromCold (s : State) (t : Nat) : State :=
  (s.cold.filter (fun w => waitOf t w.op)).foldl (fun (s : State) (w : Waiter) =>
    let hn := s.homeOf w.op.ctr
    let h := s.home hn
    if h.general.length < (homeSize hn).1 then
      { s.putHome hn { h with general := h.general ++ [w] } with cold := s.cold.erase w }
    else s) s

/-- A saved fragment as it resumes: PENDING and ready, or in its WAIT state (R154). -/
def Frag.resumed (f : Frag) (clock : Nat) : Frag :=
  match f.st with
  | .pending => { f with ready := some (clock + 1) }
  | _ => f

/-- A launch whose team takes a core of a field (R373, R394). -/
def Launch.ranOn (l : Launch) (field clock : Nat) : Launch :=
  { l with fieldsRan := if l.fieldsRan.contains field then l.fieldsRan else l.fieldsRan ++ [field], waits := clock }

/-- A team restored onto a core (R154, R176), from its record where it has one (R417). It acquires at DEV, which takes in the acquire of its
dependences (R395), the waits that were answered while it was away (R236) and its own earlier accesses (R250). DEDUCED (log 112). -/
def State.restoreTeam (s : State) (t k : Nat) : State :=
  let s := s.readRecord t
  match s.teams.find t with
  | none => s
  | some x =>
    let slots := s.freeSlots k
    let gs := s.groupsOf t
    let plan := slotPlan (gs.map (fun g => (g, (s.fragsOf g).map (·.1)))) slots (s.freePool k)
    let live := gs.filter (fun g => !x.ended.contains (g % 16))
    let mine := s.teamFrags t
    let s := (s.takeBanks t x k).freeSpare x
    let s : State := { s with
      frags := mine.foldl (fun (m : Tab Frag) (e : Nat × Frag) => m.put (renamed plan e.1) (e.2.resumed s.clock))
        (s.frags.filter (fun e => e.1 / 1024 ≠ t))
      groups := (live.zip slots).foldl (fun (m : Tab Group) e => m.upd e.1 (fun g => { g with slot := e.2 })) s.groups }
    let s := s.renameOps plan
    let c := s.core k
    let s := s.putCore k { c with batonQ := x.savedBaton.toList ++ c.batonQ ++ x.savedQueue.filter (fun g => some g ≠ x.savedBaton) }
    let s := s.putTeam t { x with core := k, run := .resident, saveAt := none, extra := false, savedQueue := [], eligible := none, parkNow := false
                                  cause := 0, trap := {} }
    let copies := (s.teamCopies t).map (fun (e : Nat × Copy) => e.1)
    let die := dieOfCore k
    let s : State := { s with
      copies := copies.foldl (fun (m : Tab Copy) i => m.upd i (fun c => { c with die := die, stalled := false, failed := false })) s.copies
      copyQueue := if copies.isEmpty then s.copyQueue else s.copyQueue.put die ((s.copyQueue.find die).getD [] ++ copies)
      launches := s.launches.upd x.launch (fun l => l.ranOn (fieldOfCore k) s.clock) }
    let s := s.acquire k (some 5)
    let s := gs.foldl (fun (s : State) g => s.wakeTokens g) s
    let s := if x.cause = 0 then s
      else s.updQueue x.queue (fun q => { q with suspended := false, sliceStart := if q.suspended then none else q.sliceStart, sliceUsed := 0 })
    s.sliceRuns x.queue

-- Parking (R151 to R158, R227, R353) -----------------------------------------------------------------------------------------------

/-- A fragment of the team waits in PARK (R431). -/
def State.parkWaits (s : State) (t : Nat) : Bool := (s.teamFrags t).any (fun e => e.2.why = .park)

/-- The park threshold of a team has passed, or counts as passed (R151, R431). -/
def State.dueToPark (s : State) (t : Nat) : Bool :=
  match s.teams.find t with
  | none => false
  | some x =>
    s.idleTeam t && (s.parkWaits t || (match x.eligible with | some c => c + x.thresh * ckUs ≤ s.clock | none => false))

/-- A team of the cluster is under a fault park (R353). -/
def State.faultParking (s : State) (ms : List Nat) : Bool := ms.any (fun k => (s.teams.find k).any (·.parkNow))

/-- A fault park that a baton of the cluster holds off: the teams stay resident, and the fragments whose page has come go on (R353). -/
def State.unpark (s : State) (ms : List Nat) : State :=
  let s := ms.foldl (fun (s : State) k => s.updTeam k (fun y => { y with parkNow := false })) s
  (ms.flatMap s.teamFrags).foldl (fun (s : State) (f : Nat × Frag) => if f.2.why = .pageHere then s.wakes ⟨f.1 / 64, f.1 % 64⟩ else s) s

/-- PARK_THRESHOLD (R151, R155, R353, R431): the park sequence begins. DEDUCED (log 48). -/
def execParkThreshold (team : Nat) (s : State) : Out :=
  .next (match s.teams.find team with
    | none => s
    | some x =>
      let ms := s.members team
      let here := ms.all (fun k => (s.teams.find k).any (fun y => y.run = .resident))
      if x.kind ≠ .compute ∨ !here then s
      else if s.faultParking ms ∧ s.batonHolds ms then s.unpark ms
      else if s.faultParking ms ∨ ms.all (fun k => s.dueToPark k) then
        ms.foldl (fun (s : State) k => s.updTeam k (fun y => { y with run := .parking 1 })) s
      else s)

/-- Teams of an abandoned park sequence run on; the fragments whose tokens have fallen in the meantime resume (R152, R154). -/
def State.stayOn (s : State) (ms : List Nat) (h : Team → Team) : State :=
  let s := ms.foldl (fun (s : State) k => s.updTeam k (fun y => h { y with run := .resident })) s
  (ms.flatMap s.groupsOf).foldl State.wakeTokens s

/-- The fragment waits for a page, or for the end of its fault park (R353). -/
def WaitFor.paged : WaitFor → Bool
  | .page _ => true
  | .pageHere => true
  | _ => false

/-- The park sequence failed for want of save space (R155, R157); a fault park ends the launch with 0x0B0. -/
def State.parkFails (s : State) (ms : List Nat) (fault : Bool) : State :=
  let s := s.stayOn ms (fun y => { y with nfail := min 0xFF (y.nfail + 1), eligible := y.eligible.map (fun _ => s.clock) })
  let s : State := { s with frags := s.frags.map (fun e => (e.1, e.2.map (fun f =>
    if ms.contains (e.1 / 1024) ∧ f.why = .park then { f with why := .answer } else f))) }
  if fault then
    match (ms.flatMap s.teamFrags).find? (fun e => e.2.why.paged) with
    | some (fid, f) => s.trapTeam ⟨fid / 64, fid % 64⟩ f.pc { code := 0x0B0 }
    | none => s
  else s

/-- Every fragment of the parked cluster waits on scratch counters of the cluster, or in JOIN: nothing can wake it
(R227). -/
def State.unwakeable (s : State) (ms : List Nat) : Bool :=
  let own (o : CtrOp) : Bool := match o.ctr with | .scr k _ => ms.contains k | _ => false
  ms.all (fun t =>
    !s.heldReady t && (s.teamFrags t).all (fun e => e.2.st = .join ||
      (e.2.st = .waitC && (s.cold.filter (fun w => (match w.op.who with | .frag f _ => f == e.1 | _ => false))).all (fun w => own w.op))))
    && ms.any (fun t => (s.teamFrags t).any (fun e => e.2.st = .waitC))
    && !(s.copies.all.any (fun e => ms.contains e.2.team && (match e.2.own with | .group _ _ => true | _ => false)))
    && !(s.laneCopies.all.any (fun e => ms.contains (e.2.gid / 16)))

/-- A trap that ends a launch without a trapping fragment: logged, counted in FAULT, and its teams terminated (R227,
R414, R415). -/
def State.endLaunch (s : State) (t : Nat) (code : Code) : State :=
  match s.teams.find t with
  | none => s
  | some x =>
    let ((pc, va), s) := s.trapValues { code := code, decode := true } 0
    let (data, s) : Word × State := (Config.freeWord s.fresh, { s with fresh := s.fresh + 1 })
    let s := s.logEntry (hubOfCore x.core)
      { queue := x.queue % 4096, pasid := x.pasid, ctx := x.ctx, lend := true, code := code, lin := x.lin, pc := pc, va := va, data := data
        record := x.saveAt.getD 0, packet := x.packet, team := some t }
    s.failLaunch x.launch code pc

/-- A token set on which a fragment of a parked team waits is already zero (R154). -/
def State.tokenWoken (s : State) (t : Nat) : Bool :=
  (s.teamFrags t).any (fun e => match e.2.why with
    | .tokens m => (s.groups.find (e.1 / 64)).any (fun g => g.tokensZero m)
    | _ => false)

/-- The teams of a cluster are saved, and those that something has woken are queued for relaunch (R152 to R155, R227). -/
def State.parkAll (s : State) (ms : List Nat) (fault : Bool) : State :=
  let came := (ms.flatMap s.teamFrags).any (fun e => e.2.why = .pageHere)
  let s := ms.foldl (fun (s : State) k => (s.saveTeam k .parked).updTeam k (fun y => { y with npark := min 0xFFFF (y.npark + 1), parkNow := false })) s
  if !fault ∧ s.unwakeable ms then s.endLaunch (ms.headD 0) 0x0B9
  else ms.foldl (fun (s : State) k => if came || s.tokenWoken k then s.requeue k else s) s

/-- PARK_SAVE (R152): an abandonment, a wait for what is outstanding, or the save. DEDUCED (log 48). -/
def execParkSave (team : Nat) (s : State) : Out :=
  .next (match s.teams.find team with
    | none => s
    | some x =>
      let ms := s.members team
      let parking := ms.all (fun k => (s.teams.find k).any (fun y => y.run = .parking 1))
      let fault := s.faultParking ms
      if !parking then
        (if x.run = .parking 1 then s.stayOn [team] id else s)
      else if !fault ∧ !ms.all s.idleTeam then s.stayOn ms (fun y => { y with eligible := none })
      else if !ms.all (fun k => s.quiet k && s.tokensZero k fault && (s.teams.find k).any (fun y => s.engineDone k y true)) then s
      else if ms.any s.spanBad then s.endContext x.ctx 0x17A
      else match s.takeSpace ms with
        | none => s.parkFails ms fault
        | some s => s.parkAll ms fault)

-- Pre-emption (R314, R374, R390, R417) -------------------------------------------------------------------------------------------------

/-- Numbers put into an ascending list. -/
def insertNat (l : List Nat) (n : Nat) : List Nat := l.takeWhile (· < n) ++ n :: l.dropWhile (· ≤ n)

/-- The staging of a launch is cancelled (R390): its charges end, and its teams that are placed and not dispatched lose their places, and
their scratch, and are placed again later. -/
def State.cancelStaging (s : State) (launch : Nat) : State :=
  let ts := s.teams.all.filter (fun e => e.2.kind = .compute && e.2.launch = launch && e.2.run = .placed)
  let s := ts.foldl (fun (s : State) (e : Nat × Team) => (s.leaveCore e.1 e.2).dropTeam e.1) s
  { s with launches := s.launches.upd launch (fun l => { l with
      paid := l.paid.filter (fun x => !l.charged.contains x), charged := [], staged := []
      unplaced := ts.foldl (fun (u : List Nat) e => insertNat u e.2.lin) l.unplaced }) }

/-- A pre-emption of some teams begins, each with its whole cluster, and with the SYSTEM code that its record will hold: 0x144 for a team that goes
only as a member of another's cluster (R413). The staging of their launches is cancelled (R374, R390, R417). DEDUCED (log 132). -/
def State.preemptTeams (s : State) (ts : List Nat) (cause : Code) : State :=
  ts.foldl (fun (s : State) t =>
    let s := ((s.teams.find t).map (fun x => s.cancelStaging x.launch)).getD s
    (s.members t).foldl (fun (s : State) k => s.updTeam k (fun x =>
      if x.run = .resident ∧ x.kind = .compute then { x with run := .preempting, cause := if ts.contains k then cause else 0x144 } else x)) s) s

/-- A pre-emption of one team's cluster begins. -/
def State.preemptTeam (s : State) (t : Nat) (cause : Code) : State := s.preemptTeams [t] cause

/-- The save of a cluster that is being pre-empted (R303, R314, R418). Without save space its teams stay resident. DEDUCED (log 49). -/
def State.preemptSave (s : State) (t : Nat) : State :=
  let ms := s.members t
  let going := ms.filter (fun k => (s.teams.find k).any (fun y => y.run = .preempting))
  let busy := ms.any (fun k => (s.teams.find k).any (fun y => y.run = .resident || y.run = .parking 1))
  if going.isEmpty ∨ busy then s
  else if !going.all (fun k => s.quiet k && (s.teams.find k).any (fun y => s.engineDone k y false)) then s
  else if going.any s.spanBad then s.endContext (((s.teams.find t).map (·.ctx)).getD 0) 0x17A
  else match s.takeSpace going with
    | none => going.foldl (fun (s : State) k => s.updTeam k (fun y => { y with run := .resident, cause := 0 })) s
      |>.resumeQueue (((s.teams.find t).map (·.queue)).getD (2 ^ 64))
    | some s =>
      let s := going.foldl (fun (s : State) k => (s.updTeam k (fun y => { y with trap := { code := y.cause } })).saveTeam k .relaunch) s
      if s.unwakeable ms then s.endLaunch t 0x0B9 else s

/-- A queue is suspended (R372): a CWAIT packet withdraws its waiter, and copies of packets and nodes stop at a chunk
boundary; CWAIT nodes wait afresh on resumption (R408). -/
def State.suspendQueue (s : State) (k : Nat) : State :=
  match s.queues.find k with
  | none => s
  | some q =>
    let gs := (s.graphs.all.filter (fun e => e.2.queue = k)).map (fun (e : Nat × Graph) => e.1)
    let mine (o : CtrOp) : Bool := match o.who, o.act with | .packet x, _ => x = k | .node g _, .wait _ => gs.contains g | _, _ => false
    let waited := (s.homes.all.flatMap (fun (e : Nat × Home) => (e.2.general ++ e.2.reserved).map (·.op) ++ e.2.retry)
      ++ (s.cold.map (·.op)) ++ (s.ops.all.map (fun (e : Nat × CtrOp) => e.2)) ++ (s.answers.all.map (fun (e : Nat × Ans) => e.2.op))).filter mine
    let s := s.withdraw mine
    let s := waited.foldl (fun (s : State) (o : CtrOp) =>
      match o.who with
      | .node g j => s.updGraph g (fun x => { x with nodes := x.nodes.upd j (fun n => { n with due := true, asked := some o }) })
      | _ => s) s
    s.updQueue k (fun q' => { q' with suspended := true, sliceStart := none, sliceUsed := 0, step := if q.step = .waiting then .waitAgain else q'.step })

/-- PREEMPT (R374, R390): the team's cluster is pre-empted whole; staging of its launch that is in flight is cancelled.
A pre-emption for priority suspends the team's queue (R372). -/
def execPreempt (team : Nat) (cause : Fin 8) (s : State) : Out :=
  .next (match s.teams.find team with
    | none => s
    | some x =>
      if x.kind ≠ .compute then s
      else if x.run = .preempting then s.preemptSave team
      else if x.run = .resident ∨ x.run = .placed then
        let s := s.preemptTeam team (codeOf 5 0 cause.val)
        if cause = 0 then s.suspendQueue x.queue else s
      else s)

/-- The priority of a queue. -/
def State.prioOf (s : State) (k : Nat) : Nat := ((s.queues.find k).map (·.prio)).getD 0

-- Ends and stops (R179, R415) ------------------------------------------------------------------------------------------------------------

/-- TEAM_END (R179): every group has ended, every token is zero, and the engine holds nothing of the team. -/
def execTeamEnd (team : Nat) (s : State) : Out :=
  .next (match s.teams.find team with
    | none => s
    | some x =>
      if (s.groupsOf team).all s.groupDone && s.tokensZero team false && s.engineDone team x true && (s.teamCopies team).isEmpty
          && x.run ≠ .stopped && x.run ≠ .trapped && x.kind ≠ .prologue then
        let s := s.settleRings team
        (s.leaveCore team x).forgetTeam team x
      else s)

/-- The injection codes (R411). DEDUCED (log 60). -/
def injection (c : Code) : Bool :=
  let n := c.toNat
  let within (a b : Nat) : Bool := a ≤ n && n ≤ b
  within 0x013 0x017 || within 0x01A 0x01F || n = 0x03F || n = 0x057 || within 0x072 0x077 || within 0x086 0x087 || within 0x08B 0x08F
    || within 0x093 0x097 || within 0x09A 0x09F || n = 0x0A7 || within 0x0AE 0x0AF || within 0x0BC 0x0BF || within 0x0C2 0x0C7
    || within 0x0D4 0x0D7 || within 0x0DE 0x0DF || within 0x0E4 0x0E7 || within 0x0EE 0x0EF || within 0x0F1 0x0F7 || within 0x0FC 0x0FF

/-- The team may be resumed after a trap of this code (R414). -/
def resumable (c : Code) : Bool := (0x030 ≤ c.toNat && c.toNat ≤ 0x03F) || injection c
/-- A trap of this code ends the context (R414). -/
def endsContext (c : Code) : Bool := c = 0x0B8 || (0x178 ≤ c.toNat && c.toNat ≤ 0x17F)

/-- The copy or engine operation whose trap was recorded is gone, and its token falls; others stay, stopped at their
faults (R301, R415). -/
def State.dropTrapped (s : State) (t : Nat) (x : Team) : State :=
  if x.trap.atIssue then s
  else
    let s : State := match (s.teamCopies t).find? (fun e => e.1 = x.trap.seq && e.2.failed) with
      | some (id, _) => s.endCancelled id
      | none => s
    let c := s.core x.core
    match c.engine.find? (fun e => e.who.team = t && e.failed && e.id = x.trap.seq) with
    | some e =>
        let s := (s.putCore x.core { c with engine := c.engine.erase e }).wakeEngine x.core
        (match e.op with
          | .mma _ _ _ _ _ _ tok => s.tokFall e.who.gid tok
          | _ => s)
    | none => s

/-- The fault-log entry of a stopped team (R416). -/
def Team.entry (t : Nat) (x : Team) : FaultEntry :=
  let c := x.trap.code
  { queue := x.queue % 4096, pasid := x.pasid, ctx := x.ctx, cend := endsContext c, lend := !resumable c && !endsContext c, res := resumable c
    code := c, lin := x.lin, pc := x.trap.pc, va := x.trap.va, data := x.trap.data, record := x.saveAt.getD 0, packet := x.packet
    clock := x.trap.ck, team := some t }

/-- The team as its trap leaves it: saved, or resident where no save area is free (R415 step 4). -/
def State.stopSave (s : State) (t : Nat) : State :=
  match s.takeSpace [t] with
  | some s => s.saveTeam t .trapped
  | none =>
      let s := (s.stopCopies t).updTeam t (fun x => { x with run := .trapped, eligible := none })
      { s with frags := s.frags.map (fun e => (e.1, e.2.map (fun f => if e.1 / 1024 = t then f.saved else f))) }

/-- FCAUSE, FPC and FIDX of a trap that ends its launch, written before its entry is logged (R415 step 5). -/
def State.stopCause (s : State) (x : Team) : State :=
  match s.launches.find x.launch with
  | none => s
  | some l => if resumable x.trap.code then s else s.queueCause l.queue x.trap.code x.trap.pc (s.packetOfLaunch l)

/-- A team that a trap has stopped, with its entry written: its launch ends, unless it may be resumed (R414, R415). A team whose entry is not
written yet stays stopped (R416). -/
def State.stopEnds (s : State) (t : Nat) : State :=
  match s.teams.find t with
  | none => s
  | some x =>
    if x.run ≠ .trapped ∨ x.unlogged then s
    else if resumable x.trap.code then s.resumeQueue x.queue else s.terminateLaunch x.launch x.trap.code

/-- TEAM_STOP (R415): the team stops at instruction boundaries with nothing of it on its way, is saved and logged, and
its launch or context ends where the code says so (R414). -/
def execTeamStop (team : Nat) (s : State) : Out :=
  .next (match s.teams.find team with
    | none => s
    | some x =>
      if x.run = .trapped then s.stopEnds team
      else if x.run ≠ .stopped ∨ !s.quiet team ∨ !s.engineDone team x false then s
      else
        let c := x.trap.code
        let s := s.dropTrapped team x
        let fid := 64 * (16 * team + x.trap.grp) + x.trap.slot
        let s : State := if c.cls = 0 ∧ c.kind = 6 ∧ x.trap.atIssue then
            { s with frags := s.frags.upd fid (fun f => { f with pc := x.trap.pc + 8 }) }
          else s
        let s := s.updTeam team (fun y => { y with dbg := { y.dbg with skip := c.cls = 0 && c.kind = 7 } })
        if s.spanBad team then s.endContext x.ctx 0x17A (Team.entry team x)
        else
          let s := s.stopSave team
          let e := Team.entry team ((s.teams.find team).getD x)
          if endsContext c then s.endContext x.ctx c e
          else
            let s := (s.stopCause x).updTeam team (fun y => { y with unlogged := true })
            (s.logEntry (hubOfCore x.core) e).stopEnds team)

/-- FAULT_LOG_FULL_TIMEOUT (R416): the contexts of the teams whose entries are held end with 0x17F. -/
def execFaultLogFullTimeout (hub : Nat) (s : State) : Out :=
  .next (match (s.hub hub).fullSince with
    | none => s
    | some c =>
      if s.clock < c + 1000000 * ckUs then s
      else
        let ctxs := ((s.hub hub).flog.filter (fun e => e.team.isSome)).map (·.ctx)
        let s := s.putHub hub { s.hub hub with fullSince := some s.clock }
        ctxs.foldl (fun (s : State) c => s.endContext c 0x17F) s)

/-- WATCHDOG_EXPIRY (R159). DEDUCED (log 30). -/
def execWatchdogExpiry (ctx : Nat) (s : State) : Out :=
  .next (match s.ctxs.find ctx with
    | none => s
    | some c =>
      let here := s.teams.all.any (fun e => e.2.kind = .compute && e.2.ctx = ctx && e.2.onCore)
      if here ∧ s.running ∧ c.watch + c.wdog * 1000 * ckUs ≤ s.clock then s.endContext ctx 0x0B8 else s)

/-- DEBUG_BUDGET_EXPIRY (R411, R420): the team stops with 0x03D before its next word. DEDUCED (log 53). -/
def execDebugBudgetExpiry (team : Nat) (s : State) : Out :=
  .next (match s.teams.find team with
    | none => s
    | some x =>
      if x.dbg.budget ≠ some 0 ∨ x.run ≠ .resident then s
      else match s.teamFrags team with
        | [] => s
        | (fid, f) :: _ =>
          let s := s.updTeam team (fun y => { y with dbg := { y.dbg with budget := none } })
          s.raise ⟨fid / 64, fid % 64⟩ f.pc { code := 0x03D })

-- SRAM errors (R187, R426) -----------------------------------------------------------------------------------------------------------------------

/-- A corrected event of structure d (R413, SYSTEM 4) counted in SERRCNT and logged at most once a millisecond. DEDUCED (log 92). -/
def State.softError (s : State) (h d : Nat) : State :=
  let b := s.hub h
  let n := b.serrcnt.toNat / 2 ^ (8 * d) % 256
  let cnt : Word := if n < 255 then b.serrcnt + BitVec.ofNat 64 (2 ^ (8 * d)) else b.serrcnt
  let last := Cells.get 0 b.lastSoft d
  let due := last = 0 ∨ last - 1 + 1000 * ckUs ≤ s.clock
  let s := s.putHub h { b with serrcnt := cnt, lastSoft := if due then Cells.set 0 b.lastSoft d (s.clock + 1) else b.lastSoft }
  if due then s.logEvent h (codeOf 5 4 d) else s

/-- A trap that no word of the team raises (R414, R426). Its TRAPPC is a free value (log 7). -/
def State.raiseIn (s : State) (t : Nat) (f : Fail) : State :=
  match s.teams.find t with
  | none => s
  | some x =>
    match x.kind, s.teamFrags t with
    | .compute, _ => { s with fresh := s.fresh + 1 }.trapAway ⟨16 * t, 0⟩ (Config.freeWord s.fresh) f 0
    | _, (fid, g) :: _ => s.raise ⟨fid / 64, fid % 64⟩ g.pc f
    | _, [] => s

/-- n bytes of memory marked uncorrectable (R201, R426). -/
def State.poisonBytes (s : State) (pa n : Nat) : State :=
  { s with poison := (List.range n).foldl (fun (m : Cells Bool) i => Cells.set false m (pa + i) true) s.poison }

/-- The hub of an L2 slice's die. -/
def sliceHub (pa : Nat) : Nat := sliceOf pa / 8 / 4

/-- The hub that counts a site's corrected events, and its structure (R413). -/
def State.softSite (s : State) (x : EccSite) : Nat × Nat :=
  let teamHub (t : Nat) : Nat := hubOfCore (((s.teams.find t).map (·.core)).getD 0)
  match x with
  | .registerFile _ t => (teamHub t, 0)
  | .l1Clean c _ => (hubOfCore c, 1)
  | .l1Dirty c _ _ => (hubOfCore c, 1)
  | .scratchBank t _ => (teamHub t, 1)
  | .ringBank t => (teamHub t, 1)
  | .tile t => (teamHub t, 2)
  | .latch c _ => (hubOfCore c, 2)
  | .counterStore t => (teamHub t, 1)
  | .l2Tag pa => (sliceHub pa, 3)
  | .mscTag pa => (s.homeOf (.mem pa) - 20000, 4)
  | .hbm pa => (sliceHub pa, 5)
  | .lpddrCxl pa => (s.homeOf (.mem pa) - 20000, 6)
  | .tlb c => (hubOfCore c, 7)

/-- SRAM_ECC_ERROR (R187, R426): a single-bit error is corrected; a double-bit error is handled by what the word
holds. DESIGN CHOICE (log 52). -/
def execSramEccError (site : EccSite) (double : Bool) (s : State) : Out :=
  let (h, d) := s.softSite site
  let soft := s.softError h d
  .next (
    if !double then soft
    else match site with
      | .registerFile vector t => s.raiseIn t { code := if vector then 0x16A else 0x16B }
      | .l1Clean c key => soft.dropSector c key
      | .l1Dirty c key byte =>
          if ((s.core c).l1.find key).any (fun x => bit x.dirty (byte % 64)) then s.writeBack c key (some (byte % 64))
          else soft.dropSector c key
      | .scratchBank t off =>
          let k := ((s.teams.find t).map (·.core)).getD 0
          (match s.readingMma k t off with
            | some (e, prog) => s.failMma k e prog 0x168
            | none => s.raiseIn t { code := 0x168 })
      | .ringBank t => s.raiseIn t { code := 0x169 }
      | .tile t => s.raiseIn t { code := 0x16C }
      | .latch c q =>
          match (s.core c).latches.find q with
          | some l => if l.valid then s.raiseIn l.team { code := 0x16D } else s
          | none => s
      | .counterStore t => s.raiseIn t { code := 0x16E }
      | .l2Tag pa => (s.poisonBytes (alignDown pa 256) 256).logEvent h 0x16F
      | .mscTag pa => (s.poisonBytes (alignDown pa 256) 256).logEvent h 0x16F
      | .hbm pa => s.poisonBytes (alignDown pa 64) 64
      | .lpddrCxl pa => s.poisonBytes (alignDown pa 64) 64
      | .tlb c => soft.putCore c { soft.core c with tlb := [] })

end Sys2Proof.Machine
end

