-- ==== Sys2Proof/Machine/CopySteps.lean ====
section
/-! DEFINITION. The steps of copies that have been issued: engines, chunks, faults and ends (R282, R286, R291, R300 to
R304). -/

namespace Sys2Proof.Machine

/-- The queue of a copy that a packet or node made is suspended, so that the copy stays at its chunk boundary (R372,
R408). -/
def State.copyHeld (s : State) (c : Copy) : Bool :=
  let held (k : Nat) : Bool := (s.queues.find k).any (·.suspended)
  match c.own with
  | .group _ _ => false
  | .packet k _ _ => held k
  | .node g _ _ => (s.graphs.find g).any (fun x => held x.queue)

/-- A copy leaves the device. -/
def State.dropCopy (s : State) (id : Nat) (c : Copy) : State :=
  { s with copies := s.copies.del id, copyQueue := s.copyQueue.upd c.die (fun l => l.filter (· ≠ id)) }

/-- A copy taken by an engine of its die. A COPY packet retires then (R370). -/
def State.startEngine (s : State) (id : Nat) (c : Copy) : State :=
  let s : State := { s with
    copies := s.copies.put id { c with running := true }
    copyQueue := s.copyQueue.upd c.die (fun l => l.filter (· ≠ id)) }
  match c.own with
  | .packet k _ _ => if c.prog = 0 ∧ ((s.queues.find k).any (fun q => q.step = .copying id)) then s.retire k true else s
  | _ => s

/-- COPY_ENGINE_START (R286): an idle one of a die's 16 engines takes the oldest queued copy. -/
def execCopyEngineStart (die : Nat) (s : State) : Out :=
  .next (
    let busy := (s.copies.all.filter (fun e => e.2.die = die && e.2.running)).length
    let next := ((s.copyQueue.find die).getD []).findSome? (fun id =>
      match s.copies.find id with
      | some c => if s.copyHeld c then none else some (id, c)
      | none => none)
    match next with
    | none => s
    | some (id, c) => if 16 ≤ busy then s else if c.cancel then s.endCancelled id else s.startEngine id c)

/-- The party for which a bulk engine acts, with its team (R286, R370). -/
def State.copyParty (s : State) (c : Copy) : Party × Team :=
  match c.own, s.teams.find c.team with
  | .group _ _, some t =>
      ({ place := .tte c.die, pasid := c.pasid, sys := t.kind = .system, launch := if t.kind = .compute then some t.launch else none
         team := some c.team }, t)
  | _, _ => ({ place := .tte c.die, pasid := c.pasid }, { kind := .system })

/-- The end of a copy with every element moved (R282, R370, R403). A group's copy is outstanding until its add is performed (R302). -/
def State.copyDone (s : State) (id : Nat) (c : Copy) : State :=
  match c.own with
  | .group gid tok =>
      ({ s with copies := s.copies.put id { c with running := false, adding := true, prog := c.kind.total } } : State).copyEnds id gid tok
        c.ctr c.pasid c.pc
  | .packet k i d => ((s.dropCopy id c).packetDone k i d).depDev k
  | .node g j d =>
      let k := ((s.graphs.find g).map (·.queue)).getD 0
      ((s.dropCopy id c).makeDone k d).nodeEnd g j (((s.graphs.find g).bind (fun x => x.nodes.find j)).elim [] GNode.succs)

/-- A copy stalls on an absent page, for which its hub's page service is asked (R301). -/
def State.copyStalls (s : State) (id : Nat) (c : Copy) (t : Team) (va : Nat) : State :=
  { s with
    copies := s.copies.put id { c with running := false, stalled := true, faultVa := va }
    calls := s.calls.put s.nextId
      { num := faultCall, hub := hubOfCore t.core, block := BitVec.ofNat 64 va, ctr := .null, ctrVa := 0, pasid := c.pasid, team := c.team
        lin := t.lin, since := s.clock }
    nextId := s.nextId + 1 }

/-- A copy fault in chunk c.prog (R301): the copy stalls, or its team traps, or its packet or node fails. -/
def State.copyFault (s : State) (id : Nat) (c : Copy) (t : Team) (b : Bad) : State :=
  match c.own with
  | .packet k i _ => ((s.dropCopy id c).packetFails k i b.1).depDev k
  | .node g j _ => (s.dropCopy id c).graphFault g j b.1 false
  | .group gid tok =>
    let f : Fail := { code := b.1, va := some (BitVec.ofNat 64 b.2), data := some (BitVec.ofNat 64 c.prog) }
    if b.1 = 0x050 ∧ t.paged then s.copyStalls id c t b.2
    else if t.kind = .compute then
      ({ s with copies := s.copies.put id { c with running := false, failed := true } } : State).trapAway ⟨gid, 0⟩ c.pc f id
    else
      let s := (s.dropCopy id c).copyGone gid tok id
      match s.fragsOf gid with
      | (fid, _) :: _ => s.raise ⟨gid, fid % 64⟩ c.pc f
      | [] => s

/-- The team of a group's copy is being saved: the copy performs no further chunk (R303, R415). -/
def State.copyStops (s : State) (c : Copy) : Bool :=
  match c.own with
  | .group gid _ => (s.teams.find (gid / 16)).any (fun t => t.run = .preempting || t.run = .stopped)
  | _ => false

/-- The next pages in traversal order, up to n, walked into the TTE's cache (R350): A is set, and nothing is raised. -/
def State.walkPages (s : State) (p : Party) (k : CopyKind) (n lo : Nat) (seen : List Nat) : Nat → State
  | 0 => s
  | fuel + 1 =>
      if n ≤ seen.length ∨ k.total ≤ lo then s
      else
        let hi := min (lo + k.chunk) k.total
        let new := (((k.touches lo hi).map (· / pageBytes)).eraseDups.filter (fun u => !seen.contains u)).take (n - seen.length)
        let s := new.foldl (fun (s : State) u => (s.xlate p.place p.pasid (u * pageBytes) (fun _ => true)).2) s
        State.walkPages s p k n hi (seen ++ new) fuel

/-- The walk-ahead of a copy: how far it has come is a free value, up to 64 pages (R350). DESIGN CHOICE (log 123). -/
def State.walkAhead (s : State) (p : Party) (k : CopyKind) (lo : Nat) : State :=
  ({ s with fresh := s.fresh + 1 } : State).walkPages p k ((Config.freeWord s.fresh).toNat % 65) lo [] k.total

/-- The elements of a copy below hi have been moved (R300, R350). -/
def State.chunkDone (s : State) (id : Nat) (c : Copy) (hi : Nat) : State :=
  if hi = c.kind.total then s.copyDone id c
  else ({ s with copies := s.copies.put id { c with prog := hi } } : State).walkAhead (s.copyParty c).1 c.kind hi

/-- COPY_CHUNK (R300): one chunk translated on both sides, read and written, and the progress advanced; or the fault
that it meets (R301), or the stop of a cancelled copy (R304). -/
def execCopyChunk (copy : Nat) (s : State) : Out :=
  .next (match s.copies.find copy with
    | none => s
    | some c =>
      if c.cancel then s.endCancelled copy
      else if !c.running ∨ s.copyHeld c ∨ s.copyStops c then s
      else
        let (p, t) := s.copyParty c
        let core := match c.own with | .group _ _ => some t.core | _ => none
        let hi := min (c.prog + c.kind.chunk) c.kind.total
        match s.chunkPlan p t c c.prog hi with
        | (.error b, s) => s.copyFault copy c t b
        | (.ok (src, dst), s) =>
          match s.tears true with
          | (true, s) => s.tearInto { core := core, todo := getPieces src, next := .chunk copy c.prog hi dst }
          | (false, s) => (s.atWrites core (dst.zip (c.kind.moves c.prog hi (src.map (fun e => s.atRead e.1 e.2))))).chunkDone copy c hi)

/-- CPY_COMPLETE (R291): every lane of a CPY moves, and its completion follows; a cancelled CPY that has not begun its
writes is dropped whole (R304). -/
def execCpyComplete (copy : Nat) (s : State) : Out :=
  .next (match s.laneCopies.find copy with
    | none => s
    | some c =>
      if c.adding then s
      else if c.cancel then s.copyGone c.gid c.tok copy
      else
        let core := (s.teams.find (c.gid / 16)).map (·.core)
        let s : State := { s with laneCopies := s.laneCopies.put copy { c with adding := true } }
        match s.tears true with
        | (true, s) =>
          s.tearInto { core := core, todo := numbered (c.lanes.zipIdx.map (fun e => .get [(e.2, e.1.1, c.size)])), next := .lanes copy }
        | (false, s) => (s.laneMoves core c).copyEnds copy c.gid c.tok c.ctr c.pasid c.pc)

end Sys2Proof.Machine
end

