-- ==== Sys2Proof/Machine/Launches.lean ====
section
/-! DEFINITION. Launches: prologues, admission, leases, staging, dispatch and ends (R157, R158, R263 to R266, R375 to R395),
and the traffic arbiters (R391). -/

namespace Sys2Proof.Machine

-- Prologues (R378, R379, R26) -------------------------------------------------------------------------------------

/-- The queue that a launch belongs to. -/
def State.queueOf (s : State) (l : Launch) : Option Queue := s.queues.find l.queue

/-- PROLOGUE_RUN (R378): a run starts on one of the 16 engines of the queue's FE. For a launch of a KERNEL node, which has
no packet slot of its own, s3 is a free value (log 7). DEDUCED (log 101). -/
def execPrologueRun (launch : Nat) (s : State) : Out :=
  .next (match s.launches.find launch with
    | none => s
    | some l =>
      match s.queueOf l with
      | none => s
      | some q =>
        let k := feCore q.hub
        if l.step ≠ .prologue ∨ q.suspended ∨ !s.serves q ∨ 16 ≤ (s.coreTeams k).length then s
        else
          let (s3, s) : Word × State := match l.own with
            | .packet _ i => (q.slot i, s)
            | .node _ _ => (Config.freeWord s.fresh, { s with fresh := s.fresh + 1 })
          let t := s.nextId
          let x : Team := { kind := .prologue, launch := launch, core := k, ctx := l.ctx, pasid := l.pasid, nregs := 0, queue := l.queue
                            packet := s.packetOfLaunch l, watch := s.clock }
          let g : Group := (({} : Group).sset 1 l.arg0 |>.sset 2 (BitVec.ofNat 64 l.run)).sset 3 s3
          let f : Frag := { em := 1, pc := l.desc.prol, st := .active, active := some s.clock, ready := some (s.clock + 1) }
          let s : State := { s with
            teams := s.teams.put t x, groups := s.groups.put (16 * t) g, frags := s.frags.put (64 * (16 * t)) f, nextId := t + 1
            launches := s.launches.put launch { l with step := .inPrologue } }
          s.showStep launch)

/-- PROLOGUE_TIMEOUT (R378): a run that has lasted 2 µs ends with 0x0B7. -/
def execPrologueTimeout (team : Nat) (s : State) : Out :=
  .next (match s.teams.find team with
    | none => s
    | some x =>
      if x.kind ≠ .prologue ∨ s.clock < x.watch + 2 * ckUs then s
      else match s.teamFrags team with
        | (fid, f) :: _ => s.trapPrologue ⟨fid / 64, fid % 64⟩ f.pc { code := 0x0B7 }
        | [] => s)

/-- A run ends with new parameters and its packet goes to admission (R379). -/
def State.prologueEnds (s : State) (n : Now) (a : SReg) (again : Bool) : State :=
  let g := n.g
  let s := s.dropTeam s.cur.team
  let s : State := { s with launches := s.launches.upd n.t.launch (fun l => { l with
      step := .admission, grid := g.sget a.val, args := g.sget (a.val + 1), repeats := again, since := s.clock }) }
  s.showStep n.t.launch

/-- PLAUNCH (R379). -/
def execPlaunch (a : SReg) (s : State) : Out :=
  s.word .prologue (fun n => if 63 < a.val + 1 then s.trapNow n { code := 0x00B } else s.prologueEnds n a false)

/-- PREPEAT (R379): the prologue runs again after the launch while the run index is below n. -/
def execPrepeat (a : SReg) (n : BitVec 8) (s : State) : Out :=
  s.word .prologue (fun w =>
    if 63 < a.val + 1 then s.trapNow w { code := 0x00B }
    else s.prologueEnds w a (((s.launches.find w.t.launch).map (·.run)).getD 0 < n.toNat))

/-- A launch's own completion add, and the end of its packet or node, without a launch (R379). -/
def State.cancelLaunch (s : State) (l : Launch) : State :=
  let s := s.makeDone l.queue l.done
  match l.own with
  | .packet k _ => s.retire k false
  | .node g j =>
      let succs := ((s.graphs.find g).bind (fun x => x.nodes.find j)).elim [] GNode.succs
      s.nodeEnd g j succs (some [])

/-- PCANCEL (R379): the packet is retired without a launch, with its completion add. -/
def execPcancel (s : State) : Out :=
  s.word .prologue (fun n =>
    let s := s.dropTeam s.cur.team
    match s.launches.find n.t.launch with
    | some l => ({ s with launches := s.launches.del n.t.launch } : State).cancelLaunch l
    | none => s)

-- Grids and capacities (R158, R263 to R265, R376) ------------------------------------------------------------------------

/-- The extents of a GRIDDIM word (R85). -/
def gridDims (x : Word) : Nat × Nat × Nat := (bits x 20 0, bits x 41 21, bits x 62 42)
/-- T, the team count of a grid. -/
def gridTeams (x : Word) : Nat := let d := gridDims x; d.1 * d.2.1 * d.2.2

/-- Scratch and RING banks of a team (R183, R264). -/
def Desc.bs (d : Desc) : Nat := (d.scr + 0x1FFFF) / 0x20000
def Desc.br (d : Desc) : Nat := ringBanks (d.rings.map (fun r => r.2.1))
/-- What a team of the kernel needs of a core. -/
def Desc.need (d : Desc) (ctx : Nat) : Need :=
  { ctx := ctx, groups := d.groups, blocks := d.groups * d.regs / 16, banks := d.bs + d.br, tiles := d.acct }
/-- Teams of the kernel that an idle core holds (R80, R376). -/
def Desc.perCore (d : Desc) : Nat :=
  let lim (total n : Nat) : Nat := if n = 0 then 32 else total / n
  min (min (lim 192 (d.groups * d.regs / 16)) (32 / d.groups)) (min (lim 16 (d.bs + d.br)) (lim 16 d.acct))
/-- C, the teams of the launch that its cores hold when idle (R158). -/
def Desc.capacity (d : Desc) (fields : Nat) : Nat :=
  let fs := ((List.range 16).filter (fieldAllowed fields)).length
  fs * (12 / d.cols) * (8 / d.rows) * d.cols * d.rows * d.perCore
/-- The footprint F of a team (R156). -/
def Desc.foot (d : Desc) : Nat := footprint d.groups d.regs d.bs d.br d.acct
/-- The spill size S of a team (R265). -/
def Desc.spill (d : Desc) : Nat := (d.rings.map (fun r => spillBytes r.2.2 r.2.1)).foldl (· + ·) 0

/-- The areas that a launch of T teams sets aside: spill reserve, park reserve and cold waiter reservation (R376). -/
def Desc.reserves (d : Desc) (fields t : Nat) : Nat × Nat × Nat :=
  let c := d.capacity fields
  let n := if d.gsync then t else min t c
  (d.spill * n, if d.gsync then (t - c) * d.foot else 0, 1024 * d.groups * n)

/-- The device-structure range could hold areas together, with every reserve free (R377). -/
def State.couldHold (s : State) (l : List Nat) : Bool :=
  (l.foldl (fun (u : Option (List (Nat × Nat))) n => u.bind (fun u =>
    if n = 0 then some u else (firstFit (deviceBase + deviceBytes) n deviceBase u).map (fun a => insertArea u (a, n))))
    (some (s.imageAreas.foldl insertArea []))).isSome

/-- The refusals of a grid and its reserves (R377, R140, R266); of areas that fit only singly, the last is refused. DESIGN CHOICE (log 126). -/
def State.gridRefusal (s : State) (l : Launch) (fields : Nat) : Option Code :=
  let d := l.desc
  let (x, y, z) := gridDims l.grid
  let t := gridTeams l.grid
  let (sp, pr, cw) := d.reserves fields t
  if bit l.grid 63 then some 0x0B5
  else if x = 0 ∨ y = 0 ∨ z = 0 ∨ 2 ^ 31 < t ∨ t % (d.cols * d.rows) ≠ 0 then some 0x0B3
  else if 16 < d.bs + d.br then some 0x0A6
  else if !s.couldHold [sp] then some 0x0A4
  else if !s.couldHold [sp, pr] then some 0x0B1
  else if !s.couldHold [sp, pr, cw] then some 0x0B2
  else none

-- Working-set ranges and leases (R380 to R384) --------------------------------------------------------------------------------

/-- A range record of four words (R380). -/
def rangeOf (w : List Word) : WRange :=
  let f (i : Nat) : Word := w.getD i 0
  { va := (f 0).toNat, bytes := bits (f 1) 39 0, stride := bits (f 2) 47 0, soff := bits (f 3) 40 24, sbank := bits (f 3) 23 20
    hbm := bit (f 3) 7, prio := bits (f 3) 6 4, intent := bits (f 3) 3 2, target := bits (f 3) 1 0 }

/-- A range record that R381 refuses, for T teams of bs scratch banks. -/
def rangeBad (w : List Word) (t bs : Nat) : Bool :=
  let f (i : Nat) : Word := w.getD i 0
  let r := rangeOf w
  let at' := r.sbank * 2 ^ 17 + r.soff
  bits (f 1) 63 40 ≠ 0 || bits (f 2) 63 48 ≠ 0 || bits (f 3) 63 41 ≠ 0 || bits (f 3) 19 8 ≠ 0 || r.intent = 0 || r.target = 3
    || r.va % 64 ≠ 0 || r.bytes % 64 ≠ 0 || r.stride % 64 ≠ 0 || r.bytes = 0 || 2 ^ 56 < r.va + (t - 1) * r.stride + r.bytes
    || (r.target = 2 && (at' % 64 ≠ 0 || bs * 2 ^ 17 < at' + r.bytes))
    || (r.target ≠ 2 && (r.sbank ≠ 0 || r.soff ≠ 0))

/-- The ranges of a launch read and checked in array order (R380, R381). -/
def State.readRanges (s : State) (q : Queue) (va t bs : Nat) : Nat → Except Code (List WRange) × State
  | 0 => (.ok [], s)
  | n + 1 =>
      match s.feRead q.hub q.pasid va 4 with
      | (.error c, s) => (.error c, s)
      | (.ok w, s) =>
        if rangeBad w t bs then (.error 0x052, s)
        else match State.readRanges s q (va + 32) t bs n with
          | (.error c, s) => (.error c, s)
          | (.ok l, s) => (.ok (rangeOf w :: l), s)

/-- Range r reads, or writes. -/
def WRange.reads (r : WRange) : Bool := r.intent % 2 = 1
def WRange.writes (r : WRange) : Bool := 2 ≤ r.intent
/-- The 64 KiB pages of the slices of T teams. -/
def WRange.pages (r : WRange) (t : Nat) : List Nat :=
  ((List.range t).flatMap (fun i =>
    let a := r.va + i * r.stride
    (List.range ((a + r.bytes - 1) / pageBytes + 1 - a / pageBytes)).map (fun k => a / pageBytes + k))).eraseDups

/-- What the WSS finds for a page of a range (R383). -/
inductive Found
  | keep (first count : Nat)      -- present; leased whole with its run or 2 GiB page
  | bring (first count tier : Nat) -- P = 0: the page service brings it, with its run or 2 GiB page, into a tier
  | move (first count : Nat)      -- present outside HBM4E while HBM = 1
  | refuse (c : Code)
deriving DecidableEq, Repr

/-- One page of a range looked up (R383). -/
def State.findPage (s : State) (hub pasid : Nat) (r : WRange) (page : Nat) : Found :=
  match s.walk hub pasid (page * pageBytes) with
  | .fault c => .refuse (if c = 0x040 then 0x054 else c)
  | .leaf e at' size _ =>
    let n := if size = 1 ∧ pteC e then 32 else size
    let first := page - page % n
    if pteType e = 2 ∨ (pteType e = 1 ∧ r.target ≠ 0) ∨ (r.reads ∧ !pteR e) ∨ (r.writes ∧ !pteW e) then .refuse 0x054
    else if Cells.get 0 s.leases at' = 65535 then .refuse 0x055
    else if !pteP e then .bring first n (if r.hbm then 0 else pteTier e)
    else if r.hbm ∧ tierOf (pteFrame e) ≠ some 0 then .move first n
    else .keep first n

/-- Installed bytes of a tier, less the reserved range of R340 (R384). -/
def State.tierBytes (s : State) (tier : Nat) : Nat :=
  if tier = 0 then 0xC000000000 - deviceBytes
  else if tier = 1 then 0x20000000000
  else (s.subs.all.map (fun (e : Nat × Sub) => if e.2.mode = 2 ∧ e.2.up then e.2.cxlBytes else 0)).foldl (· + ·) 0

/-- The outcome of looking up every page of every range. -/
structure LeaseView where
  pages : List Nat := []          -- pages leased, whole runs included
  bring : List (Nat × Nat) := []  -- the first pages of absent units with their tiers
  must : List (Nat × Nat × Nat) := [] -- units that must lie in a tier: first page, pages and tier
  move : List Nat := []
  bad : Option Code := none
deriving DecidableEq, Repr

/-- Every page of the ranges looked up in order; the first refusal decides (R383). -/
def State.leaseView (s : State) (hub pasid t : Nat) (rs : List WRange) : LeaseView :=
  rs.foldl (fun (v : LeaseView) r =>
    (r.pages t).foldl (fun (v : LeaseView) p =>
      if v.bad.isSome then v
      else
        let need (v : LeaseView) (u : Nat × Nat × Nat) : LeaseView := if v.must.contains u then v else { v with must := u :: v.must }
        match s.findPage hub pasid r p with
        | .refuse c => { v with bad := some c }
        | .bring a n tier => need (if v.bring.any (fun e => e.1 = a) then v else { v with bring := v.bring ++ [(a, tier)] }) (a, n, tier)
        | .move a n => need (if v.move.contains a then v else { v with move := v.move ++ [a] }) (a, n, 0)
        | .keep a n =>
            let v : LeaseView := { v with pages := v.pages ++ ((List.range n).map (a + ·)).filter (fun x => !v.pages.contains x) }
            if r.hbm then need v (a, n, 0) else v) v) {}

/-- Leased bytes that must lie in one tier exceed it (R384). DEDUCED (log 98). -/
def State.leaseTooBig (s : State) (v : LeaseView) : Bool :=
  [0, 1, 2].any (fun tier => s.tierBytes tier < (((v.must.filter (fun u => u.2.2 = tier)).map (·.2.1)).foldl (· + ·) 0) * pageBytes)

/-- L2 lines of a team's slices that staging reads (R386). -/
def Launch.lines (l : Launch) (lin : Nat) : List Nat :=
  ((l.ranges.filter (fun r => r.target = 1 && r.reads)).flatMap (fun r =>
    let a := r.va + lin * r.stride
    (List.range ((a + r.bytes - 1) / 256 + 1 - a / 256)).map (fun k => a / 256 + k))).eraseDups

/-- The staging quota in bytes (R385). -/
def State.quota (s : State) : Nat := ((List.range 8).map (fun k => bits s.stageq (8 * k + 7) (8 * k))).foldl (· + ·) 0 * 2 ^ 20

/-- The page service is asked once for each absent page of a lease (R383). -/
def State.askPages (s : State) (id : Nat) (l : Launch) (hub : Nat) (bring : List (Nat × Nat)) : State :=
  bring.foldl (fun (s : State) e =>
    let va : Word := BitVec.ofNat 64 (e.1 * pageBytes)
    if s.calls.all.any (fun c => c.2.launch = some id && c.2.block = va) then s
    else { s with
      calls := s.calls.put s.nextId
        { num := faultCall, hub := hub, block := va, ctr := .null, ctrVa := 0, pasid := l.pasid, team := 0, lin := 0, since := s.clock
          launch := some id, tier := some e.2 }
      nextId := s.nextId + 1 }) s

/-- The addresses of the leaves of pages. -/
def State.leavesFor (s : State) (hub pasid : Nat) (pages : List Nat) : List Nat :=
  (pages.filterMap (fun p => (s.slotOf hub pasid (p * pageBytes)).map (·.1))).eraseDups

/-- LP of a leaf written. -/
def State.setLp (s : State) (leaf : Nat) (b : Bool) : State := s.homeWrite leaf (leBytes 8 (pteWithBit (s.memWord leaf) 4 b).toNat)

/-- LP set in every leaf of a lease, and one lease counted (R351, R383). -/
def State.setLeases (s : State) (leaves : List Nat) : State :=
  leaves.foldl (fun (s : State) a => ({ s with leases := Cells.set 0 s.leases a (Cells.get 0 s.leases a + 1) } : State).setLp a true) s

/-- One lease fewer on every leaf; LP is cleared where none is left (R351, R384). -/
def State.clearLeases (s : State) (leaves : List Nat) : State :=
  leaves.foldl (fun (s : State) a =>
    let n := Cells.get 0 s.leases a - 1
    let s : State := { s with leases := Cells.set 0 s.leases a n }
    if n = 0 then s.setLp a false else s) s

-- Admission (R376, R377) ----------------------------------------------------------------------------------------------------------

/-- The three areas of a launch set aside together, or none (R376). -/
def State.takeAreas (s : State) (l : Launch) (fields : Nat) : Option (Launch × State) :=
  let (sp, pr, cw) := l.desc.reserves fields (gridTeams l.grid)
  match s.setAside sp with
  | none => none
  | some (a, s) =>
    match s.setAside pr with
    | none => none
    | some (b, s) =>
      match s.setAside cw with
      | none => none
      | some (c, s) => some ({ l with spill := (a, sp), reserve := (b, pr), cold := (c, cw) }, s)

/-- A launch admitted: its packet retires, unless its prologue runs again (R369, R379). -/
def State.admitLaunch (s : State) (id : Nat) (l : Launch) (hub : Nat) (pages : List Nat) : State :=
  let leaves := s.leavesFor hub l.pasid pages
  let s := s.setLeases leaves
  let t := gridTeams l.grid
  let l : Launch := { l with step := .admitted, dims := gridDims l.grid, lease := pages, leaves := leaves, total := t, left := t, nextTeam := 0
                             fieldsRan := [], staged := [], charged := [], paid := [], unplaced := [], waits := s.clock, since := s.clock }
  let s : State := { s with launches := s.launches.put id l }
  match l.own with
  | .packet k _ => if l.repeats then s.showStep id else s.retire k true
  | .node _ _ => s

/-- ADMISSION (R376, R377, R383, R384, R386): refused, made to wait, or admitted. The ranges are read once (R380). DEDUCED (log 43). DEDUCED (log 98). -/
def execAdmission (launch : Nat) (s : State) : Out :=
  .next (match s.launches.find launch with
    | none => s
    | some l =>
      match s.queueOf l with
      | none => s
      | some q =>
        let t := gridTeams l.grid
        if l.step ≠ .admission ∨ q.suspended ∨ !s.serves q then s
        else match s.gridRefusal l q.fields with
          | some c => s.launchFault launch c 0
          | none =>
            match (if l.ranges.isEmpty then s.readRanges q l.desc.wset.toNat t l.desc.bs l.desc.nws else (.ok l.ranges, s)) with
            | (.error c, s) => s.launchFault launch c 0
            | (.ok rs, s) =>
              let l : Launch := { l with ranges := rs }
              let s : State := { s with launches := s.launches.put launch l }
              let v := s.leaseView q.hub q.pasid t rs
              match v.bad with
              | some c => s.launchFault launch c 0
              | none =>
                if s.leaseTooBig v ∨ (List.range t).any (fun i => s.quota < 256 * (l.lines i).length) then s.launchFault launch 0x053 0
                else if v.bring ≠ [] ∨ v.move ≠ [] then s.askPages launch l q.hub v.bring
                else match s.takeAreas l q.fields with
                  | none => s
                  | some (l, s) => s.admitLaunch launch l q.hub v.pages)

-- Waiting for cores (R142, R373, R389) -------------------------------------------------------------------------------------------------

/-- TEAMLIN of the i-th team that a launch has still to place (R142, R390). -/
def Launch.lin (l : Launch) (i : Nat) : Nat := l.unplaced.getD i (l.nextTeam + (i - l.unplaced.length))
/-- The next teams of a launch to place: those of one cluster. -/
def Launch.nextLins (l : Launch) : List Nat := (List.range (l.desc.cols * l.desc.rows)).map l.lin

/-- A launch has teams to place, and none of its teams waits to be relaunched (R142, R265, R389). -/
def State.canDispatch (s : State) (id : Nat) (l : Launch) : Bool :=
  l.step = .admitted && (l.unplaced ≠ [] || l.nextTeam < l.total) && l.failed.isNone
    && (match s.queueOf l with | some q => !q.suspended && s.serves q | none => false)
    && !((s.ctxs.find l.ctx).any (·.suspended))
    && !(s.teams.all.any (fun e => e.2.kind = .compute && e.2.launch = id && e.2.run = .relaunch))
    && l.nextLins.all (fun i => (l.lines i).isEmpty || l.staged.contains i)
    && (l.desc.spill = 0 || l.desc.cols * l.desc.rows ≤ l.spill.2 / l.desc.spill -
        (s.teams.all.filter (fun e => e.2.kind = .compute && e.2.launch = id && e.2.spill.isSome)).length)

/-- A saved cluster may be relaunched: all of it is saved, and its context runs (R154, R155). -/
def State.canRelaunch (s : State) (t : Nat) (x : Team) : Bool :=
  x.kind = .compute && s.running && !((s.ctxs.find x.ctx).any (fun c => c.suspended || c.killed))
    && (s.members t).all (fun k => (s.teams.find k).any (fun y => y.run = .relaunch))

/-- A cluster that asks for cores: the fields it may use, its shape, and what each of its teams needs. -/
structure Ask where
  fields : Nat
  clu : Nat × Nat
  needs : List (Option Need)
deriving DecidableEq, Repr

/-- The cores at which a cluster could be placed. -/
def State.placesFor (s : State) (a : Ask) : List Nat := s.places a.fields a.clu a.needs

/-- What a launch's next cluster asks for. -/
def State.nextAsk (s : State) (l : Launch) : Ask :=
  { fields := ((s.queueOf l).map (·.fields)).getD 0, clu := (l.desc.cols, l.desc.rows)
    needs := l.nextLins.map (fun _ => some (l.desc.need l.ctx)) }
/-- What a saved team's cluster asks for. -/
def State.againAsk (s : State) (t : Nat) (x : Team) : Ask :=
  { fields := ((s.queues.find x.queue).map (·.fields)).getD 0, clu := x.clu, needs := s.clusterNeeds t x }

/-- The clusters with which a launch waits for cores: those to relaunch, else the next to place (R142). -/
def State.asks (s : State) (id : Nat) (l : Launch) : List Ask :=
  (s.teams.all.filter (fun e => e.2.launch = id && e.2.run = .relaunch && s.canRelaunch e.1 e.2)).map (fun (e : Nat × Team) => s.againAsk e.1 e.2)
    ++ (if s.canDispatch id l then [s.nextAsk l] else [])

/-- Launch a goes before launch b: by priority, then the one that has waited longest (R373). DESIGN CHOICE (log 125). -/
def State.outranks (s : State) (a b : Nat × Launch) : Bool :=
  let p := s.prioOf a.2.queue
  let q := s.prioOf b.2.queue
  q < p || (q = p && (a.2.waits < b.2.waits || (a.2.waits = b.2.waits && a.1 < b.1)))

/-- No launch that goes before this one has a cluster that fits now (R142, R373). -/
def State.firstToPlace (s : State) (id : Nat) (l : Launch) : Bool :=
  !(s.launches.all.any (fun e => e.1 ≠ id && s.outranks e (id, l) && (s.asks e.1 e.2).any (fun a => s.placesFor a ≠ [])))

-- Staging (R386, R387, R390) ------------------------------------------------------------------------------------------------------------

/-- Bytes charged by all launches (R386). -/
def State.charged (s : State) : Nat := (s.launches.all.map (fun (e : Nat × Launch) => 256 * e.2.charged.length)).foldl (· + ·) 0

/-- The lines that staging the next team of a launch charges, when they fit the quota now (R386). -/
def State.nextLines (s : State) (l : Launch) : Option (List Nat) :=
  let lin := l.lin l.staged.length
  let new := (l.lines lin).filter (fun x => !l.paid.contains x)
  if l.step ≠ .admitted ∨ l.failed.isSome ∨ (s.queueOf l).any (·.suspended) ∨ l.total ≤ lin ∨ (l.lines lin).isEmpty
      ∨ s.quota < s.charged + 256 * new.length then none
  else some new

/-- STAGING (R386, R387): the L2 slices of a team are charged and read, in the order of R373 among launches. Staged lines are ordinary lines
at their homes, so reading them changes no value. DEDUCED (log 102). -/
def execStaging (launch lin : Nat) (s : State) : Out :=
  .next (match s.launches.find launch with
    | none => s
    | some l =>
      match s.nextLines l with
      | none => s
      | some new =>
        if lin ≠ l.lin l.staged.length
            ∨ s.launches.all.any (fun e => e.1 ≠ launch && s.outranks e (launch, l) && (s.nextLines e.2).isSome) then s
        else { s with launches := s.launches.put launch { l with
          staged := l.staged ++ [lin], charged := l.charged ++ new, paid := l.paid ++ new } })

-- Dispatch (R82, R142, R183, R387 to R389, R394) ---------------------------------------------------------------------------------------------

/-- Scratch ranges that are staged, highest PRIO first, the earlier range at a tie (R387). -/
def Launch.scratchRanges (l : Launch) : List WRange :=
  [7, 6, 5, 4, 3, 2, 1, 0].flatMap (fun p => l.ranges.filter (fun r => r.target = 2 && r.reads && r.prio = p))

/-- The range, and the offset in its slice, at a byte of all the staged slices; none past their end. -/
def stageAt : List WRange → Nat → Option (WRange × Nat)
  | [], _ => none
  | r :: l, pos => if pos < r.bytes then some (r, pos) else stageAt l (pos - r.bytes)

/-- One granule of a team's slice written into its bank (R387, R388): a read placed at its core. A read that fails raises its code in the
team, with TRAPVA at the granule. DEDUCED (log 102). -/
def State.stageGranule (s : State) (t : Nat) (x : Team) (l : Launch) (r : WRange) (o : Nat) : State :=
  let src := r.va + x.lin * r.stride + o
  let p : Party := { place := .tte (dieOfCore x.core), pasid := l.pasid, launch := some x.launch }
  let fail (s : State) (c : Code) : State := s.trapAway ⟨16 * t, 0⟩ l.desc.entry { code := c, va := some (BitVec.ofNat 64 src) } 0
  if (s.teams.find t).any (fun y => y.run ≠ .placed) then s
  else match s.piece p .copyRead src with
    | (.error c, s) => fail s c
    | (.ok (pa, _), s) =>
      if s.poisoned pa 16 then fail s (poisonCode pa)
      else
        let b := s.memRead pa 16
        s.updTeam t (fun x => x.scrStore (r.sbank * 2 ^ 17 + r.soff + o) b)

/-- The next 64 bytes of a placed team's slices staged. -/
def State.stageNext (s : State) (t : Nat) (x : Team) (l : Launch) : State :=
  match stageAt l.scratchRanges x.stagePos with
  | none => s
  | some (r, o) =>
      ([0, 16, 32, 48].foldl (fun (s : State) i => s.stageGranule t x l r (o + i)) s).updTeam t (fun y => { y with stagePos := x.stagePos + 64 })

/-- Every scratch slice of the team is written. -/
def Team.stagedAll (x : Team) (l : Launch) : Bool := (stageAt l.scratchRanges x.stagePos).isNone

/-- The teams of a cluster are dispatched together (R82, R141, R389). -/
def State.dispatchTeams (s : State) (id : Nat) (l : Launch) (ts : List Nat) : State :=
  let s := ts.foldl (fun (s : State) t =>
    let lin := ((s.teams.find t).map (·.lin)).getD 0
    let field := fieldOfCore (((s.teams.find t).map (·.core)).getD 0)
    let s := s.updTeam t (fun y => { y with run := .resident })
    let s : State := { s with frags := s.frags.map (fun e => (e.1, e.2.map (fun f =>
      if e.1 / 1024 = t then { f with ready := some (s.clock + 1) } else f))) }
    { s with launches := s.launches.upd id (fun l => { l.ranOn field s.clock with
      charged := l.charged.filter (fun c => !((l.lines lin).contains c)) }) }) s
  s.sliceRuns l.queue

/-- A placed cluster whose scratch slices are all written is dispatched (R389). -/
def State.dispatchStaged (s : State) (team : Nat) : State :=
  match (s.teams.find team).bind (fun x => (s.launches.find x.launch).map (fun l => (x.launch, l))) with
  | none => s
  | some (id, l) =>
    let ms := s.members team
    if ms.all (fun k => (s.teams.find k).any (fun y => y.run = .placed && y.stagedAll l)) then s.dispatchTeams id l ms else s

/-- The next bytes of a placed team's scratch slices are staged; after the last of its cluster the cluster is dispatched (R387 to R389). -/
def State.stageTeam (s : State) (team : Nat) : State :=
  match s.teams.find team with
  | none => s
  | some x =>
    if x.run ≠ .placed then s
    else match s.launches.find x.launch with
      | none => s
      | some l => (s.stageNext team x l).dispatchStaged team

/-- The pages of a team's slices walked into the field TLB of its core (R383). -/
def State.primeTeam (s : State) (k lin : Nat) (l : Launch) : State :=
  (l.ranges.flatMap (fun r =>
    let a := r.va + lin * r.stride
    (List.range ((a + r.bytes - 1) / pageBytes + 1 - a / pageBytes)).map (fun i => a / pageBytes + i))).eraseDups.foldl
      (fun (s : State) u => s.prime k l.pasid (u * pageBytes)) s

/-- A free spill area of a launch: the lowest (R265). DESIGN CHOICE (log 118). -/
def State.spillArea (s : State) (id : Nat) (l : Launch) : Option Nat :=
  let n := l.desc.spill
  let used := (s.teams.all.filter (fun e => e.2.kind = .compute && e.2.launch = id)).filterMap (fun (e : Nat × Team) => e.2.spill)
  (List.range (l.spill.2 / max 1 n)).map (fun i => l.spill.1 + i * n) |>.find? (fun a => !used.contains a)

/-- One team placed on a core, after the acquire of its dependences (R82, R389, R394). -/
def State.placeTeam (s : State) (id : Nat) (l : Launch) (q : Queue) (t k lin idx : Nat) (peers : List Nat) : State :=
  let d := l.desc
  let x : Team := {
    kind := .compute, launch := id, lin := lin, core := k, groups := d.groups, nregs := d.regs, ctx := l.ctx, pasid := l.pasid, dims := l.dims
    clu := (d.cols, d.rows), idx := idx, peers := peers, bs := d.bs, ntiles := d.acct, gsync := d.gsync, paged := d.paged, run := .placed
    rings := d.rings.foldl (fun (m : Tab Ring) r => m.put r.1 { cap := r.2.1, base := r.2.1, w := r.2.2 }) []
    spill := if d.spill = 0 then none else s.spillArea id l
    thresh := if d.park = 0 then q.park else min q.park d.park
    queue := l.queue, packet := s.packetOfLaunch l, level := q.prio }
  let slots := s.freeSlots k
  let s := s.takeBanks t x k
  let gs := (List.range d.groups).map (fun i => (16 * t + i, slots.getD i 0))
  let frag : Frag := { em := BitVec.allOnes 32, pc := d.entry, st := .pending }
  let s : State := { s with
    teams := s.teams.put t x
    groups := gs.foldl (fun (m : Tab Group) g => m.put g.1 ((({ slot := g.2 } : Group).sset 1 l.args))) s.groups
    frags := gs.foldl (fun (m : Tab Frag) g => m.put (64 * g.1 + g.2) frag) s.frags }
  ((s.acquire k (depScope l.deps k)).writeBackAll k).primeTeam k lin l

/-- TEAM_DISPATCH (R141, R142, R373, R389): the next cluster of a launch is placed on the rectangle whose top left core is given, and
dispatched at once where it has no scratch slice to stage. DESIGN CHOICE (log 51). -/
def execTeamDispatch (launch core : Nat) (s : State) : Out :=
  .next (match s.launches.find launch with
    | none => s
    | some l =>
      match s.queueOf l with
      | none => s
      | some q =>
        let lins := l.nextLins
        let a := s.nextAsk l
        if !s.canDispatch launch l ∨ !s.firstToPlace launch l then s
        else match s.fitsAt a.fields core a.clu a.needs with
          | none => s
          | some cores =>
            let ids := (List.range lins.length).map (s.nextId + ·)
            let peers := if lins.length = 1 then [] else ids
            let s : State := { s with nextId := s.nextId + lins.length
                                      launches := s.launches.put launch { l with
                                        unplaced := l.unplaced.drop lins.length, nextTeam := l.nextTeam + (lins.length - l.unplaced.length)
                                        staged := l.staged.filter (fun i => !lins.contains i), waits := s.clock } }
            let s := (ids.zip (cores.zip lins)).zipIdx.foldl (fun (s : State) e => s.placeTeam launch l q e.1.1 e.1.2.1 e.1.2.2 e.2 peers) s
            s.dispatchStaged s.nextId.pred)

/-- TEAM_RELAUNCH (R142, R154, R155, R373): the team's whole cluster, on the rectangle whose top left core is given; a record that is refused
ends the context (R417). DESIGN CHOICE (log 51). -/
def execTeamRelaunch (team core : Nat) (s : State) : Out :=
  .next (match s.teams.find team with
    | none => s
    | some x =>
      let ms := s.members team
      let a := s.againAsk team x
      if !s.canRelaunch team x ∨ !(s.launches.find x.launch).all (s.firstToPlace x.launch) then s
      else match s.fitsAt a.fields core a.clu a.needs with
        | none => s
        | some l =>
          match ms.findSome? s.recordFault with
          | some c => s.endContext x.ctx c
          | none =>
            if ms.any s.coldBad then s.endLaunch team 0x07C else
            let s := (((x.cluster team).zip l).filter (fun e => ms.contains e.1)).foldl (fun (s : State) e => s.restoreTeam e.1 e.2) s
            ms.foldl State.fromCold s)

-- Time slices (R374) --------------------------------------------------------------------------------------------------------------------

/-- The clusters for which a launch waits: for cores, or at step 2 for its admission (R374). -/
def State.waitsFor (s : State) (id : Nat) (l : Launch) : List Ask :=
  if l.step = .admission then (if (s.queueOf l).any (fun q => !q.suspended && s.serves q) then [s.nextAsk l] else []) else s.asks id l

/-- The launch of another queue that waits at a priority or above and goes first (R373, R374). -/
def State.firstWaiting (s : State) (k p : Nat) : Option (Nat × Launch) :=
  (s.launches.all.filter (fun e => e.2.queue ≠ k && p ≤ s.prioOf e.2.queue && s.waitsFor e.1 e.2 ≠ [])).foldl
    (fun (b : Option (Nat × Launch)) e => match b with
      | none => some e
      | some b => some (if s.outranks e b then e else b)) none

/-- The state without some teams: what their pre-emption would free. -/
def State.without (s : State) (ts : List Nat) : State := ts.foldl (fun (s : State) t => { s with teams := s.teams.del t }) s

/-- The resident or placed teams of a queue, the most recently dispatched first. -/
def State.runningOf (s : State) (k : Nat) : List Nat :=
  ((s.teams.all.filter (fun e => e.2.kind = .compute && e.2.queue = k && (e.2.run = .resident || e.2.run = .placed))).map
    (fun (e : Nat × Team) => e.1)).reverse

/-- The fewest of these teams, from the first on, whose pre-emption lets one of the clusters fit; all of them when none does (R374). -/
def State.asMany (s : State) (asks : List Ask) (ts : List Nat) : List Nat :=
  let fits (n : Nat) : Bool := asks.any (fun a => (s.without ((ts.take n).flatMap s.members)).placesFor a ≠ [])
  ts.take (((List.range ts.length).find? (fun i => fits (i + 1))).getD ts.length + 1)

/-- TIME_SLICE_EXPIRY (R374): with a waiting launch of equal or higher priority elsewhere, as many of the queue's teams as that launch needs
are pre-empted, the most recently dispatched first, and the queue is suspended; otherwise its slice restarts. DESIGN CHOICE (log 125). -/
def execTimeSliceExpiry (queue : Nat) (s : State) : Out :=
  .next (match s.queues.find queue with
    | none => s
    | some q =>
      match q.sliceStart with
      | none => s
      | some c =>
        if s.clock < c + q.slice * ckUs then s
        else
          let ts := s.runningOf queue
          match s.firstWaiting queue q.prio with
          | none => s.updQueue queue (fun q => { q with sliceStart := some s.clock })
          | some (id, l) =>
            if ts = [] then s.updQueue queue (fun q => { q with sliceStart := some s.clock })
            else (s.preemptTeams (s.asMany (s.waitsFor id l) ts) (codeOf 5 1 (s.prioOf l.queue))).suspendQueue queue)

-- Ends (R257, R369, R379, R384, R394, R405) --------------------------------------------------------------------------------------------------------

/-- The cores of the fields where a launch ran write back what they hold (R257, R394). -/
def State.releaseFields (s : State) (fields : List Nat) : State :=
  (s.cores.keys.filter (fun k => k < 1536 && fields.contains (fieldOfCore k))).foldl (fun (s : State) k => s.writeBackAll k) s

/-- A launch that has ended: its packet or node ends (R369, R379, R405, R415). -/
def State.launchDone (s : State) (id : Nat) (l : Launch) : State :=
  let fields := l.fieldsRan
  let s := match l.own with
    | .packet k _ => s.updQueue k (fun q => { q with deps := q.deps.map (fun d => (d ++ fields).eraseDups) })
    | .node _ _ => s
  match l.failed, l.own with
  | some _, .packet k i => if l.repeats then s.retire k false else s.packetEnds k i
  | some c, .node g j => s.graphFault g j c true
  | none, .packet k i =>
      if l.repeats then
        let deps := ((s.queues.find k).map (·.deps)).getD none
        let s : State := { s with launches := s.launches.put id { l with
          step := .prologue, run := l.run + 1, repeats := false, deps := deps, ranges := [], lease := [], leaves := [], since := s.clock
          spill := (0, 0), reserve := (0, 0), cold := (0, 0) } }
        s.showStep id
      else (s.makeDone k l.done).packetEnds k i
  | none, .node g j =>
      if l.repeats then { s with launches := s.launches.put id { l with
          step := .prologue, run := l.run + 1, repeats := false, deps := l.deps.map (fun d => (d ++ fields).eraseDups), ranges := [], lease := [], leaves := []
          since := s.clock, spill := (0, 0), reserve := (0, 0), cold := (0, 0) } }
      else
        let succs := ((s.graphs.find g).bind (fun x => x.nodes.find j)).elim [] GNode.succs
        (s.makeDone l.queue l.done).nodeEnd g j succs (some fields)

/-- LAUNCH_END (R257, R369, R384): the last team has ended; the launch releases, gives back what it held, and its packet
or node ends. -/
def execLaunchEnd (launch : Nat) (s : State) : Out :=
  .next (match s.launches.find launch with
    | none => s
    | some l =>
      if l.step ≠ .admitted ∨ l.nextTeam < l.total ∨ l.unplaced ≠ [] ∨ l.left ≠ 0 then s
      else
        let s := (s.releaseFields l.fieldsRan).clearLeases l.leaves
        let s := ((s.giveBack l.spill).giveBack l.reserve).giveBack l.cold
        ({ s with launches := s.launches.del launch } : State).launchDone launch l)

-- Arbiters (R391) ---------------------------------------------------------------------------------------------------------------------------------------

/-- The request that an arbiter serves: at 1 of 16 grants the oldest that has waited 10 µs, else the lowest class, oldest
first. DEDUCED (log 10). -/
def Arbiter.pick (a : Arbiter) (clock : Nat) : Option (Nat × Nat) :=
  let aged := if a.grants % 16 = 15 then a.waiting.find? (fun r => 1 ≤ r.1 && r.2 + 10 * ckUs ≤ clock) else none
  aged.orElse (fun _ => (List.range 4).findSome? (fun c => a.waiting.find? (fun r => r.1 = c)))

/-- ARBITER_AGING (R391): one grant of an arbiter. What waits at an arbiter is traffic whose effects the model makes when
they issue, so a grant changes only the arbiter (log 10). -/
def execArbiterAging (arb : Nat) (s : State) : Out :=
  .next (match s.arbiters.find arb with
    | none => s
    | some a =>
      match a.pick s.clock with
      | none => s
      | some r => { s with arbiters := s.arbiters.put arb { waiting := a.waiting.erase r, grants := a.grants + 1 } })

end Sys2Proof.Machine
end

