-- ==== Sys2Proof/WellFormed.lean ====
section
/-! DEFINITION. Which terms of Instr the encodings of the spec can carry: the limits on register groups, bit
fields, scopes, modifiers and PAIR words that the types of Syntax leave open (R29, R36 to R38, R94, R204 and the
field tables of each chapter). A word that breaks one of them is a decode trap, so no decoded instruction breaks
one. -/

namespace Sys2Proof

/-- The special registers that R85 and R433 assign. -/
def srAssigned (n : Nat) : Bool :=
  n ≤ 0x00A || (0x010 ≤ n && n ≤ 0x014) || (0x020 ≤ n && n ≤ 0x023) ||
  n = 0x100 || n = 0x101 || n = 0x102 || n = 0x107 || n = 0x108 || n = 0x110 || n = 0x111 ||
  (0x118 ≤ n && n ≤ 0x11B) || n = 0x120

/-- A vector group of n registers that starts at a multiple of al (R29, R204). -/
def vecOk (r : VReg) (n al : Nat) : Bool := r.val % al = 0 && r.val + n ≤ 128

/-- A scalar block of n registers (R204, R295, R359, R429). -/
def scaOk (r : SReg) (n : Nat) : Bool := r.val + n ≤ 64

/-- Registers that a vector access of a size needs (R204): how many, and the multiple at which they start. -/
def Sz.vecSpan : Sz → Nat
  | .d => 2
  | .q => 4
  | _ => 1

/-- A vector data operand of a memory access (R204). -/
def vecSzOk (r : VReg) (sz : Sz) : Bool := vecOk r sz.vecSpan sz.vecSpan

/-- A scalar data operand of a memory access (R204). -/
def scaSzOk (r : SReg) (sz : Sz) : Bool := sz ≠ .q || r.val % 2 = 0

/-- Sign extension is listed only for the sizes below a register (R203): .b and .h, and .w on SLD. -/
def signOk (n : Sgn) (sz : Sz) (scalar : Bool) : Bool :=
  n = .un || sz = .b || sz = .h || (scalar && sz = .w)

/-- Scope 7 is unassigned (R221, R231, R241, R288). -/
def scOk (o : Option Scope) : Bool := o ≠ some 7

/-- The scope of a completion add (R288). -/
def caOk (o : Option CAdd) : Bool :=
  match o with
  | none => true
  | some c => c.sc ≠ 7

/-- A base that is a vector pair (R29). -/
def pairOk (r : VReg) : Bool := vecOk r 2 2

/-- The 16-bit float types of a conversion (R126). -/
def CvtTy.isHalf : CvtTy → Bool
  | .f16 | .bf16 => true
  | _ => false

/-- Registers that MDRAIN writes for each row group (R328); np8 has no register form. -/
def DrainTy.regsPerGroup : DrainTy → Nat
  | .f32 | .s32 => 16
  | .bf16 | .f16 => 8
  | .s8 => 4
  | .np8 => 0

/-- The destination register of a half: vector numbers as they are, scalars above them (R38). -/
def Half.dst : Half → Nat
  | .vadd d _ | .vsub d _ | .vmul d _ | .vand d _ | .vor d _ | .vxor d _
  | .vshl d _ | .vshr d _ | .vsra d _ | .vmin _ d _ | .vmax _ d _
  | .vmov d _ | .vaddi d _ _ | .vmovi d _
  | .vfadd _ d _ | .vfsub _ d _ | .vfmul _ d _ | .vfmin d _ | .vfmax d _
  | .vhadd _ d _ | .vhmul _ d _ => d.val
  | .sadd d _ | .ssub d _ | .sand d _ | .sor d _ | .sxor d _
  | .sshl d _ | .sshr d _ | .smov d _ | .saddi d _ _ | .smovi d _ => 128 + d.val

/-- The registers a half reads, numbered as in Half.dst (R38): a register half reads D and A (VMOV and
SMOV are register halves of R36), VADDI and SADDI read A, and VMOVI and SMOVI read nothing. -/
def Half.reads : Half → List Nat
  | .vadd d a | .vsub d a | .vmul d a | .vand d a | .vor d a | .vxor d a
  | .vshl d a | .vshr d a | .vsra d a | .vmin _ d a | .vmax _ d a
  | .vfadd _ d a | .vfsub _ d a | .vfmul _ d a | .vfmin d a | .vfmax d a
  | .vhadd _ d a | .vhmul _ d a => [d.val, a.val]
  | .vmov d a => [d.val, a.val]
  | .vaddi _ a _ => [a.val]
  | .vmovi _ _ => []
  | .sadd d a | .ssub d a | .sand d a | .sor d a | .sxor d a
  | .sshl d a | .sshr d a => [128 + d.val, 128 + a.val]
  | .smov d a => [128 + d.val, 128 + a.val]
  | .saddi _ a _ => [128 + a.val]
  | .smovi _ _ => []

/-- The first pairing rule a word breaks, as the detail of its code (R38): 0 same destination, 1 same bank,
2 more than two reads in one bank. -/
def pairFault (h0 h1 : Half) : Option Nat :=
  let d0 := h0.dst
  let d1 := h1.dst
  let reads := (h0.reads ++ h1.reads).eraseDups.filter (fun r => r < 128)
  let crowded := (List.range 4).any (fun b => 2 < (reads.filter (fun r => r % 4 = b)).length)
  if d0 = d1 then some 0
  else if d0 < 128 && d1 < 128 && d0 % 4 = d1 % 4 then some 1
  else if crowded then some 2
  else none

/-- A PAIR word that breaks no pairing rule (R38). -/
def pairWordOk (h0 h1 : Half) : Bool := (pairFault h0 h1).isNone

/-- The two halves of a PAIR word (R35, R36): H0 from the constructor, H1 its argument. -/
def Instr.halves : Instr → Option (Half × Half)
  | .pairVadd d a h => some (.vadd d a, h)
  | .pairVsub d a h => some (.vsub d a, h)
  | .pairVmul d a h => some (.vmul d a, h)
  | .pairVand d a h => some (.vand d a, h)
  | .pairVor d a h => some (.vor d a, h)
  | .pairVxor d a h => some (.vxor d a, h)
  | .pairVshl d a h => some (.vshl d a, h)
  | .pairVshr d a h => some (.vshr d a, h)
  | .pairVsra d a h => some (.vsra d a, h)
  | .pairVmin n d a h => some (.vmin n d a, h)
  | .pairVmax n d a h => some (.vmax n d a, h)
  | .pairVmov d a h => some (.vmov d a, h)
  | .pairVaddi d a x h => some (.vaddi d a x, h)
  | .pairVmovi d x h => some (.vmovi d x, h)
  | .pairVfadd rm d a h => some (.vfadd rm d a, h)
  | .pairVfsub rm d a h => some (.vfsub rm d a, h)
  | .pairVfmul rm d a h => some (.vfmul rm d a, h)
  | .pairVfmin d a h => some (.vfmin d a, h)
  | .pairVfmax d a h => some (.vfmax d a, h)
  | .pairVhadd rm d a h => some (.vhadd rm d a, h)
  | .pairVhmul rm d a h => some (.vhmul rm d a, h)
  | .pairSadd d a h => some (.sadd d a, h)
  | .pairSsub d a h => some (.ssub d a, h)
  | .pairSand d a h => some (.sand d a, h)
  | .pairSor d a h => some (.sor d a, h)
  | .pairSxor d a h => some (.sxor d a, h)
  | .pairSshl d a h => some (.sshl d a, h)
  | .pairSshr d a h => some (.sshr d a, h)
  | .pairSmov d a h => some (.smov d a, h)
  | .pairSaddi d a x h => some (.saddi d a x, h)
  | .pairSmovi d x h => some (.smovi d x, h)
  | _ => none

/-- The limits of each instruction's fields that its argument types do not state. Instructions that are not listed
have none. -/
def Instr.wf (i : Instr) : Bool :=
  match i with
  -- R94, R104: bit fields; R88, R108: index shift
  | .sbfx _ _ _ pos len | .sbfi _ _ pos len => 1 ≤ len.toNat && pos.val + len.toNat ≤ 64
  | .vbfx _ _ _ pos len | .vbfi _ _ pos len => 1 ≤ len.toNat && pos.val + len.toNat ≤ 32
  | .saddr _ _ _ sc _ => sc.val ≤ 4
  | .vaddr _ d a _ sc _ => pairOk d && pairOk a && sc.val ≤ 4
  -- R126, R128, R132
  | .vcvt dt sty _ dhi shi _ _ => (!dhi || dt.isHalf) && (!shi || sty.isHalf)
  | .vnupk _ p _ _ _ => 2 ≤ p.val && p.val ≤ 8
  | .vred _ op rm _ _ | .vscan _ op rm _ _ => op = .fadd || rm = .rne
  -- R203, R204
  | .ld _ _ sz n d a _ | .ldro _ _ sz n d a _ => vecSzOk d sz && pairOk a && signOk n sz false
  | .lds _ _ sz n d _ _ => vecSzOk d sz && signOk n sz false
  | .st _ _ sz d a _ => vecSzOk d sz && pairOk a
  | .sts _ _ sz d _ _ => vecSzOk d sz
  | .sld _ _ sz n _ d _ _ => scaSzOk d sz && signOk n sz true
  | .sst _ _ sz _ d _ _ => scaSzOk d sz
  | .pref _ _ a _ =>
    match a with
    | .vec r => pairOk r
    | .sca _ => true
  -- R241
  | .red _ _ la wide op sc rt a b =>
    let span := if wide then 2 else 1
    pairOk a && vecOk b span span && sc ≠ 7 && (op ≠ .fadd || !wide) &&
    match rt with
    | none => la = 0
    | some d => vecOk d span span
  -- R231
  | .cadd la rt _ _ rel => (rt.isSome || la = 0) && scOk rel
  | .caddv _ la rt a _ rel =>
    pairOk a && scOk rel &&
    match rt with
    | none => la = 0
    | some d => pairOk d
  | .cwait _ _ acq | .cread _ _ _ acq | .ctest _ _ _ acq | .park _ _ acq => scOk acq
  | .cwaita _ a cnt acq => scaOk a (2 * (cnt.val + 1)) && scOk acq
  -- R271
  | .qpush _ _ a _ => vecOk a 8 1
  | .qpop _ _ _ d _ _ => vecOk d 8 1
  | .qinfo _ _ d _ => scaOk d 3
  -- R161
  | .sdbnz d _ => d ≠ 0
  -- R288
  | .cpy _ _ ds ss _ d a ca => (ds || pairOk d) && (ss || pairOk a) && caOk ca
  | .cpyt _ _ _ _ _ _ ca => caOk ca
  | .cpyf _ _ _ sz _ a ca => scaOk a (if sz = .q then 3 else 2) && caOk ca
  -- R319, R325, R328
  | .mbq _ c _ a => vecOk a (if c then 20 else 32) 1
  | .mdrain _ _ dst _ rg nrg dt _ _ bl =>
    rg.val + nrg.val + 1 ≤ 8 && (bl = .b16 || dt = .np8) &&
    match dst with
    | .reg d => dt ≠ .np8 && vecOk d (dt.regsPerGroup * (nrg.val + 1)) 1
    | .scr _ => true
  | .mcmpr _ fmt _ _ _ b => fmt = .np8 || b = 0
  -- R465
  | .iold _ cfg sz _ _ _ => sz ≠ .q && (!cfg || sz ≠ .d)
  | .iost cfg sz _ _ _ => sz ≠ .q && (!cfg || sz ≠ .d)
  -- R428, R433; a SWR of FPFLAGS or STAGEQ has a row of its own
  | .srd _ num d => srAssigned num.toNat && (num = 0 || d.val < 64)
  | .swr num _ => srAssigned num.toNat && num ≠ 0x010 && num ≠ 0x111
  -- R360, R359, R429, R430, R453, R457, R456, R379
  | .tlbi kind g a =>
    match kind with
    | .all => !g && a = 0
    | .pasid => !g
    | .va => scaOk a 2
    | .range => scaOk a 3
  | .pgharv _ _ a => scaOk a 4
  | .cscope a e => scaOk a 2 && 8 ≤ e.val
  | .bmode tr q => tr ≠ .way || q = 0
  | .msib mode a => mode = .off || scaOk a 3
  | .atsinv all a => all || scaOk a 4
  | .prgr _ a => scaOk a 2
  | .plaunch a => scaOk a 2
  | .prepeat a _ => scaOk a 2
  | i =>
    match i.halves with
    | some (h0, h1) => pairWordOk h0 h1
    | none => true

end Sys2Proof
end

