-- ==== Sys2Proof/Decode.lean ====
section
/-! DEFINITION. Words to instructions and back: the field format of R28 and R35, the opcode map of R36 and R46,
the checks of R44 in their order, and the encoder. -/

namespace Sys2Proof

-- Codes of the enumerations that words carry -----------------------------------------------------

def Sgn.code : Sgn → Nat | .sg => 0 | .un => 1
def Sgn.ofCode : Nat → Sgn | 0 => .sg | _ => .un
/-- N of R203 is the other way round: 0 zero-extends. -/
def Sgn.memCode : Sgn → Nat | .un => 0 | .sg => 1
def Sgn.ofMemCode : Nat → Sgn | 0 => .un | _ => .sg
def Cc.code : Cc → Nat | .eq => 0 | .ne => 1 | .lt => 2 | .le => 3 | .gt => 4 | .ge => 5
def Cc.ofCode : Nat → Cc | 0 => .eq | 1 => .ne | 2 => .lt | 3 => .le | 4 => .gt | _ => .ge
def Fcc.code : Fcc → Nat
  | .eq => 0 | .ne => 1 | .lt => 2 | .le => 3 | .gt => 4 | .ge => 5 | .un => 6 | .ord => 7
def Fcc.ofCode : Nat → Fcc
  | 0 => .eq | 1 => .ne | 2 => .lt | 3 => .le | 4 => .gt | 5 => .ge | 6 => .un | _ => .ord
def Rm.code : Rm → Nat | .rne => 0 | .rtz => 1 | .rdn => 2 | .rup => 3
def Rm.ofCode : Nat → Rm | 0 => .rne | 1 => .rtz | 2 => .rdn | _ => .rup
def Hf.code : Hf → Nat | .f16 => 0 | .bf16 => 1
def Hf.ofCode : Nat → Hf | 0 => .f16 | _ => .bf16
def CvtTy.code : CvtTy → Nat | .f32 => 0 | .f16 => 1 | .bf16 => 2 | .s32 => 3 | .n32 => 4
def CvtTy.ofCode : Nat → CvtTy | 0 => .f32 | 1 => .f16 | 2 => .bf16 | 3 => .s32 | _ => .n32
def Bl.code : Bl → Nat | .b16 => 0 | .b32 => 1
def Bl.ofCode : Nat → Bl | 0 => .b16 | _ => .b32
def RedOp.code : RedOp → Nat
  | .add => 0 | .minS => 1 | .maxS => 2 | .minN => 3 | .maxN => 4 | .and => 5 | .or => 6 | .xor => 7
  | .fadd => 8 | .fmin => 9 | .fmax => 10
def RedOp.ofCode : Nat → RedOp
  | 0 => .add | 1 => .minS | 2 => .maxS | 3 => .minN | 4 => .maxN | 5 => .and | 6 => .or | 7 => .xor
  | 8 => .fadd | 9 => .fmin | _ => .fmax
def MemRed.code : MemRed → Nat
  | .add => 0 | .minS => 1 | .maxS => 2 | .minN => 3 | .maxN => 4 | .and => 5 | .or => 6 | .xor => 7
  | .fadd => 8 | .exch => 9
def MemRed.ofCode : Nat → MemRed
  | 0 => .add | 1 => .minS | 2 => .maxS | 3 => .minN | 4 => .maxN | 5 => .and | 6 => .or | 7 => .xor
  | 8 => .fadd | _ => .exch
def Sz.code : Sz → Nat | .b => 0 | .h => 1 | .w => 2 | .d => 3 | .q => 4
def Sz.ofCode : Nat → Sz | 0 => .b | 1 => .h | 2 => .w | 3 => .d | _ => .q
def CSz.code : CSz → Nat | .w => 0 | .d => 1 | .q => 2
def CSz.ofCode : Nat → CSz | 0 => .w | 1 => .d | _ => .q
def DrainTy.code : DrainTy → Nat | .f32 => 0 | .bf16 => 1 | .f16 => 2 | .s32 => 3 | .s8 => 4 | .np8 => 5
def DrainTy.ofCode : Nat → DrainTy | 0 => .f32 | 1 => .bf16 | 2 => .f16 | 3 => .s32 | 4 => .s8 | _ => .np8
def AccTy.code : AccTy → Nat | .f32 => 0 | .s32 => 1
def AccTy.ofCode : Nat → AccTy | 0 => .f32 | _ => .s32
def MFmt.code : MFmt → Nat | .s8 => 0 | .n8 => 1 | .np8 => 2 | .bf16 => 3 | .f16 => 4
def MFmt.ofCode : Nat → MFmt | 0 => .s8 | 1 => .n8 | 2 => .np8 | 3 => .bf16 | _ => .f16
def TlbiKind.code : TlbiKind → Nat | .all => 0 | .pasid => 1 | .va => 2 | .range => 3
def TlbiKind.ofCode : Nat → TlbiKind | 0 => .all | 1 => .pasid | 2 => .va | _ => .range
def BankTr.code : BankTr → Nat | .way => 0 | .ring => 1 | .scratch => 2
def BankTr.ofCode : Nat → BankTr | 0 => .way | 1 => .ring | _ => .scratch
def MsiMode.code : MsiMode → Nat | .off => 0 | .one => 1 | .data => 2
def MsiMode.ofCode : Nat → MsiMode | 0 => .off | 1 => .one | _ => .data
def PrgCode.code : PrgCode → Nat | .ok => 0 | .inv => 1 | .fail => 2
def PrgCode.ofCode : Nat → PrgCode | 0 => .ok | 1 => .inv | _ => .fail

/-- A guard or a selector as four bits (R30, R88 SEL). -/
def Guard.code (g : Guard) : Nat := g.p.val + if g.neg then 8 else 0
def Guard.ofCode (n : Nat) : Guard := ⟨decide (8 ≤ n % 16), Fin.ofNat 8 n⟩

-- The fields of a word ---------------------------------------------------------------------------

/-- The fields of a full-form word (R28), as numbers. -/
structure Fields where
  form : Nat
  op : Nat
  d : Nat := 0
  a : Nat := 0
  b : Nat := 0
  g : Nat := 0
  la : Nat := 0
  m : Nat := 0
deriving DecidableEq, Repr

/-- Bits [hi:lo] of a number. -/
def nbits (x hi lo : Nat) : Nat := x / 2 ^ lo % 2 ^ (hi + 1 - lo)

/-- The fields of a word (R28). -/
def Fields.unpack (w : Nat) : Fields where
  form := nbits w 63 60
  op := nbits w 59 52
  d := nbits w 51 45
  a := nbits w 44 38
  b := nbits w 37 31
  g := nbits w 30 27
  la := nbits w 26 23
  m := nbits w 22 0

/-- The word of a field record (R28). -/
def Fields.pack (f : Fields) : Nat :=
  f.form * 2 ^ 60 + f.op * 2 ^ 52 + f.d * 2 ^ 45 + f.a * 2 ^ 38 + f.b * 2 ^ 31 + f.g * 2 ^ 27 +
    f.la * 2 ^ 23 + f.m

/-- One bit of M. -/
def Fields.mb (f : Fields) (i : Nat) : Bool := f.m / 2 ^ i % 2 = 1
/-- Bits [hi:lo] of M. -/
def Fields.mf (f : Fields) (hi lo : Nat) : Nat := nbits f.m hi lo
/-- B and M as one 30-bit immediate (R34). -/
def Fields.imm (f : Fields) : BitVec 30 := BitVec.ofNat 30 (f.b * 2 ^ 23 + f.m)

/-- The wait mask bits of M (R33). -/
def wtMask : Nat := 0x7F8000
/-- All of M. -/
def allM : Nat := 0x7FFFFF

-- What each field of an instruction holds -----------------------------------------------------------

/-- Whether an instruction reads or writes the registers of a field. -/
inductive Role | r | w | rw
deriving DecidableEq, Repr

/-- What a register field holds (R29 and the field tables). -/
inductive Use
  | zero                                  -- not used: must be zero (R28)
  | free                                  -- bits of an immediate or displacement
  | vec (ro : Role) (n al : Nat)          -- n vector registers from a multiple of al
  | sca (ro : Role) (n : Nat)             -- n scalars; running past s63 is a reserved field
  | blk (n : Nat)                         -- up to n scalars read; the instruction checks the block itself (R295)
  | even (ro : Role)                      -- an even scalar and the next one (R204 .q)
  | nonzero                               -- a scalar 1 to 63, read and written (R161 SDBNZ)
  | pred (ro : Role)
  | tile
  | link (ro : Role)                      -- R163
  | lit                                   -- 0x7F (R39)
deriving DecidableEq, Repr

/-- The table row of an instruction under its modifiers: its register fields, whether it honours G and LA, the
bits of M it uses, whether a modifier value is one that its table marks as trap 0x004, the payload limit of an .l
form, and the selector predicate of SSEL and VSEL. -/
structure Layout where
  d : Use := .zero
  a : Use := .zero
  b : Use := .zero
  g : Bool := false
  la : Bool := false
  mask : Nat := 0
  bad : Bool := false
  ext : Option Nat := none
  sel : Bool := false

/-- A scalar read, a scalar written, and the vector counterparts. -/
abbrev Use.sR : Use := .sca .r 1
abbrev Use.sW : Use := .sca .w 1
abbrev Use.vR : Use := .vec .r 1 1
abbrev Use.vW : Use := .vec .w 1 1
abbrev Use.pairR : Use := .vec .r 2 2

/-- B of a vector instruction: a scalar when SB is set (R88, R112). -/
def Fields.sb (f : Fields) : Use := if f.mb 7 then .sR else .vR

/-- The vector data operand of a memory access (R204). -/
def vecData (ro : Role) (sz : Nat) : Use :=
  match sz with
  | 3 => .vec ro 2 2
  | 4 => .vec ro 4 4
  | _ => .vec ro 1 1

/-- The scalar data operand of a memory access (R204). -/
def scaData (ro : Role) (sz : Nat) : Use := if sz = 4 then .even ro else .sca ro 1

/-- The table rows of FORM 0x0 (R90 to R98). -/
def layoutScalar (f : Fields) : Option Layout :=
  let three : Layout := { d := .sW, a := .sR, b := .sR }
  let two : Layout := { d := .sW, a := .sR }
  let shift : Layout := if f.mb 6 then { two with mask := 0x7F } else three
  let bfBad := decide (f.mf 12 6 < 1) || decide (64 < f.mf 5 0 + f.mf 12 6)
  match f.op with
  | 0x00 | 0x01 | 0x02 | 0x06 | 0x07 | 0x08 => some three
  | 0x03 | 0x0C | 0x0D => some { three with mask := 1 }
  | 0x04 | 0x05 => some { three with mask := 1, la := true }
  | 0x09 | 0x0A | 0x0B => some shift
  | 0x0E | 0x0F | 0x14 => some two
  | 0x10 => some { two with mask := 0x3FFF, bad := bfBad }
  | 0x11 => some { two with d := .sca .rw 1, mask := 0x1FFF, bad := bfBad }
  | 0x12 => some { d := .pred .w, a := .sR, b := .sR, mask := 0xF, bad := decide (5 < f.mf 3 1) }
  | 0x13 => some { three with g := true, mask := 0xF00, sel := true }
  | 0x15 => some { two with b := .free, mask := allM }
  | 0x16 => some (if f.a = 0x7F then { d := .sW, a := .lit, mask := 0xF, ext := some 60 }
      else { d := .sW, b := .free, mask := allM })
  | 0x17 => some { d := .sW, a := .lit, mask := 0xF, ext := some 60 }
  | 0x18 => some { three with mask := 0x77FFFF, bad := decide (4 < f.mf 22 20) }
  | _ => none

/-- The table rows of FORM 0x1 (R99 to R109). -/
def layoutVint (f : Fields) : Option Layout :=
  let three : Layout := { d := .vW, a := .vR, b := f.sb, mask := 0x80 }
  let two : Layout := { d := .vW, a := .vR }
  let acc : Use := .vec .rw 1 1
  let shift : Layout :=
    if f.mb 6 then { two with mask := 0xFF, bad := f.mb 7 } else three
  let bfBad := decide (f.mf 12 6 < 1) || decide (32 < f.mf 5 0 + f.mf 12 6)
  match f.op with
  | 0x00 | 0x01 | 0x02 | 0x07 | 0x08 | 0x09 => some three
  | 0x03 | 0x05 | 0x06 | 0x0D | 0x0E => some { three with mask := 0x81 }
  | 0x04 => some { three with d := acc }
  | 0x0A | 0x0B | 0x0C => some shift
  | 0x0F => some { two with mask := 2 }
  | 0x10 | 0x11 | 0x16 => some two
  | 0x12 => some { two with mask := 0x3FFF, bad := bfBad }
  | 0x13 => some { two with d := acc, mask := 0x1FFF, bad := bfBad }
  | 0x14 => some { three with d := .pred .w, mask := 0x8F, bad := decide (5 < f.mf 3 1) }
  | 0x15 => some { three with g := true, mask := 0xF80, sel := true }
  | 0x17 => some (if f.a = 0x7F then { d := .vW, a := .lit, ext := some 32 }
      else { d := .vW, b := .free, mask := allM })
  | 0x18 => some { two with b := .free, mask := allM }
  | 0x19 => some { d := .vW, a := .sR, mask := 1 }
  | 0x1A => some { d := .vec .w 2 2, a := .pairR, b := .vR, mask := allM, bad := decide (4 < f.mf 22 20) }
  | 0x1B => some { three with d := acc, mask := 0x83 }
  | _ => none

/-- The table rows of FORM 0x2 (R115 to R125). An RM on an instruction that offers no rounding mode is a modifier
fault, 0x004 (R60, R111). -/
def layoutVflt (f : Fields) : Option Layout :=
  let three : Layout := { d := .vW, a := .vR, b := f.sb, mask := 0x83 }
  let two : Layout := { d := .vW, a := .vR, mask := 3 }
  let noRm := decide (f.mf 1 0 ≠ 0)
  let acc : Use := .vec .rw 1 1
  match f.op with
  | 0x00 | 0x01 | 0x02 => some three
  | 0x03 | 0x04 => some { three with d := acc }
  | 0x05 | 0x06 => some { three with bad := noRm }
  | 0x07 | 0x08 | 0x0A => some { two with bad := noRm }
  | 0x09 => some { three with d := .pred .w, mask := 0xBB, bad := noRm }
  | 0x0B | 0x0C | 0x0F | 0x10 => some { two with la := true, bad := noRm }
  | 0x0D => some { three with la := true }
  | 0x0E => some { two with la := true }
  | 0x11 => some two
  | 0x12 | 0x13 => some { three with mask := 0x87 }
  | 0x14 | 0x15 => some { three with d := acc, mask := 0x87 }
  | _ => none

/-- The table rows of FORM 0x3 (R126 to R138). -/
def layoutXlane (f : Fields) : Option Layout :=
  let half (n : Nat) : Bool := n = 1 || n = 2
  let dt := f.mf 4 2
  let src := f.mf 7 5
  let lane (d a : Use) (s : Nat) : Layout :=
    if f.mb 5 then { d := d, a := a, mask := 0x3F + s } else { d := d, a := a, b := .sR, mask := s }
  match f.op with
  | 0x00 => some
      { d := if half dt then .vec .rw 1 1 else .vW, a := .vR, mask := 0x3FF
        bad := decide (4 < dt) || decide (4 < src) || (f.mb 9 && !half src) || (f.mb 8 && !half dt) }
  | 0x01 => some { d := .vW, a := .vR, mask := 1 }
  | 0x02 => some { d := .vW, a := .vR, mask := 0x3F, bad := decide (f.mf 4 1 < 2) || decide (8 < f.mf 4 1) }
  | 0x03 => some { d := .vW, a := .vR, b := .vR }
  | 0x04 => some (lane .vW .vR 0)
  | 0x05 | 0x06 => some
      { d := if f.op = 0x05 then .sW else .vW, a := .vR, la := true, mask := 0x3F
        bad := decide (10 < f.mf 5 2) || (f.mf 5 2 ≠ 8 && f.mf 1 0 ≠ 0) }
  | 0x07 => some { d := if f.mf 1 0 = 3 then .sW else .pred .w, a := .pred .r, mask := 3 }
  | 0x08 => some (lane .sW .vR 0x40)
  | 0x09 => some (lane .vW .sR 0)
  | 0x0A => some { d := .vW, a := .pred .r, mask := 1 }
  | 0x0B => some { d := .pred .w, a := .pred .r, b := .pred .r, mask := 0xF }
  | 0x0C => some { d := .pred .w, a := .sR }
  | 0x0D => some { d := .sW, a := .pred .r }
  | 0x0E => some { d := .sW }
  | 0x0F => some { a := .sR }
  | _ => none

/-- The table rows of FORM 0x4 (R203 to R210, R241). M fields that ROINV and PREF do not use are reserved. DEDUCED (log 131). -/
def layoutMem (f : Fields) : Option Layout :=
  let sz := f.mf 14 12
  let szBad := decide (4 < sz)
  let sign (lim : Nat) := f.mb 11 && decide (lim ≤ sz)
  let base := wtMask + 0x7BFF
  let withSb := wtMask + 0x7FFF
  let lane : Use := if f.mb 10 then .sR else .vR
  match f.op with
  | 0x00 | 0x04 => some
      { d := vecData .w sz, a := .pairR, b := .free, la := true, mask := base, bad := szBad || sign 2 }
  | 0x01 => some { d := vecData .r sz, a := .pairR, b := .free, g := true, mask := base, bad := szBad || sign 0 }
  | 0x02 => some { d := vecData .w sz, a := lane, b := .free, la := true, mask := withSb, bad := szBad || sign 2 }
  | 0x03 => some { d := vecData .r sz, a := lane, b := .free, g := true, mask := withSb, bad := szBad || sign 0 }
  | 0x05 => some { d := scaData .w sz, a := .sR, b := .free, la := true, mask := withSb, bad := szBad || sign 3 }
  | 0x06 => some { d := scaData .r sz, a := .sR, b := .free, g := true, mask := withSb, bad := szBad || sign 0 }
  | 0x07 =>
      let span := if sz = 3 then 2 else 1
      some { d := if f.mb 7 then .vec .w span span else .zero, a := .pairR, b := .vec .r span span
             g := true, la := f.mb 7, mask := wtMask + 0x7FFC
             bad := (sz ≠ 2 && sz ≠ 3) || decide (9 < f.mf 11 8) || (f.mf 11 8 = 8 && sz = 3) || f.mf 6 2 = 7 }
  | 0x08 => some { mask := wtMask }
  | 0x09 => some { a := if f.mb 10 then .sR else .pairR, b := .free, mask := wtMask + 0xFFF }
  | _ => none

/-- The table rows of FORM 0x5 (R231, R271). -/
def layoutCtr (f : Fields) : Option Layout :=
  let ord := if f.mb 5 then 0x3F else 0
  let bad := f.mb 5 && f.mf 4 0 = 7
  let x := f.mb 7
  match f.op with
  | 0x00 => some
      { d := if f.mb 6 then .sW else .zero, a := .sR, b := if f.mb 7 then .zero else .sR
        la := f.mb 6, mask := ord + 0xC0 + if f.mb 7 then 0x7FFF00 else 0, bad := bad }
  | 0x01 => some
      { d := if f.mb 6 then .vec .w 2 2 else .zero, a := .pairR, b := .vR, g := true, la := f.mb 6
        mask := ord + 0x40, bad := bad }
  | 0x02 => some { a := .sR, b := .sR, mask := ord, bad := bad }
  | 0x03 => some { d := .sW, a := .sca .r (2 * f.mf 9 8 + 2), mask := ord + 0x300, bad := bad }
  | 0x04 => some { d := .sW, a := .sR, la := true, mask := ord, bad := bad }
  | 0x05 => some { d := .pred .w, a := .sR, b := .sR, mask := ord, bad := bad }
  | 0x06 => some { a := .sR, b := .sR }
  | 0x07 => some { a := .vec .r 8 1, b := if x then .sR else .zero, g := true, mask := 0x87 }
  | 0x08 => some { d := .vec .w 8 1, a := if x then .sR else .zero, b := .pred .w, la := true, mask := 0xA7 }
  | 0x09 => some { d := .sca .w 3, a := if x then .sR else .zero, la := true, mask := 0x87 }
  | _ => none

/-- The table rows of FORM 0x6 (R161). -/
def layoutCtl (f : Fields) : Option Layout :=
  match f.op with
  | 0x00 => some (if f.a = 0x7F then { a := .lit, ext := some 56 } else { b := .free, mask := allM })
  | 0x01 => some { b := .free, g := true, mask := allM }
  | 0x02 => some { b := .free, g := true, mask := allM }
  | 0x03 => some { mask := 0xFF }
  | 0x04 => some (if f.a = 0x7F then { d := .link .w, a := .lit, ext := some 56 }
      else { d := .link .w, b := .free, mask := allM })
  | 0x05 => some { a := .link .r }
  | 0x06 => some { a := .link .r, b := .sR }
  | 0x07 => some { d := .nonzero, b := .free, mask := allM }
  | 0x08 => some { b := .free, mask := allM }
  | 0x09 => some { mask := wtMask }
  | 0x0A | 0x0C => some {}
  | 0x0B => some { mask := allM }
  | _ => none

/-- The table rows of FORM 0x7 (R288). -/
def layoutCopy (f : Fields) : Option Layout :=
  let ca := f.mb 11
  let scMask := if ca then 0xFC0 else 0
  let bad := ca && f.mf 10 6 = 7
  let ctr : Use := if ca then .sR else .zero
  let place (scr : Bool) : Use := if scr then .vR else .pairR
  let wtTok := wtMask + 0x7000
  match f.op with
  | 0x00 => some
      { d := place (f.mb 5), a := place (f.mb 4), b := ctr, mask := wtTok + scMask + 0x3C
        bad := bad || f.mf 3 2 = 3 }
  | 0x01 => some { d := .sR, a := .blk 7, b := ctr, mask := wtTok + scMask + 0x30, bad := bad }
  | 0x02 => some
      { d := .sR, a := .sca .r (if f.mf 3 1 = 4 then 3 else 2), b := ctr, mask := wtTok + scMask + 0x2E
        bad := bad || decide (4 < f.mf 3 1) }
  | 0x03 => some { d := .sW, la := true, mask := wtTok }
  | 0x04 => some { mask := wtTok }
  | _ => none

/-- The table rows of FORM 0x8 (R319). -/
def layoutMtx (f : Fields) : Option Layout :=
  let dt := f.mf 8 6
  let per := match dt with | 0 | 3 => 16 | 1 | 2 => 8 | _ => 4
  match f.op with
  | 0x00 => some { mask := wtMask }
  | 0x01 => some { a := if f.mb 0 then .sR else .zero, mask := wtMask + 1 }
  | 0x02 => some { a := .vec .r (if f.mb 2 then 20 else 32) 1, mask := wtMask + 7 }
  | 0x03 => some { a := .sR, mask := wtMask + 0x7007 }
  | 0x04 => some { d := .tile, a := .sR, b := .sR, mask := wtMask + 0x7FF8 }
  | 0x05 => some { d := .tile, mask := wtMask + 0xF }
  | 0x06 => some { d := .tile, a := .sR, mask := wtMask }
  | 0x07 => some
      { d := if f.mb 2 then .zero else .vec .w (per * (f.mf 11 9 + 1)) 1, a := .tile
        b := if f.mb 2 then .sR else .zero, la := true
        mask := wtMask + 0x7FFC + if dt = 5 then 2 else 0
        bad := decide (5 < dt) || (dt = 5 && !f.mb 2) || decide (8 < f.mf 14 12 + f.mf 11 9 + 1) }
  | 0x08 => some
      { d := .sR, a := .sR, b := if f.mf 2 0 = 2 then .sR else .zero, mask := wtMask + 0xF
        bad := decide (4 < f.mf 2 0) }
  | 0x09 => some { d := .sW, la := true, mask := wtMask + 0x7001 }
  | _ => none

/-- The table rows of FORM 0x9 (R449, R465). -/
def layoutIo (f : Fields) : Option Layout :=
  let bad := decide (3 < f.mf 21 19) || (f.mf 21 19 = 3 && f.mb 22)
  match f.op with
  | 0x00 => some { a := .sR, b := .sR }
  | 0x01 => some { d := .sW, a := .sR, la := true, mask := allM, bad := bad }
  | 0x02 => some { a := .sR, b := .sR, mask := allM, bad := bad }
  | _ => none

/-- The table rows of FORM 0xA (R427 and the rules it names). LANEID is read into a vector register, but a
prologue has none and reads it into a scalar (R24, R85). -/
def layoutSys (mode : Mode) (f : Fields) : Option Layout :=
  let num := f.mf 11 0
  let unassigned := !srAssigned num
  let three := f.mf 1 0 = 3
  match f.op with
  | 0x00 => some
      { d := if num = 0 && mode ≠ .prologue then .vW else .sW, la := true, mask := 0xFFF, bad := unassigned }
  | 0x01 => some { a := .sR, mask := 0xFFF, bad := unassigned }
  | 0x02 => some {}
  | 0x03 =>
      match f.mf 1 0 with
      | 0 => some { mask := 3 }
      | 1 => some { a := .sR, mask := 3 }
      | 2 => some { a := .sca .r 2, mask := 7 }
      | _ => some { a := .sca .r 3, mask := 7 }
  | 0x04 => some { d := .sW, a := .sca .r 4, mask := 1 }
  | 0x05 => some { a := .sca .r 2, mask := 0x1F, bad := decide (f.mf 4 0 < 8) }
  | 0x06 => some { mask := if f.mf 1 0 = 0 then 3 else 0x1F, bad := three }
  | 0x07 => some { a := .sca .r (if f.mf 1 0 = 0 then 1 else 3), mask := 3, bad := three }
  | 0x08 => some { a := .sca .r (if f.mb 0 then 1 else 4), mask := 1 }
  | 0x09 => some { a := .sca .r 2, mask := 3, bad := three }
  | 0x0A => some { a := .sR, mask := 0x3F }
  | 0x0B => some { a := .sR, b := .sR, mask := if f.mb 5 then 0x3F else 0, bad := f.mb 5 && f.mf 4 0 = 7 }
  | 0x0C => some { a := .sca .r 2 }
  | 0x0D => some {}
  | 0x0E => some { a := .sca .r 2, mask := 0xFF }
  | 0x0F => some { a := .sR }
  | _ => none

/-- The table row of a full-form word; none where R46 leaves OP unassigned. -/
def layout (mode : Mode) (f : Fields) : Option Layout :=
  match f.form with
  | 0x0 => layoutScalar f
  | 0x1 => layoutVint f
  | 0x2 => layoutVflt f
  | 0x3 => layoutXlane f
  | 0x4 => layoutMem f
  | 0x5 => layoutCtr f
  | 0x6 => layoutCtl f
  | 0x7 => layoutCopy f
  | 0x8 => layoutMtx f
  | 0x9 => layoutIo f
  | 0xA => layoutSys mode f
  | _ => none

-- The checks of R44 -------------------------------------------------------------------------------

/-- Check 3 (R24, R25): the code of an instruction that its mode does not permit. A form that a prologue has no
register or memory for is a form outside its set (R163, R206, R207). -/
def modeFault (mode : Mode) (f : Fields) : Option Code :=
  let sMark := f.form = 0xA && (f.op = 2 || f.op = 3 || f.op = 4 || f.op = 5 || f.op = 7 || f.op = 8 ||
    f.op = 9 || f.op = 0xF)
  let ioMark := f.form = 9 && f.op ≠ 0
  let pMark := f.form = 0xA && (f.op = 0xC || f.op = 0xD || f.op = 0xE)
  let sr := f.form = 0xA && f.op ≤ 1
  let high := sr && decide (0x100 ≤ f.mf 11 0) && decide (f.mf 11 0 ≤ 0x3FF)
  match mode with
  | .system => if f.form = 8 then some 0x02B else if pMark then some 0x02C else none
  | .compute =>
      if sMark then some 0x028 else if ioMark then some 0x029 else if pMark then some 0x02C
      else if high then some 0x02E else none
  | .prologue =>
      let permitted :=
        f.form = 0 ||
        (f.form = 4 && (f.op = 5 || f.op = 6) && !f.mb 10) ||
        (f.form = 5 && (f.op = 0 || f.op = 4)) ||
        (f.form = 6 && (f.op = 0 || f.op = 1 || f.op = 7 || f.op = 0xC)) ||
        (f.form = 6 && f.op = 4 && decide (f.d < 64)) ||
        (f.form = 6 && (f.op = 5 || f.op = 6) && decide (f.a < 64)) ||
        sr || pMark
      if sMark then some 0x028 else if ioMark then some 0x029 else if !permitted then some 0x02A
      else if high then some 0x02E else none

/-- Check 4 (R29): a register outside its class. -/
def Use.classFault (allot : Nat) (u : Use) (v : Nat) : Option Code :=
  match u with
  | .vec _ n al => if v % al = 0 && v + n ≤ allot then none else some 0x006
  | .sca _ _ | .blk _ | .even _ | .nonzero => if v < 64 then none else some 0x007
  | .link _ => if v < 64 || 2 * (v - 64) + 2 ≤ allot then none else some 0x006
  | _ => none

/-- Check 5 on one register field: is it a reserved-field fault? -/
def Use.reserved (u : Use) (v : Nat) : Bool :=
  match u with
  | .zero => v ≠ 0
  | .pred _ => 8 ≤ v
  | .tile => 16 ≤ v
  | .lit => v ≠ 0x7F
  | .sca _ n => 64 < v + n
  | .even _ => v % 2 = 1
  | .nonzero => v = 0
  | _ => false

/-- Checks 4 to 6 of R44 on a full-form word; of register classes, that of D comes before A and A before B. DEDUCED (log 115). -/
def Layout.fault (l : Layout) (allot : Nat) (f : Fields) : Option Code :=
  ((l.d.classFault allot f.d).or ((l.a.classFault allot f.a).or (l.b.classFault allot f.b))).or
  (if !l.g && f.g ≠ 0 then some 0x008
   else if !l.la && f.la ≠ 0 then some 0x009
   else if l.d.reserved f.d then some 0x00A
   else if l.a.reserved f.a then some 0x00B
   else if l.b.reserved f.b then some 0x00C
   else if f.m &&& l.mask ≠ f.m then some 0x00D
   else if l.bad then some 0x004
   else none)

-- Building the instruction ------------------------------------------------------------------------

def Fields.sd (f : Fields) : SReg := Fin.ofNat 64 f.d
def Fields.sa (f : Fields) : SReg := Fin.ofNat 64 f.a
def Fields.sbr (f : Fields) : SReg := Fin.ofNat 64 f.b
def Fields.vd (f : Fields) : VReg := Fin.ofNat 128 f.d
def Fields.va (f : Fields) : VReg := Fin.ofNat 128 f.a
def Fields.vb (f : Fields) : VReg := Fin.ofNat 128 f.b
def Fields.pd (f : Fields) : PReg := Fin.ofNat 8 f.d
def Fields.pa (f : Fields) : PReg := Fin.ofNat 8 f.a
def Fields.pb (f : Fields) : PReg := Fin.ofNat 8 f.b
def Fields.gd (f : Fields) : Guard := Guard.ofCode f.g
def Fields.lah (f : Fields) : La := Fin.ofNat 16 f.la
def Fields.wt (f : Fields) : Wait := BitVec.ofNat 8 (f.mf 22 15)
def Fields.srcB (f : Fields) : VSrc := if f.mb 7 then .sca f.sbr else .vec f.vb
def Fields.sgn (f : Fields) : Sgn := Sgn.ofCode (f.mf 0 0)
def Fields.rm (f : Fields) : Rm := Rm.ofCode (f.mf 1 0)
def Fields.hf (f : Fields) : Hf := Hf.ofCode (f.mf 2 2)
def Fields.pos (f : Fields) : Fin 64 := Fin.ofNat 64 (f.mf 5 0)
def Fields.len (f : Fields) : BitVec 7 := BitVec.ofNat 7 (f.mf 12 6)
def Fields.shAmt (f : Fields) : ShAmt := if f.mb 6 then .imm f.pos else .reg f.sbr
def Fields.vshAmt (f : Fields) : VShAmt := if f.mb 6 then .imm f.pos else .src f.srcB
def Fields.selr (f : Fields) : Guard := Guard.ofCode (f.mf 11 8)
def Fields.dispA (f : Fields) : BitVec 19 := BitVec.ofNat 19 (f.mf 18 0)
def Fields.scale (f : Fields) : Fin 8 := Fin.ofNat 8 (f.mf 22 20)
def Fields.sz (f : Fields) : Sz := Sz.ofCode (f.mf 14 12)
def Fields.ext (f : Fields) : Sgn := Sgn.ofMemCode (f.mf 11 11)
def Fields.dispM (f : Fields) : BitVec 17 := BitVec.ofNat 17 (f.b * 2 ^ 10 + f.mf 9 0)
def Fields.laneA (f : Fields) : VSrc := if f.mb 10 then .sca f.sa else .vec f.va
def Fields.lane (f : Fields) : LaneSel := if f.mb 5 then .imm (Fin.ofNat 32 (f.mf 4 0)) else .reg f.sbr
def Fields.scope (f : Fields) : Option Scope := if f.mb 5 then some (Fin.ofNat 32 (f.mf 4 0)) else none
def Fields.disp22 (f : Fields) (m : Nat) : BitVec 22 := BitVec.ofNat 22 (f.b * 2 ^ 15 + m)
def Fields.linkD (f : Fields) : Link := if f.d < 64 then .sca f.sd else .vec (Fin.ofNat 64 f.d)
def Fields.linkA (f : Fields) : Link := if f.a < 64 then .sca f.sa else .vec (Fin.ofNat 64 f.a)
def Fields.tok (f : Fields) : Tok := Fin.ofNat 8 (f.mf 14 12)
def Fields.cadd (f : Fields) : Option CAdd :=
  if f.mb 11 then some ⟨f.sbr, Fin.ofNat 32 (f.mf 10 6)⟩ else none
def Fields.peerA (f : Fields) : Option SReg := if f.mb 7 then some f.sa else none
def Fields.ring (f : Fields) : RingN := Fin.ofNat 8 (f.mf 2 0)
def Fields.tile (n : Nat) : Tile := Fin.ofNat 16 n

/-- The literal of an .l form: M[3:0] above the payload (R39). -/
def Fields.lit64 (f : Fields) (x : Nat) : BitVec 64 := BitVec.ofNat 64 (f.mf 3 0 * 2 ^ 60 + x)

/-- FORM 0x0 words; x is the payload of the EXT word. -/
def buildScalar (f : Fields) (x : Nat) : Option Instr :=
  match f.op with
  | 0x00 => some (.sadd f.sd f.sa f.sbr)
  | 0x01 => some (.ssub f.sd f.sa f.sbr)
  | 0x02 => some (.smul f.sd f.sa f.sbr)
  | 0x03 => some (.smulh f.sgn f.sd f.sa f.sbr)
  | 0x04 => some (.sdiv f.sgn f.lah f.sd f.sa f.sbr)
  | 0x05 => some (.srem f.sgn f.lah f.sd f.sa f.sbr)
  | 0x06 => some (.sand f.sd f.sa f.sbr)
  | 0x07 => some (.sor f.sd f.sa f.sbr)
  | 0x08 => some (.sxor f.sd f.sa f.sbr)
  | 0x09 => some (.sshl f.sd f.sa f.shAmt)
  | 0x0A => some (.sshr f.sd f.sa f.shAmt)
  | 0x0B => some (.ssra f.sd f.sa f.shAmt)
  | 0x0C => some (.smin f.sgn f.sd f.sa f.sbr)
  | 0x0D => some (.smax f.sgn f.sd f.sa f.sbr)
  | 0x0E => some (.sclz f.sd f.sa)
  | 0x0F => some (.spopc f.sd f.sa)
  | 0x10 => some (.sbfx (f.mb 13) f.sd f.sa f.pos f.len)
  | 0x11 => some (.sbfi f.sd f.sa f.pos f.len)
  | 0x12 => some (.scmp (Cc.ofCode (f.mf 3 1)) f.sgn f.pd f.sa f.sbr)
  | 0x13 => some (.ssel f.gd f.sd f.sa f.sbr f.selr)
  | 0x14 => some (.smov f.sd f.sa)
  | 0x15 => some (.saddi f.sd f.sa f.imm)
  | 0x16 => some (if f.a = 0x7F then .smoviL f.sd (f.lit64 x) else .smovi f.sd f.imm)
  | 0x17 => some (.slit f.sd (f.lit64 x))
  | 0x18 => some (.saddr f.sd f.sa f.sbr f.scale f.dispA)
  | _ => none

/-- FORM 0x1 words. -/
def buildVint (f : Fields) (x : Nat) : Option Instr :=
  match f.op with
  | 0x00 => some (.vadd f.vd f.va f.srcB)
  | 0x01 => some (.vsub f.vd f.va f.srcB)
  | 0x02 => some (.vmul f.vd f.va f.srcB)
  | 0x03 => some (.vmulh f.sgn f.vd f.va f.srcB)
  | 0x04 => some (.vmad f.vd f.va f.srcB)
  | 0x05 => some (.vadds f.sgn f.vd f.va f.srcB)
  | 0x06 => some (.vsubs f.sgn f.vd f.va f.srcB)
  | 0x07 => some (.vand f.vd f.va f.srcB)
  | 0x08 => some (.vor f.vd f.va f.srcB)
  | 0x09 => some (.vxor f.vd f.va f.srcB)
  | 0x0A => some (.vshl f.vd f.va f.vshAmt)
  | 0x0B => some (.vshr f.vd f.va f.vshAmt)
  | 0x0C => some (.vsra f.vd f.va f.vshAmt)
  | 0x0D => some (.vmin f.sgn f.vd f.va f.srcB)
  | 0x0E => some (.vmax f.sgn f.vd f.va f.srcB)
  | 0x0F => some (.vabs (f.mb 1) f.vd f.va)
  | 0x10 => some (.vclz f.vd f.va)
  | 0x11 => some (.vpopc f.vd f.va)
  | 0x12 => some (.vbfx (f.mb 13) f.vd f.va f.pos f.len)
  | 0x13 => some (.vbfi f.vd f.va f.pos f.len)
  | 0x14 => some (.vcmp (Cc.ofCode (f.mf 3 1)) f.sgn f.pd f.va f.srcB)
  | 0x15 => some (.vsel f.gd f.vd f.va f.srcB f.selr)
  | 0x16 => some (.vmov f.vd f.va)
  | 0x17 => some (if f.a = 0x7F then .vmoviL f.vd (BitVec.ofNat 32 x) else .vmovi f.vd f.imm)
  | 0x18 => some (.vaddi f.vd f.va f.imm)
  | 0x19 => some (.vbcast (f.mb 0) f.vd f.sa)
  | 0x1A => some (.vaddr (Sgn.ofCode (f.mf 19 19)) f.vd f.va f.vb f.scale f.dispA)
  | 0x1B => some (.vdp4 f.sgn (Sgn.ofCode (f.mf 1 1)) f.vd f.va f.srcB)
  | _ => none

/-- FORM 0x2 words. -/
def buildVflt (f : Fields) : Option Instr :=
  match f.op with
  | 0x00 => some (.vfadd f.rm f.vd f.va f.srcB)
  | 0x01 => some (.vfsub f.rm f.vd f.va f.srcB)
  | 0x02 => some (.vfmul f.rm f.vd f.va f.srcB)
  | 0x03 => some (.vfma f.rm f.vd f.va f.srcB)
  | 0x04 => some (.vfnma f.rm f.vd f.va f.srcB)
  | 0x05 => some (.vfmin f.vd f.va f.srcB)
  | 0x06 => some (.vfmax f.vd f.va f.srcB)
  | 0x07 => some (.vfabs f.vd f.va)
  | 0x08 => some (.vfneg f.vd f.va)
  | 0x09 => some (.vfcmp (Fcc.ofCode (f.mf 5 3)) f.pd f.va f.srcB)
  | 0x0A => some (.vfclass f.vd f.va)
  | 0x0B => some (.vfrcp f.lah f.vd f.va)
  | 0x0C => some (.vfrsq f.lah f.vd f.va)
  | 0x0D => some (.vfdiv f.lah f.rm f.vd f.va f.srcB)
  | 0x0E => some (.vfsqrt f.lah f.rm f.vd f.va)
  | 0x0F => some (.vfexp2 f.lah f.vd f.va)
  | 0x10 => some (.vflog2 f.lah f.vd f.va)
  | 0x11 => some (.vfrnd f.rm f.vd f.va)
  | 0x12 => some (.vhadd f.hf f.rm f.vd f.va f.srcB)
  | 0x13 => some (.vhmul f.hf f.rm f.vd f.va f.srcB)
  | 0x14 => some (.vhfma f.hf f.rm f.vd f.va f.srcB)
  | 0x15 => some (.vfdot2 f.hf f.rm f.vd f.va f.srcB)
  | _ => none

/-- FORM 0x3 words. -/
def buildXlane (f : Fields) : Option Instr :=
  match f.op with
  | 0x00 => some (.vcvt (CvtTy.ofCode (f.mf 4 2)) (CvtTy.ofCode (f.mf 7 5)) f.rm (f.mb 8) (f.mb 9) f.vd f.va)
  | 0x01 => some (.vnpk (Bl.ofCode (f.mf 0 0)) f.vd f.va)
  | 0x02 => some (.vnupk (Bl.ofCode (f.mf 0 0)) (Fin.ofNat 16 (f.mf 4 1)) (f.mb 5) f.vd f.va)
  | 0x03 => some (.vshuf f.vd f.va f.vb)
  | 0x04 => some (.vrot f.vd f.va f.lane)
  | 0x05 => some (.vred f.lah (RedOp.ofCode (f.mf 5 2)) f.rm f.sd f.va)
  | 0x06 => some (.vscan f.lah (RedOp.ofCode (f.mf 5 2)) f.rm f.vd f.va)
  | 0x07 => some (.vvote
      (match f.mf 1 0 with
       | 0 => .any f.pd
       | 1 => .all f.pd
       | 2 => .uni f.pd
       | _ => .ballot f.sd) f.pa)
  | 0x08 => some (.vext (f.mb 6) f.sd f.va f.lane)
  | 0x09 => some (.vins f.vd f.sa f.lane)
  | 0x0A => some (.vlane (f.mb 0) f.vd f.pa)
  | 0x0B => some (.plog (BitVec.ofNat 4 (f.mf 3 0)) f.pd f.pa f.pb)
  | 0x0C => some (.pset f.pd f.sa)
  | 0x0D => some (.pget f.sd f.pa)
  | 0x0E => some (.emrd f.sd)
  | 0x0F => some (.emwr f.sa)
  | _ => none

/-- FORM 0x4 words. -/
def buildMem (f : Fields) : Option Instr :=
  match f.op with
  | 0x00 => some (.ld f.wt f.lah f.sz f.ext f.vd f.va f.dispM)
  | 0x01 => some (.st f.gd f.wt f.sz f.vd f.va f.dispM)
  | 0x02 => some (.lds f.wt f.lah f.sz f.ext f.vd f.laneA f.dispM)
  | 0x03 => some (.sts f.gd f.wt f.sz f.vd f.laneA f.dispM)
  | 0x04 => some (.ldro f.wt f.lah f.sz f.ext f.vd f.va f.dispM)
  | 0x05 => some (.sld f.wt f.lah f.sz f.ext (f.mb 10) f.sd f.sa f.dispM)
  | 0x06 => some (.sst f.gd f.wt f.sz (f.mb 10) f.sd f.sa f.dispM)
  | 0x07 => some (.red f.gd f.wt f.lah (f.mb 12) (MemRed.ofCode (f.mf 11 8)) (Fin.ofNat 32 (f.mf 6 2))
      (if f.mb 7 then some f.vd else none) f.va f.vb)
  | 0x08 => some (.roinv f.wt)
  | 0x09 => some (.pref f.wt (f.mb 11) f.laneA f.dispM)
  | _ => none

/-- FORM 0x5 words. -/
def buildCtr (f : Fields) : Option Instr :=
  match f.op with
  | 0x00 => some (.cadd f.lah (if f.mb 6 then some f.sd else none) f.sa
      (if f.mb 7 then .imm (BitVec.ofNat 15 (f.mf 22 8)) else .reg f.sbr) f.scope)
  | 0x01 => some (.caddv f.gd f.lah (if f.mb 6 then some f.vd else none) f.va f.vb f.scope)
  | 0x02 => some (.cwait f.sa f.sbr f.scope)
  | 0x03 => some (.cwaita f.sd f.sa (Fin.ofNat 4 (f.mf 9 8)) f.scope)
  | 0x04 => some (.cread f.lah f.sd f.sa f.scope)
  | 0x05 => some (.ctest f.pd f.sa f.sbr f.scope)
  | 0x06 => some (.cset f.sa f.sbr)
  | 0x07 => some (.qpush f.gd f.ring f.va (if f.mb 7 then some f.sbr else none))
  | 0x08 => some (.qpop f.lah (f.mb 5) f.ring f.vd f.pb f.peerA)
  | 0x09 => some (.qinfo f.lah f.ring f.sd f.peerA)
  | _ => none

/-- FORM 0x6 words. -/
def buildCtl (f : Fields) (x : Nat) : Option Instr :=
  match f.op with
  | 0x00 => some (if f.a = 0x7F then .braL (BitVec.ofNat 56 x) else .bra f.imm)
  | 0x01 => some (.brc f.gd f.imm)
  | 0x02 => some (.brd f.gd (BitVec.ofNat 8 (f.mf 7 0)) (f.disp22 (f.mf 22 8)))
  | 0x03 => some (.join (BitVec.ofNat 8 (f.mf 7 0)))
  | 0x04 => some (if f.a = 0x7F then .callL f.linkD (BitVec.ofNat 56 x) else .call f.linkD f.imm)
  | 0x05 => some (.ret f.linkA)
  | 0x06 => some (.jmpi f.linkA f.sbr)
  | 0x07 => some (.sdbnz f.sd f.imm)
  | 0x08 => some (.yieldW f.wt (f.disp22 (f.mf 14 0)))
  | 0x09 => some (.waitt f.wt)
  | 0x0A => some .stop
  | 0x0B => some (.trap (Fin.ofNat 8 (f.mf 2 0)) (BitVec.ofNat 20 (f.mf 22 3)))
  | 0x0C => some .nop
  | _ => none

/-- FORM 0x7 words. -/
def buildCopy (f : Fields) : Option Instr :=
  match f.op with
  | 0x00 => some (.cpy f.wt f.tok (f.mb 5) (f.mb 4) (CSz.ofCode (f.mf 3 2)) f.vd f.va f.cadd)
  | 0x01 => some (.cpyt f.wt f.tok (f.mb 5) (f.mb 4) f.sd f.sa f.cadd)
  | 0x02 => some (.cpyf f.wt f.tok (f.mb 5) (Sz.ofCode (f.mf 3 1)) f.sd f.sa f.cadd)
  | 0x03 => some (.cpyq f.wt f.lah f.tok f.sd)
  | 0x04 => some (.cpyx f.wt f.tok)
  | _ => none

/-- FORM 0x8 words. -/
def buildMtx (f : Fields) : Option Instr :=
  match f.op with
  | 0x00 => some (.baton f.wt)
  | 0x01 => some (.bpass f.wt (if f.mb 0 then some f.sa else none))
  | 0x02 => some (.mbq f.wt (f.mb 2) (Fin.ofNat 4 (f.mf 1 0)) f.va)
  | 0x03 => some (.mbqs f.wt f.tok (f.mb 2) (Fin.ofNat 4 (f.mf 1 0)) f.sa)
  | 0x04 => some (.mma f.wt f.tok (BitVec.ofNat 8 (f.mf 11 4)) (f.mb 3) (Fields.tile f.d) f.sa f.sbr)
  | 0x05 => some (.mzero f.wt (Fields.tile f.d) (Fin.ofNat 16 (f.mf 3 0)))
  | 0x06 => some (.mloada f.wt (Fields.tile f.d) f.sa)
  | 0x07 => some (.mdrain f.wt f.lah (if f.mb 2 then .scr f.sbr else .reg f.vd) (Fields.tile f.a)
      (Fin.ofNat 8 (f.mf 14 12)) (Fin.ofNat 8 (f.mf 11 9)) (DrainTy.ofCode (f.mf 8 6)) (AccTy.ofCode (f.mf 5 5))
      (Rm.ofCode (f.mf 4 3)) (Bl.ofCode (f.mf 1 1)))
  | 0x08 => some (.mcmpr f.wt (MFmt.ofCode (f.mf 2 0)) (Bl.ofCode (f.mf 3 3)) f.sd f.sa f.sbr)
  | 0x09 => some (.mstat f.wt f.lah f.tok (f.mb 0) f.sd)
  | _ => none

/-- FORM 0x9 words. -/
def buildIo (f : Fields) : Option Instr :=
  let sz := Sz.ofCode (f.mf 21 19)
  match f.op with
  | 0x00 => some (.dbw f.sa f.sbr)
  | 0x01 => some (.iold f.lah (f.mb 22) sz f.sd f.sa f.dispA)
  | 0x02 => some (.iost (f.mb 22) sz f.sa f.sbr f.dispA)
  | _ => none

/-- FORM 0xA words. SWR of FPFLAGS and of STAGEQ have rows of their own in the opcode table. -/
def buildSys (f : Fields) : Option Instr :=
  let num := f.mf 11 0
  match f.op with
  | 0x00 => some (.srd f.lah (BitVec.ofNat 12 num) f.vd)
  | 0x01 => some (if num = 0x010 then .fpflagsWrite f.sa else if num = 0x111 then .stageqWrite f.sa
      else .swr (BitVec.ofNat 12 num) f.sa)
  | 0x02 => some .eret
  | 0x03 => some (.tlbi (TlbiKind.ofCode (f.mf 1 0)) (f.mb 2) f.sa)
  | 0x04 => some (.pgharv (f.mb 0) f.sd f.sa)
  | 0x05 => some (.cscope f.sa (Fin.ofNat 32 (f.mf 4 0)))
  | 0x06 => some (.bmode (BankTr.ofCode (f.mf 1 0)) (Fin.ofNat 8 (f.mf 4 2)))
  | 0x07 => some (.msib (MsiMode.ofCode (f.mf 1 0)) f.sa)
  | 0x08 => some (.atsinv (f.mb 0) f.sa)
  | 0x09 => some (.prgr (PrgCode.ofCode (f.mf 1 0)) f.sa)
  | 0x0A => some (.svcall f.sa (Fin.ofNat 64 (f.mf 5 0)))
  | 0x0B => some (.park f.sa f.sbr f.scope)
  | 0x0C => some (.plaunch f.sa)
  | 0x0D => some .pcancel
  | 0x0E => some (.prepeat f.sa (BitVec.ofNat 8 (f.mf 7 0)))
  | 0x0F => some (.halt f.sa)
  | _ => none

/-- The instruction of a full-form word that passes its checks; x is the payload of its EXT word. -/
def build (f : Fields) (x : Nat) : Option Instr :=
  match f.form with
  | 0x0 => buildScalar f x
  | 0x1 => buildVint f x
  | 0x2 => buildVflt f
  | 0x3 => buildXlane f
  | 0x4 => buildMem f
  | 0x5 => buildCtr f
  | 0x6 => buildCtl f x
  | 0x7 => buildCopy f
  | 0x8 => buildMtx f
  | 0x9 => buildIo f
  | 0xA => buildSys f
  | _ => none

-- PAIR halves -------------------------------------------------------------------------------------

/-- The fields of a half (R35). -/
structure HalfFields where
  hop : Nat
  d : Nat
  a : Nat
  x : Nat
deriving DecidableEq, Repr

def HalfFields.unpack (h : Nat) : HalfFields where
  hop := nbits h 29 24
  d := nbits h 23 17
  a := nbits h 16 10
  x := nbits h 9 0

def HalfFields.pack (f : HalfFields) : Nat :=
  f.hop * 2 ^ 24 + f.d * 2 ^ 17 + f.a * 2 ^ 10 + f.x

/-- The values of X[2:0] that R36 lists for a register half: none for an immediate half. -/
def hopMods (hop : Nat) : Option Nat :=
  match hop with
  | 0x09 | 0x0A => some 2
  | 0x10 | 0x11 | 0x12 | 0x15 | 0x16 => some 4
  | 0x0C | 0x0D | 0x28 | 0x29 => none
  | _ => some 1

/-- The half that a HOP names; none where R36 leaves HOP unassigned. -/
def HalfFields.half (f : HalfFields) : Option Half :=
  let vd : VReg := Fin.ofNat 128 f.d
  let va : VReg := Fin.ofNat 128 f.a
  let sd : SReg := Fin.ofNat 64 f.d
  let sa : SReg := Fin.ofNat 64 f.a
  let x := BitVec.ofNat 10 f.x
  let n := Sgn.ofCode (f.x % 2)
  let rm := Rm.ofCode (f.x % 4)
  match f.hop with
  | 0x00 => some (.vadd vd va)
  | 0x01 => some (.vsub vd va)
  | 0x02 => some (.vmul vd va)
  | 0x03 => some (.vand vd va)
  | 0x04 => some (.vor vd va)
  | 0x05 => some (.vxor vd va)
  | 0x06 => some (.vshl vd va)
  | 0x07 => some (.vshr vd va)
  | 0x08 => some (.vsra vd va)
  | 0x09 => some (.vmin n vd va)
  | 0x0A => some (.vmax n vd va)
  | 0x0B => some (.vmov vd va)
  | 0x0C => some (.vaddi vd va x)
  | 0x0D => some (.vmovi vd x)
  | 0x10 => some (.vfadd rm vd va)
  | 0x11 => some (.vfsub rm vd va)
  | 0x12 => some (.vfmul rm vd va)
  | 0x13 => some (.vfmin vd va)
  | 0x14 => some (.vfmax vd va)
  | 0x15 => some (.vhadd rm vd va)
  | 0x16 => some (.vhmul rm vd va)
  | 0x20 => some (.sadd sd sa)
  | 0x21 => some (.ssub sd sa)
  | 0x22 => some (.sand sd sa)
  | 0x23 => some (.sor sd sa)
  | 0x24 => some (.sxor sd sa)
  | 0x25 => some (.sshl sd sa)
  | 0x26 => some (.sshr sd sa)
  | 0x27 => some (.smov sd sa)
  | 0x28 => some (.saddi sd sa x)
  | 0x29 => some (.smovi sd x)
  | _ => none

/-- Checks 2 to 6 of R44 on one half. -/
def HalfFields.fault (mode : Mode) (allot : Nat) (f : HalfFields) : Option Code :=
  let movi := f.hop = 0x0D || f.hop = 0x29
  let vecBad := decide (f.hop < 0x20) && (decide (allot ≤ f.d) || (!movi && decide (allot ≤ f.a)))
  let scaBad := decide (0x20 ≤ f.hop) && (decide (64 ≤ f.d) || (!movi && decide (64 ≤ f.a)))
  if f.half.isNone then some 0x002
  else if mode = .prologue then some 0x02A
  else if vecBad then some 0x006
  else if scaBad then some 0x007
  else if movi && f.a ≠ 0 then some 0x00B
  else match hopMods f.hop with
    | none => none
    | some k => if 8 ≤ f.x then some 0x00E else if k ≤ f.x then some 0x004 else none

/-- The instruction of two halves: the constructor that names H0. -/
def pairOf (h0 h1 : Half) : Instr :=
  match h0 with
  | .vadd d a => .pairVadd d a h1
  | .vsub d a => .pairVsub d a h1
  | .vmul d a => .pairVmul d a h1
  | .vand d a => .pairVand d a h1
  | .vor d a => .pairVor d a h1
  | .vxor d a => .pairVxor d a h1
  | .vshl d a => .pairVshl d a h1
  | .vshr d a => .pairVshr d a h1
  | .vsra d a => .pairVsra d a h1
  | .vmin n d a => .pairVmin n d a h1
  | .vmax n d a => .pairVmax n d a h1
  | .vmov d a => .pairVmov d a h1
  | .vaddi d a x => .pairVaddi d a x h1
  | .vmovi d x => .pairVmovi d x h1
  | .vfadd rm d a => .pairVfadd rm d a h1
  | .vfsub rm d a => .pairVfsub rm d a h1
  | .vfmul rm d a => .pairVfmul rm d a h1
  | .vfmin d a => .pairVfmin d a h1
  | .vfmax d a => .pairVfmax d a h1
  | .vhadd rm d a => .pairVhadd rm d a h1
  | .vhmul rm d a => .pairVhmul rm d a h1
  | .sadd d a => .pairSadd d a h1
  | .ssub d a => .pairSsub d a h1
  | .sand d a => .pairSand d a h1
  | .sor d a => .pairSor d a h1
  | .sxor d a => .pairSxor d a h1
  | .sshl d a => .pairSshl d a h1
  | .sshr d a => .pairSshr d a h1
  | .smov d a => .pairSmov d a h1
  | .saddi d a x => .pairSaddi d a x h1
  | .smovi d x => .pairSmovi d x h1

-- The decoder -------------------------------------------------------------------------------------

/-- What a word is before its EXT word is looked at: a trap code with TRAPDATA[1:0], an instruction, or an .l form
that needs its EXT word. -/
inductive Decoded
  | bad (code : Code) (td : Nat)
  | instr (i : Instr)
  | needs (f : Fields) (payload : Nat)
deriving DecidableEq, Repr

/-- Checks 1 to 6 of R44, and check 8 of a PAIR word, on the word w in a mode with an allotment of vector
registers. -/
def decodeWord (mode : Mode) (allot : Nat) (w : Nat) : Decoded :=
  let f := Fields.unpack w
  if f.form = 0xB || f.form = 0xD || f.form = 0xE then .bad 0x000 0
  else if f.form = 0xF then .bad 0x003 0
  else if f.form = 0xC then
    let f0 := HalfFields.unpack (nbits w 59 30)
    let f1 := HalfFields.unpack (nbits w 29 0)
    match f0.fault mode allot, f1.fault mode allot, f0.half, f1.half with
    | some c, _, _, _ => .bad c 1
    | none, some c, _, _ => .bad c 2
    | none, none, some h0, some h1 =>
        match pairFault h0 h1 with
        | some k => .bad (BitVec.ofNat 9 (0x010 + k)) 3
        | none => .instr (pairOf h0 h1)
    | _, _, _, _ => .bad 0x002 1
  else
    match layout mode f with
    | none => .bad 0x001 0
    | some l =>
        match modeFault mode f, l.fault allot f, l.ext with
        | some c, _, _ => .bad c 0
        | none, some c, _ => .bad c 0
        | none, none, some p => .needs f p
        | none, none, none =>
            match build f 0 with
            | some i => .instr i
            | none => .bad 0x001 0

/-- Check 7 of R44 and the payload check of R39 on the word after an .l form. -/
def decodeExt (f : Fields) (payload : Nat) (x : Nat) : Decoded :=
  if nbits x 63 60 ≠ 0xF then .bad 0x005 0
  else if 2 ^ payload ≤ nbits x 59 0 then .bad 0x00F 0
  else
    match build f (nbits x 59 0) with
    | some i => .instr i
    | none => .bad 0x001 0

/-- Decoding a list of words: the instruction or its trap, and the words left. A word stream that ends inside an
.l form reads as a missing EXT word. -/
def decode (mode : Mode) (allot : Nat) (ws : List (BitVec 64)) : Decoded × List (BitVec 64) :=
  match ws with
  | [] => (.bad 0x000 0, [])
  | w :: rest =>
      match decodeWord mode allot w.toNat with
      | .needs f p =>
          match rest with
          | [] => (.bad 0x005 0, [])
          | x :: rest' => (decodeExt f p x.toNat, rest')
      | r => (r, rest)

-- The encoder -------------------------------------------------------------------------------------

def VSrc.reg : VSrc → Nat
  | .vec r => r.val
  | .sca r => r.val
/-- SB (bit 7 of M). -/
def VSrc.sbBit : VSrc → Nat
  | .vec _ => 0
  | .sca _ => 0x80
/-- SB of FORM 0x4 (bit 10 of M). -/
def VSrc.sbBit10 : VSrc → Nat
  | .vec _ => 0
  | .sca _ => 0x400
def Link.code : Link → Nat
  | .sca r => r.val
  | .vec k => 64 + k.val
/-- ORD and SC (R231). -/
def ordCode : Option Scope → Nat
  | none => 0
  | some s => 0x20 + s.val
/-- CA and SC (R288). -/
def caCode : Option CAdd → Nat
  | none => 0
  | some c => 0x800 + c.sc.val * 2 ^ 6
def caReg : Option CAdd → Nat
  | none => 0
  | some c => c.ctr.val
def optS : Option SReg → Nat
  | none => 0
  | some r => r.val
def optV : Option VReg → Nat
  | none => 0
  | some r => r.val
/-- A flag bit of M. -/
def flagAt (b : Bool) (k : Nat) : Nat := if b then 2 ^ k else 0
def wtCode (w : Wait) : Nat := w.toNat * 2 ^ 15

/-- An immediate form (R34): the low 23 bits in M, the rest in B. -/
def immF (f : Fields) (x : BitVec 30) : Fields :=
  { f with b := x.toNat / 2 ^ 23, m := x.toNat % 2 ^ 23 }

/-- The displacement of FORM 0x4 (R203): the low 10 bits in M, the rest in B. -/
def memF (f : Fields) (disp : BitVec 17) : Fields :=
  { f with b := disp.toNat / 2 ^ 10, m := f.m + disp.toNat % 2 ^ 10 }

def laneB : LaneSel → Nat
  | .reg r => r.val
  | .imm _ => 0
def laneM : LaneSel → Nat
  | .reg _ => 0
  | .imm k => 0x20 + k.val
def shB : ShAmt → Nat
  | .reg r => r.val
  | .imm _ => 0
def shM : ShAmt → Nat
  | .reg _ => 0
  | .imm k => 0x40 + k.val
def vshB : VShAmt → Nat
  | .src b => b.reg
  | .imm _ => 0
def vshM : VShAmt → Nat
  | .src b => b.sbBit
  | .imm k => 0x40 + k.val
def voteD : Vote → Nat
  | .any d | .all d | .uni d => d.val
  | .ballot d => d.val
def voteM : Vote → Nat
  | .any _ => 0
  | .all _ => 1
  | .uni _ => 2
  | .ballot _ => 3

/-- The fields of an instruction's first word; none for PAIR words, EXT words and the steps that are no words. -/
def Instr.fields (i : Instr) : Option Fields :=
  match i with
  | .sadd d a b => some { form := 0, op := 0x00, d := d.val, a := a.val, b := b.val }
  | .ssub d a b => some { form := 0, op := 0x01, d := d.val, a := a.val, b := b.val }
  | .smul d a b => some { form := 0, op := 0x02, d := d.val, a := a.val, b := b.val }
  | .smulh n d a b => some { form := 0, op := 0x03, d := d.val, a := a.val, b := b.val, m := n.code }
  | .sdiv n la d a b => some { form := 0, op := 0x04, d := d.val, a := a.val, b := b.val, la := la.val, m := n.code }
  | .srem n la d a b => some { form := 0, op := 0x05, d := d.val, a := a.val, b := b.val, la := la.val, m := n.code }
  | .sand d a b => some { form := 0, op := 0x06, d := d.val, a := a.val, b := b.val }
  | .sor d a b => some { form := 0, op := 0x07, d := d.val, a := a.val, b := b.val }
  | .sxor d a b => some { form := 0, op := 0x08, d := d.val, a := a.val, b := b.val }
  | .sshl d a b => some { form := 0, op := 0x09, d := d.val, a := a.val, b := shB b, m := shM b }
  | .sshr d a b => some { form := 0, op := 0x0A, d := d.val, a := a.val, b := shB b, m := shM b }
  | .ssra d a b => some { form := 0, op := 0x0B, d := d.val, a := a.val, b := shB b, m := shM b }
  | .smin n d a b => some { form := 0, op := 0x0C, d := d.val, a := a.val, b := b.val, m := n.code }
  | .smax n d a b => some { form := 0, op := 0x0D, d := d.val, a := a.val, b := b.val, m := n.code }
  | .sclz d a => some { form := 0, op := 0x0E, d := d.val, a := a.val }
  | .spopc d a => some { form := 0, op := 0x0F, d := d.val, a := a.val }
  | .sbfx sx d a pos len =>
      some { form := 0, op := 0x10, d := d.val, a := a.val, m := pos.val + len.toNat * 2 ^ 6 + flagAt sx 13 }
  | .sbfi d a pos len => some { form := 0, op := 0x11, d := d.val, a := a.val, m := pos.val + len.toNat * 2 ^ 6 }
  | .scmp cc n d a b =>
      some { form := 0, op := 0x12, d := d.val, a := a.val, b := b.val, m := n.code + cc.code * 2 }
  | .ssel g d a b sel =>
      some { form := 0, op := 0x13, d := d.val, a := a.val, b := b.val, g := g.code, m := sel.code * 2 ^ 8 }
  | .smov d a => some { form := 0, op := 0x14, d := d.val, a := a.val }
  | .saddi d a imm => some (immF { form := 0, op := 0x15, d := d.val, a := a.val } imm)
  | .smovi d imm => some (immF { form := 0, op := 0x16, d := d.val } imm)
  | .smoviL d lit => some { form := 0, op := 0x16, d := d.val, a := 0x7F, m := lit.toNat / 2 ^ 60 }
  | .slit d lit => some { form := 0, op := 0x17, d := d.val, a := 0x7F, m := lit.toNat / 2 ^ 60 }
  | .saddr d a b sc disp =>
      some { form := 0, op := 0x18, d := d.val, a := a.val, b := b.val, m := disp.toNat + sc.val * 2 ^ 20 }
  | .vadd d a b => some { form := 1, op := 0x00, d := d.val, a := a.val, b := b.reg, m := b.sbBit }
  | .vsub d a b => some { form := 1, op := 0x01, d := d.val, a := a.val, b := b.reg, m := b.sbBit }
  | .vmul d a b => some { form := 1, op := 0x02, d := d.val, a := a.val, b := b.reg, m := b.sbBit }
  | .vmulh n d a b => some { form := 1, op := 0x03, d := d.val, a := a.val, b := b.reg, m := n.code + b.sbBit }
  | .vmad d a b => some { form := 1, op := 0x04, d := d.val, a := a.val, b := b.reg, m := b.sbBit }
  | .vadds n d a b => some { form := 1, op := 0x05, d := d.val, a := a.val, b := b.reg, m := n.code + b.sbBit }
  | .vsubs n d a b => some { form := 1, op := 0x06, d := d.val, a := a.val, b := b.reg, m := n.code + b.sbBit }
  | .vand d a b => some { form := 1, op := 0x07, d := d.val, a := a.val, b := b.reg, m := b.sbBit }
  | .vor d a b => some { form := 1, op := 0x08, d := d.val, a := a.val, b := b.reg, m := b.sbBit }
  | .vxor d a b => some { form := 1, op := 0x09, d := d.val, a := a.val, b := b.reg, m := b.sbBit }
  | .vshl d a b => some { form := 1, op := 0x0A, d := d.val, a := a.val, b := vshB b, m := vshM b }
  | .vshr d a b => some { form := 1, op := 0x0B, d := d.val, a := a.val, b := vshB b, m := vshM b }
  | .vsra d a b => some { form := 1, op := 0x0C, d := d.val, a := a.val, b := vshB b, m := vshM b }
  | .vmin n d a b => some { form := 1, op := 0x0D, d := d.val, a := a.val, b := b.reg, m := n.code + b.sbBit }
  | .vmax n d a b => some { form := 1, op := 0x0E, d := d.val, a := a.val, b := b.reg, m := n.code + b.sbBit }
  | .vabs sat d a => some { form := 1, op := 0x0F, d := d.val, a := a.val, m := flagAt sat 1 }
  | .vclz d a => some { form := 1, op := 0x10, d := d.val, a := a.val }
  | .vpopc d a => some { form := 1, op := 0x11, d := d.val, a := a.val }
  | .vbfx sx d a pos len =>
      some { form := 1, op := 0x12, d := d.val, a := a.val, m := pos.val + len.toNat * 2 ^ 6 + flagAt sx 13 }
  | .vbfi d a pos len => some { form := 1, op := 0x13, d := d.val, a := a.val, m := pos.val + len.toNat * 2 ^ 6 }
  | .vcmp cc n d a b =>
      some { form := 1, op := 0x14, d := d.val, a := a.val, b := b.reg, m := n.code + cc.code * 2 + b.sbBit }
  | .vsel g d a b sel =>
      some { form := 1, op := 0x15, d := d.val, a := a.val, b := b.reg, g := g.code, m := sel.code * 2 ^ 8 + b.sbBit }
  | .vmov d a => some { form := 1, op := 0x16, d := d.val, a := a.val }
  | .vmovi d imm => some (immF { form := 1, op := 0x17, d := d.val } imm)
  | .vmoviL d _ => some { form := 1, op := 0x17, d := d.val, a := 0x7F }
  | .vaddi d a imm => some (immF { form := 1, op := 0x18, d := d.val, a := a.val } imm)
  | .vbcast hi d a => some { form := 1, op := 0x19, d := d.val, a := a.val, m := flagAt hi 0 }
  | .vaddr n d a b sc disp =>
      some { form := 1, op := 0x1A, d := d.val, a := a.val, b := b.val
             m := disp.toNat + n.code * 2 ^ 19 + sc.val * 2 ^ 20 }
  | .vdp4 na nb d a b =>
      some { form := 1, op := 0x1B, d := d.val, a := a.val, b := b.reg, m := na.code + nb.code * 2 + b.sbBit }
  | .vfadd rm d a b => some { form := 2, op := 0x00, d := d.val, a := a.val, b := b.reg, m := rm.code + b.sbBit }
  | .vfsub rm d a b => some { form := 2, op := 0x01, d := d.val, a := a.val, b := b.reg, m := rm.code + b.sbBit }
  | .vfmul rm d a b => some { form := 2, op := 0x02, d := d.val, a := a.val, b := b.reg, m := rm.code + b.sbBit }
  | .vfma rm d a b => some { form := 2, op := 0x03, d := d.val, a := a.val, b := b.reg, m := rm.code + b.sbBit }
  | .vfnma rm d a b => some { form := 2, op := 0x04, d := d.val, a := a.val, b := b.reg, m := rm.code + b.sbBit }
  | .vfmin d a b => some { form := 2, op := 0x05, d := d.val, a := a.val, b := b.reg, m := b.sbBit }
  | .vfmax d a b => some { form := 2, op := 0x06, d := d.val, a := a.val, b := b.reg, m := b.sbBit }
  | .vfabs d a => some { form := 2, op := 0x07, d := d.val, a := a.val }
  | .vfneg d a => some { form := 2, op := 0x08, d := d.val, a := a.val }
  | .vfcmp cc d a b =>
      some { form := 2, op := 0x09, d := d.val, a := a.val, b := b.reg, m := cc.code * 2 ^ 3 + b.sbBit }
  | .vfclass d a => some { form := 2, op := 0x0A, d := d.val, a := a.val }
  | .vfrcp la d a => some { form := 2, op := 0x0B, d := d.val, a := a.val, la := la.val }
  | .vfrsq la d a => some { form := 2, op := 0x0C, d := d.val, a := a.val, la := la.val }
  | .vfdiv la rm d a b =>
      some { form := 2, op := 0x0D, d := d.val, a := a.val, b := b.reg, la := la.val, m := rm.code + b.sbBit }
  | .vfsqrt la rm d a => some { form := 2, op := 0x0E, d := d.val, a := a.val, la := la.val, m := rm.code }
  | .vfexp2 la d a => some { form := 2, op := 0x0F, d := d.val, a := a.val, la := la.val }
  | .vflog2 la d a => some { form := 2, op := 0x10, d := d.val, a := a.val, la := la.val }
  | .vfrnd rm d a => some { form := 2, op := 0x11, d := d.val, a := a.val, m := rm.code }
  | .vhadd hf rm d a b =>
      some { form := 2, op := 0x12, d := d.val, a := a.val, b := b.reg, m := rm.code + hf.code * 4 + b.sbBit }
  | .vhmul hf rm d a b =>
      some { form := 2, op := 0x13, d := d.val, a := a.val, b := b.reg, m := rm.code + hf.code * 4 + b.sbBit }
  | .vhfma hf rm d a b =>
      some { form := 2, op := 0x14, d := d.val, a := a.val, b := b.reg, m := rm.code + hf.code * 4 + b.sbBit }
  | .vfdot2 hf rm d a b =>
      some { form := 2, op := 0x15, d := d.val, a := a.val, b := b.reg, m := rm.code + hf.code * 4 + b.sbBit }
  | .vcvt dt src rm dhi shi d a =>
      some { form := 3, op := 0x00, d := d.val, a := a.val
             m := rm.code + dt.code * 2 ^ 2 + src.code * 2 ^ 5 + flagAt dhi 8 + flagAt shi 9 }
  | .vnpk bl d a => some { form := 3, op := 0x01, d := d.val, a := a.val, m := bl.code }
  | .vnupk bl p mid d a =>
      some { form := 3, op := 0x02, d := d.val, a := a.val, m := bl.code + p.val * 2 + flagAt mid 5 }
  | .vshuf d a b => some { form := 3, op := 0x03, d := d.val, a := a.val, b := b.val }
  | .vrot d a k => some { form := 3, op := 0x04, d := d.val, a := a.val, b := laneB k, m := laneM k }
  | .vred la op rm d a =>
      some { form := 3, op := 0x05, d := d.val, a := a.val, la := la.val, m := rm.code + op.code * 4 }
  | .vscan la op rm d a =>
      some { form := 3, op := 0x06, d := d.val, a := a.val, la := la.val, m := rm.code + op.code * 4 }
  | .vvote v a => some { form := 3, op := 0x07, d := voteD v, a := a.val, m := voteM v }
  | .vext sx d a k =>
      some { form := 3, op := 0x08, d := d.val, a := a.val, b := laneB k, m := laneM k + flagAt sx 6 }
  | .vins d a k => some { form := 3, op := 0x09, d := d.val, a := a.val, b := laneB k, m := laneM k }
  | .vlane le d a => some { form := 3, op := 0x0A, d := d.val, a := a.val, m := flagAt le 0 }
  | .plog tt d a b => some { form := 3, op := 0x0B, d := d.val, a := a.val, b := b.val, m := tt.toNat }
  | .pset d a => some { form := 3, op := 0x0C, d := d.val, a := a.val }
  | .pget d a => some { form := 3, op := 0x0D, d := d.val, a := a.val }
  | .emrd d => some { form := 3, op := 0x0E, d := d.val }
  | .emwr a => some { form := 3, op := 0x0F, a := a.val }
  | .ld wt la sz n d a disp =>
      some (memF { form := 4, op := 0x00, d := d.val, a := a.val, la := la.val
                   m := wtCode wt + sz.code * 2 ^ 12 + n.memCode * 2 ^ 11 } disp)
  | .st g wt sz d a disp =>
      some (memF { form := 4, op := 0x01, d := d.val, a := a.val, g := g.code
                   m := wtCode wt + sz.code * 2 ^ 12 } disp)
  | .lds wt la sz n d a disp =>
      some (memF { form := 4, op := 0x02, d := d.val, a := a.reg, la := la.val
                   m := wtCode wt + sz.code * 2 ^ 12 + n.memCode * 2 ^ 11 + a.sbBit10 } disp)
  | .sts g wt sz d a disp =>
      some (memF { form := 4, op := 0x03, d := d.val, a := a.reg, g := g.code
                   m := wtCode wt + sz.code * 2 ^ 12 + a.sbBit10 } disp)
  | .ldro wt la sz n d a disp =>
      some (memF { form := 4, op := 0x04, d := d.val, a := a.val, la := la.val
                   m := wtCode wt + sz.code * 2 ^ 12 + n.memCode * 2 ^ 11 } disp)
  | .sld wt la sz n sp d a disp =>
      some (memF { form := 4, op := 0x05, d := d.val, a := a.val, la := la.val
                   m := wtCode wt + sz.code * 2 ^ 12 + n.memCode * 2 ^ 11 + flagAt sp 10 } disp)
  | .sst g wt sz sp d a disp =>
      some (memF { form := 4, op := 0x06, d := d.val, a := a.val, g := g.code
                   m := wtCode wt + sz.code * 2 ^ 12 + flagAt sp 10 } disp)
  | .red g wt la wide op sc rt a b =>
      some { form := 4, op := 0x07, d := optV rt, a := a.val, b := b.val, g := g.code, la := la.val
             m := wtCode wt + 2 ^ 13 + flagAt wide 12 + op.code * 2 ^ 8 + flagAt rt.isSome 7 + sc.val * 2 ^ 2 }
  | .roinv wt => some { form := 4, op := 0x08, m := wtCode wt }
  | .pref wt l2 a disp =>
      some (memF { form := 4, op := 0x09, a := a.reg, m := wtCode wt + flagAt l2 11 + a.sbBit10 } disp)
  | .cadd la rt a v rel =>
      some { form := 5, op := 0x00, d := optS rt, a := a.val, la := la.val
             b := (match v with | .reg r => r.val | .imm _ => 0)
             m := ordCode rel + flagAt rt.isSome 6 + (match v with | .reg _ => 0 | .imm n => 0x80 + n.toNat * 2 ^ 8) }
  | .caddv g la rt a b rel =>
      some { form := 5, op := 0x01, d := optV rt, a := a.val, b := b.val, g := g.code, la := la.val
             m := ordCode rel + flagAt rt.isSome 6 }
  | .cwait a b acq => some { form := 5, op := 0x02, a := a.val, b := b.val, m := ordCode acq }
  | .cwaita d a cnt acq =>
      some { form := 5, op := 0x03, d := d.val, a := a.val, m := ordCode acq + cnt.val * 2 ^ 8 }
  | .cread la d a acq => some { form := 5, op := 0x04, d := d.val, a := a.val, la := la.val, m := ordCode acq }
  | .ctest d a b acq => some { form := 5, op := 0x05, d := d.val, a := a.val, b := b.val, m := ordCode acq }
  | .cset a b => some { form := 5, op := 0x06, a := a.val, b := b.val }
  | .qpush g q a x =>
      some { form := 5, op := 0x07, a := a.val, b := optS x, g := g.code, m := q.val + flagAt x.isSome 7 }
  | .qpop la acq q d p x =>
      some { form := 5, op := 0x08, d := d.val, a := optS x, b := p.val, la := la.val
             m := q.val + flagAt acq 5 + flagAt x.isSome 7 }
  | .qinfo la q d x =>
      some { form := 5, op := 0x09, d := d.val, a := optS x, la := la.val, m := q.val + flagAt x.isSome 7 }
  | .bra disp => some (immF { form := 6, op := 0x00 } disp)
  | .braL _ => some { form := 6, op := 0x00, a := 0x7F }
  | .brc g disp => some (immF { form := 6, op := 0x01, g := g.code } disp)
  | .brd g tok disp =>
      some { form := 6, op := 0x02, g := g.code, b := disp.toNat / 2 ^ 15
             m := tok.toNat + disp.toNat % 2 ^ 15 * 2 ^ 8 }
  | .join tok => some { form := 6, op := 0x03, m := tok.toNat }
  | .call link disp => some (immF { form := 6, op := 0x04, d := link.code } disp)
  | .callL link _ => some { form := 6, op := 0x04, d := link.code, a := 0x7F }
  | .ret link => some { form := 6, op := 0x05, a := link.code }
  | .jmpi link b => some { form := 6, op := 0x06, a := link.code, b := b.val }
  | .sdbnz d disp => some (immF { form := 6, op := 0x07, d := d.val } disp)
  | .yieldW wt disp =>
      some { form := 6, op := 0x08, b := disp.toNat / 2 ^ 15, m := wtCode wt + disp.toNat % 2 ^ 15 }
  | .waitt wt => some { form := 6, op := 0x09, m := wtCode wt }
  | .stop => some { form := 6, op := 0x0A }
  | .trap n payload => some { form := 6, op := 0x0B, m := n.val + payload.toNat * 2 ^ 3 }
  | .nop => some { form := 6, op := 0x0C }
  | .cpy wt tok ds ss sz d a ca =>
      some { form := 7, op := 0x00, d := d.val, a := a.val, b := caReg ca
             m := wtCode wt + tok.val * 2 ^ 12 + caCode ca + flagAt ds 5 + flagAt ss 4 + sz.code * 2 ^ 2 }
  | .cpyt wt tok ps sto d a ca =>
      some { form := 7, op := 0x01, d := d.val, a := a.val, b := caReg ca
             m := wtCode wt + tok.val * 2 ^ 12 + caCode ca + flagAt ps 5 + flagAt sto 4 }
  | .cpyf wt tok ds sz d a ca =>
      some { form := 7, op := 0x02, d := d.val, a := a.val, b := caReg ca
             m := wtCode wt + tok.val * 2 ^ 12 + caCode ca + flagAt ds 5 + sz.code * 2 }
  | .cpyq wt la tok d =>
      some { form := 7, op := 0x03, d := d.val, la := la.val, m := wtCode wt + tok.val * 2 ^ 12 }
  | .cpyx wt tok => some { form := 7, op := 0x04, m := wtCode wt + tok.val * 2 ^ 12 }
  | .baton wt => some { form := 8, op := 0x00, m := wtCode wt }
  | .bpass wt a => some { form := 8, op := 0x01, a := optS a, m := wtCode wt + flagAt a.isSome 0 }
  | .mbq wt c q a => some { form := 8, op := 0x02, a := a.val, m := wtCode wt + flagAt c 2 + q.val }
  | .mbqs wt tok c q a =>
      some { form := 8, op := 0x03, a := a.val, m := wtCode wt + tok.val * 2 ^ 12 + flagAt c 2 + q.val }
  | .mma wt tok rep fs d a b =>
      some { form := 8, op := 0x04, d := d.val, a := a.val, b := b.val
             m := wtCode wt + tok.val * 2 ^ 12 + rep.toNat * 2 ^ 4 + flagAt fs 3 }
  | .mzero wt d cnt => some { form := 8, op := 0x05, d := d.val, m := wtCode wt + cnt.val }
  | .mloada wt d a => some { form := 8, op := 0x06, d := d.val, a := a.val, m := wtCode wt }
  | .mdrain wt la dst a rg nrg dt ty rm bl =>
      some { form := 8, op := 0x07, a := a.val, la := la.val
             d := (match dst with | .reg d => d.val | .scr _ => 0)
             b := (match dst with | .reg _ => 0 | .scr b => b.val)
             m := wtCode wt + rg.val * 2 ^ 12 + nrg.val * 2 ^ 9 + dt.code * 2 ^ 6 + ty.code * 2 ^ 5 + rm.code * 2 ^ 3 +
               (match dst with | .reg _ => 0 | .scr _ => 4) + bl.code * 2 }
  | .mcmpr wt fmt bl d a b =>
      some { form := 8, op := 0x08, d := d.val, a := a.val, b := b.val, m := wtCode wt + bl.code * 2 ^ 3 + fmt.code }
  | .mstat wt la tok clr d =>
      some { form := 8, op := 0x09, d := d.val, la := la.val, m := wtCode wt + tok.val * 2 ^ 12 + flagAt clr 0 }
  | .dbw a b => some { form := 9, op := 0x00, a := a.val, b := b.val }
  | .iold la cfg sz d a disp =>
      some { form := 9, op := 0x01, d := d.val, a := a.val, la := la.val
             m := disp.toNat + sz.code * 2 ^ 19 + flagAt cfg 22 }
  | .iost cfg sz a b disp =>
      some { form := 9, op := 0x02, a := a.val, b := b.val, m := disp.toNat + sz.code * 2 ^ 19 + flagAt cfg 22 }
  | .srd la num d => some { form := 0xA, op := 0x00, d := d.val, la := la.val, m := num.toNat }
  | .swr num a => some { form := 0xA, op := 0x01, a := a.val, m := num.toNat }
  | .fpflagsWrite a => some { form := 0xA, op := 0x01, a := a.val, m := 0x010 }
  | .stageqWrite a => some { form := 0xA, op := 0x01, a := a.val, m := 0x111 }
  | .eret => some { form := 0xA, op := 0x02 }
  | .tlbi kind g a => some { form := 0xA, op := 0x03, a := a.val, m := kind.code + flagAt g 2 }
  | .pgharv clr d a => some { form := 0xA, op := 0x04, d := d.val, a := a.val, m := flagAt clr 0 }
  | .cscope a e => some { form := 0xA, op := 0x05, a := a.val, m := e.val }
  | .bmode tr q => some { form := 0xA, op := 0x06, m := tr.code + q.val * 4 }
  | .msib mode a => some { form := 0xA, op := 0x07, a := a.val, m := mode.code }
  | .atsinv all a => some { form := 0xA, op := 0x08, a := a.val, m := flagAt all 0 }
  | .prgr rc a => some { form := 0xA, op := 0x09, a := a.val, m := rc.code }
  | .svcall a n => some { form := 0xA, op := 0x0A, a := a.val, m := n.val }
  | .park a b acq => some { form := 0xA, op := 0x0B, a := a.val, b := b.val, m := ordCode acq }
  | .plaunch a => some { form := 0xA, op := 0x0C, a := a.val }
  | .pcancel => some { form := 0xA, op := 0x0D }
  | .prepeat a n => some { form := 0xA, op := 0x0E, a := a.val, m := n.toNat }
  | .halt a => some { form := 0xA, op := 0x0F, a := a.val }
  | _ => none

/-- The fields of a half. -/
def Half.fields : Half → HalfFields
  | .vadd d a => ⟨0x00, d.val, a.val, 0⟩
  | .vsub d a => ⟨0x01, d.val, a.val, 0⟩
  | .vmul d a => ⟨0x02, d.val, a.val, 0⟩
  | .vand d a => ⟨0x03, d.val, a.val, 0⟩
  | .vor d a => ⟨0x04, d.val, a.val, 0⟩
  | .vxor d a => ⟨0x05, d.val, a.val, 0⟩
  | .vshl d a => ⟨0x06, d.val, a.val, 0⟩
  | .vshr d a => ⟨0x07, d.val, a.val, 0⟩
  | .vsra d a => ⟨0x08, d.val, a.val, 0⟩
  | .vmin n d a => ⟨0x09, d.val, a.val, n.code⟩
  | .vmax n d a => ⟨0x0A, d.val, a.val, n.code⟩
  | .vmov d a => ⟨0x0B, d.val, a.val, 0⟩
  | .vaddi d a x => ⟨0x0C, d.val, a.val, x.toNat⟩
  | .vmovi d x => ⟨0x0D, d.val, 0, x.toNat⟩
  | .vfadd rm d a => ⟨0x10, d.val, a.val, rm.code⟩
  | .vfsub rm d a => ⟨0x11, d.val, a.val, rm.code⟩
  | .vfmul rm d a => ⟨0x12, d.val, a.val, rm.code⟩
  | .vfmin d a => ⟨0x13, d.val, a.val, 0⟩
  | .vfmax d a => ⟨0x14, d.val, a.val, 0⟩
  | .vhadd rm d a => ⟨0x15, d.val, a.val, rm.code⟩
  | .vhmul rm d a => ⟨0x16, d.val, a.val, rm.code⟩
  | .sadd d a => ⟨0x20, d.val, a.val, 0⟩
  | .ssub d a => ⟨0x21, d.val, a.val, 0⟩
  | .sand d a => ⟨0x22, d.val, a.val, 0⟩
  | .sor d a => ⟨0x23, d.val, a.val, 0⟩
  | .sxor d a => ⟨0x24, d.val, a.val, 0⟩
  | .sshl d a => ⟨0x25, d.val, a.val, 0⟩
  | .sshr d a => ⟨0x26, d.val, a.val, 0⟩
  | .smov d a => ⟨0x27, d.val, a.val, 0⟩
  | .saddi d a x => ⟨0x28, d.val, a.val, x.toNat⟩
  | .smovi d x => ⟨0x29, d.val, 0, x.toNat⟩

/-- The payload of an .l form's EXT word (R39). -/
def Instr.payload (i : Instr) : Option Nat :=
  match i with
  | .smoviL _ lit | .slit _ lit => some (lit.toNat % 2 ^ 60)
  | .vmoviL _ lit => some lit.toNat
  | .braL x | .callL _ x => some x.toNat
  | _ => none

/-- An EXT word (R39). -/
def extWord (p : Nat) : BitVec 64 := BitVec.ofNat 64 (0xF * 2 ^ 60 + p)

/-- The words of an instruction; none for the steps of the device that are no words. -/
def encode (i : Instr) : List (BitVec 64) :=
  match i.fields, i.halves, i.payload with
  | some f, _, none => [BitVec.ofNat 64 f.pack]
  | some f, _, some p => [BitVec.ofNat 64 f.pack, extWord p]
  | none, some (h0, h1), _ =>
      [BitVec.ofNat 64 (0xC * 2 ^ 60 + h0.fields.pack * 2 ^ 30 + h1.fields.pack)]
  | none, none, _ =>
      match i with
      | .ext p => [extWord p.toNat]
      | _ => []

/-- Is the constructor a Halpi word, rather than a step of the device? EXT counts: a word of FORM 0xF issues and
traps (R40). -/
def Instr.isWord (i : Instr) : Bool := !(encode i).isEmpty

/-- A mode in which a word can run at all (R25, R45): system for the S forms, prologue for the P forms, compute for
every other. -/
def naturalMode (w : Nat) : Mode :=
  let f := Fields.unpack w
  match modeFault .compute f with
  | none => .compute
  | some c => if c = 0x02C then .prologue else .system

/-- The instruction that the decoder reads from the words w, least significant word first, in the word's natural
mode with every vector register allotted. An EXT word issued on its own is the instruction .ext (R40). -/
def decodeTableWord (nbits' w : Nat) : Option Instr :=
  let w0 := w % 2 ^ 64
  let w1 := w / 2 ^ 64 % 2 ^ 64
  if nbits' = 0 then none
  else if nbits w0 63 60 = 0xF then some (.ext (BitVec.ofNat 60 w0))
  else
    match (decode (naturalMode w0) 128 [BitVec.ofNat 64 w0, BitVec.ofNat 64 w1]).1 with
    | .instr i => some i
    | _ => none

-- Hazards -----------------------------------------------------------------------------------------

/-- A register of a group that an instruction reads or writes. -/
inductive RegRef
  | v (r : Nat)
  | s (r : Nat)
  | p (r : Nat)
deriving DecidableEq, Repr

def Role.reads : Role → Bool | .w => false | _ => true
def Role.writes : Role → Bool | .r => false | _ => true

/-- Registers f(base) … f(base + n − 1). -/
def regRun (f : Nat → RegRef) (base n : Nat) : List RegRef := (List.range n).map (fun i => f (base + i))

/-- The registers of a field, with its role. -/
def Use.regs (u : Use) (v : Nat) : Option (Role × List RegRef) :=
  match u with
  | .vec ro n _ => some (ro, regRun .v v n)
  | .sca ro n => some (ro, regRun .s v n)
  | .blk n => some (.r, regRun .s v n)
  | .even ro => some (ro, regRun .s v 2)
  | .nonzero => some (.rw, [.s v])
  | .pred ro => some (ro, [.p v])
  | .link ro => some (ro, if v < 64 then [.s v] else regRun .v (2 * (v - 64)) 2)
  | _ => none

/-- s0 and p0 are constants: no hazard (R29). -/
def RegRef.real : RegRef → Bool
  | .v _ => true
  | .s r => r ≠ 0 && r < 64
  | .p r => r ≠ 0

def Half.regRef (n : Nat) : RegRef := if n < 128 then .v n else .s (n - 128)

/-- The registers an instruction reads (R31): its source fields, its guard and its selector. VMOV and SMOV halves
do not use the old value of D (R37). -/
def Instr.reads (mode : Mode) (i : Instr) : List RegRef :=
  let half (h : Half) : List RegRef :=
    match h with
    | .vmov _ a => [.v a.val]
    | .smov _ a => [.s a.val]
    | h => h.reads.map Half.regRef
  let rs := match i.fields, i.halves with
    | some f, _ =>
        match layout mode f with
        | none => []
        | some l =>
            let one (u : Use) (v : Nat) : List RegRef :=
              match u.regs v with
              | some (ro, rs) => if ro.reads then rs else []
              | none => []
            one l.d f.d ++ one l.a f.a ++ one l.b f.b ++
              (if l.g then [RegRef.p (f.g % 8)] else []) ++ (if l.sel then [RegRef.p (f.mf 10 8)] else [])
    | none, some (h0, h1) => half h0 ++ half h1
    | none, none => []
  rs.filter RegRef.real

/-- The registers an instruction writes (R31). -/
def Instr.writes (mode : Mode) (i : Instr) : List RegRef :=
  let rs := match i.fields, i.halves with
    | some f, _ =>
        match layout mode f with
        | none => []
        | some l =>
            let one (u : Use) (v : Nat) : List RegRef :=
              match u.regs v with
              | some (ro, rs) => if ro.writes then rs else []
              | none => []
            one l.d f.d ++ one l.a f.a ++ one l.b f.b
    | none, some (h0, h1) => [Half.regRef h0.dst, Half.regRef h1.dst]
    | none, none => []
  rs.filter RegRef.real

/-- The wait mask of a word (R33); WAITT and YIELD take it as their token set instead. -/
def Instr.waitMask (i : Instr) : Wait :=
  match i.fields with
  | some f => if f.form = 4 || f.form = 7 || f.form = 8 then f.wt else 0
  | none => 0

/-- LA of an L instruction (R31). -/
def Instr.lookahead (i : Instr) : Nat :=
  match i.fields with
  | some f => f.la
  | none => 0

/-- The length of an instruction in bytes: 16 for an .l form with its EXT word (R39). -/
def Instr.size (i : Instr) : Nat := if i.payload.isSome then 16 else 8

/-- FORM of an instruction word; 12 for a PAIR. -/
def Instr.form (i : Instr) : Nat := (i.fields.map (·.form)).getD 12

/-- JOIN waits for every pending result of its fragment (R32). -/
def Instr.isJoin : Instr → Bool
  | .join _ => true
  | _ => false

/-- How long a word occupies the DTU and the scalar divider (R89, R110). -/
def Instr.occupies (i : Instr) : Nat × Nat :=
  match i.fields with
  | some f =>
      if f.form = 2 ∧ 0x0B ≤ f.op ∧ f.op ≤ 0x10 then (if f.op = 0x0D ∨ f.op = 0x0E then 8 else 4, 0)
      else if f.form = 0 ∧ (f.op = 4 ∨ f.op = 5) then (0, 4)
      else (0, 0)
  | none => (0, 0)

/-- SRD of FPFLAGS (R64). -/
def Instr.readsFlags : Instr → Bool
  | .srd _ num _ => num = 0x010
  | _ => false

/-- VNPK, which occupies its ALU pipe for two ck (R110). -/
def Instr.packs : Instr → Bool
  | .vnpk _ _ _ => true
  | _ => false

/-- The word runs on an ALU pipe: FORMs 0x1 to 0x3 but for the predicate and mask words of the scalar unit, and a PAIR word with a vector
half (R146). -/
def Instr.alu (i : Instr) : Bool :=
  match i with
  | .plog _ _ _ _ | .pset _ _ | .pget _ _ | .emrd _ | .emwr _ => false
  | _ =>
    match i.halves with
    | some (h0, h1) => h0.dst < 128 || h1.dst < 128
    | none => i.form = 1 || i.form = 2 || i.form = 3

/-- The unit that takes one word in a ck, none where it takes two: the FORM's (R146), the DTU (R110), the scalar divider or the multiplier
(R89). -/
def Instr.unit (i : Instr) : Option Nat :=
  let (dtu, div) := i.occupies
  if dtu ≠ 0 then some 20
  else if div ≠ 0 then some 21
  else match i with
    | .smul _ _ _ | .smulh _ _ _ _ => some 22
    | _ => if 4 ≤ i.form ∧ i.form ≤ 8 then some i.form else if i.form = 9 ∨ i.form = 10 then some 9 else none

/-- Control transfer, after which the same address may be a new instruction. -/
def Instr.transfers (i : Instr) : Bool := i.form = 6 && (i.fields.map (·.op)).getD 0 ≠ 9

end Sys2Proof
end

