-- ==== Sys2Proof/Machine/Issue.lean ====
section
/-! DEFINITION. What stands between a fragment's turn and the effect of its word: fetch, decoding, interlocks, lookahead windows and
debug (R31, R32, R42, R44, R89, R110, R251, R378, R417, R420, R466). -/

namespace Sys2Proof.Machine

-- Fetch and decoding (R39, R42, R44) ----------------------------------------------------------------------------------

/-- A decode trap; TRAPDATA[1:0] of a PAIR word says which half caused it (R44). DEDUCED (log 21). -/
def decodeFail (w : Word) (code : Code) (td : Nat) : Fail :=
  { code := code, data := if bits w 63 60 = 12 then some (BitVec.ofNat 64 td) else none, decode := true }

/-- The next instruction of a fragment: its word, and its EXT word where it has one, fetched and decoded; or the trap, with
TRAPVA at a word that could not be fetched (R42). An EXT word is an instruction, which traps (R40). -/
def State.fetchInstr (s : State) (n : Now) : Except Fail Instr × State :=
  let p := n.party s.cur.team
  match s.fetchWord p n.f.pc.toNat with
  | (.error c, s) => (.error { code := c, va := some n.f.pc }, s)
  | (.ok w, s) =>
    if bits w 63 60 = 15 then (.ok (.ext (w.setWidth 60)), s)
    else match decodeWord n.t.kind n.t.nregs w.toNat with
      | .bad code td => (.error (decodeFail w code td), s)
      | .instr i => (.ok i, s)
      | .needs f k =>
        match s.fetchWord p (n.f.pc.toNat + 8) with
        | (.error c, s) => (.error { code := c, va := some (n.f.pc + 8) }, s)
        | (.ok x, s) =>
          match decodeExt f k x.toNat with
          | .bad code td => (.error (decodeFail w code td), s)
          | .instr i => (.ok i, s)
          | .needs _ _ => (.error { code := 0x005 }, s)

/-- A prologue fetches only from PROL to PROL + 8 × PLEN − 8 (R378). -/
def State.outsideProl (s : State) (n : Now) : Bool :=
  n.t.kind = .prologue && (match s.launches.find n.t.launch with
    | some l => n.f.pc.toNat < l.desc.prol.toNat || l.desc.prol.toNat + 8 * l.desc.plen < n.f.pc.toNat + 8
    | none => true)

-- Interlocks (R31, R32, R251, R466) ----------------------------------------------------------------------------------------

/-- The register of a hazard as a pending result names it. -/
def pendReg : RegRef → PendReg
  | .v r => .v r
  | .s r => .s r
  | .p r => .p r

/-- A pending result names one of the registers. -/
def Pend.touches (p : Pend) (l : List RegRef) : Bool := l.any (fun r => p.regs.contains (pendReg r))

/-- The fragment's pending results: number, record, and the words that the window still covers. -/
def Now.results (n : Now) : List (Nat × Pend × Nat) :=
  n.f.wins.filterMap (fun w => (n.g.pends.find w.1).map (fun p => (w.1, p, w.2)))

/-- The pending results that this word interlocks on: one that it reads or writes after the window (R31), every one at JOIN (R32), every
floating-point one at SRD of FPFLAGS (R64), and a drain into scratch for words that access memory or the matrix unit (R328). -/
def Now.interlocks (n : Now) (i : Instr) : List (Nat × Pend) :=
  let regs := i.reads n.t.kind ++ i.writes n.t.kind
  let far := i.form = 4 || i.form = 5 || i.form = 7 || i.form = 8
  (n.results.filter (fun e => !e.2.1.written &&
    ((e.2.2 = 0 && e.2.1.touches regs) || i.isJoin || (i.readsFlags && e.2.1.fp) || (far && e.2.1.drain)))).map (fun e => (e.1, e.2.1))

/-- The fragment has a release that has not been performed (R466). -/
def State.releasing (s : State) (c : Cur) : Bool :=
  s.ops.all.any (fun e => (match e.2.who with | .frag f _ => f == c.fid | _ => false) && e.2.scope.isSome
    && (match e.2.act with | .add _ => true | _ => false))

/-- The fragment has an IOLD that has not written its result, or a configuration IOST that has not completed (R466). -/
def State.deviceOpen (s : State) (c : Cur) : Bool :=
  s.reqs.all.any (fun e => match e.2.kind with
    | .iold g slot _ _ _ _ => g = c.gid && slot = c.slot
    | .cfgWrite g slot => g = c.gid && slot = c.slot
    | _ => false)

/-- The ALU pipes of a core (R110, R146). -/
def alusOf (core : Nat) : Nat := if isSysCore core then 1 else 2

/-- The ALU pipes that no VNPK occupies in this ck (R110). -/
def State.alusFree (s : State) (core : Nat) : Nat :=
  let p := (s.core core).pipes
  alusOf core - (if p.1 = s.clock then p.2 else 0)

/-- The word cannot issue in this ck, though nothing long is to be waited for: its unit is occupied (R89, R110), its
team has no room for another copy (R285, R422), or device accesses order it (R466). -/
def State.notYet (s : State) (n : Now) (i : Instr) : Bool :=
  let c := s.core n.t.core
  let (dtu, div) := i.occupies
  (dtu ≠ 0 && s.clock < c.dtuFree) || (div ≠ 0 && s.clock < c.divFree) || (i.alu && s.alusFree n.t.core = 0)
    || (match i with
      | .cpyt _ _ ps st _ a _ => s.copyFull n true (some (a, ps, st))
      | .cpyf _ _ _ _ _ _ _ => s.copyFull n true none
      | _ => false)
    || (i.form = 9 && (i.fields.map (·.op)).getD 0 ≠ 0 && s.releasing s.cur)
    || ((i.form = 4 || i.form = 5 || i.form = 7) && s.deviceOpen s.cur)

-- Debug (R417, R420, R446) ----------------------------------------------------------------------------------------------------

/-- The addresses that a FORM 0x4 word loads or stores, with its bytes for each: loads, stores. -/
def Now.touched (n : Now) : Instr → List Nat × List Nat × Nat
  | .ld _ _ sz _ _ a disp => ((lanesOf n.f.em).map (pairAddr n.g a.val disp), [], szBytes sz)
  | .ldro _ _ sz _ _ a disp => ((lanesOf n.f.em).map (pairAddr n.g a.val disp), [], szBytes sz)
  | .st g _ sz _ a disp => ([], (lanesOf (activeLanes n.f n.g g)).map (pairAddr n.g a.val disp), szBytes sz)
  | .lds _ _ sz _ _ a disp => ((lanesOf n.f.em).map (scrAddr n.g a disp), [], szBytes sz)
  | .sts g _ sz _ a disp => ([], (lanesOf (activeLanes n.f n.g g)).map (scrAddr n.g a disp), szBytes sz)
  | .sld _ _ sz _ sp _ a disp => ([if sp then scaScrAddr n.g a.val disp else scaAddr n.g a.val disp], [], szBytes sz)
  | .sst g _ sz sp _ a disp =>
      ([], if guardTrue n.f n.g g then [if sp then scaScrAddr n.g a.val disp else scaAddr n.g a.val disp] else [], szBytes sz)
  | .red g _ _ wide _ _ _ a _ =>
      let l := (lanesOf (activeLanes n.f n.g g)).map (fun i => (n.g.pairGet a.val i).toNat)
      (l, l, if wide then 8 else 4)
  | _ => ([], [], 0)

/-- An access of n bytes touches the 8-byte granule of a comparator. -/
def inGranule (cmp : Word) (a n : Nat) : Bool := cmp.toNat / 8 * 8 < a + n && a < cmp.toNat / 8 * 8 + 8

/-- The debug code that stops a compute fragment before this word, if any: single step, or the lowest comparator that matches. -/
def Now.debugStop (n : Now) (i : Instr) : Option Code :=
  let d := n.t.dbg
  if n.t.kind ≠ .compute ∨ (d.skip ∧ n.f.pc = n.t.trap.pc) then none
  else if d.step ∧ d.stepped then some 0x03C
  else
    let (ld, st, k) := n.touched i
    (List.range 4).findSome? (fun j =>
      let c := Cells.get 0 d.cmp j
      let hit := match bits c 1 0 with
        | 1 => inGranule c n.f.pc.toNat 8
        | 2 => ld.any (fun a => inGranule c a k)
        | 3 => st.any (fun a => inGranule c a k)
        | _ => false
      if hit then some (BitVec.ofNat 9 (0x038 + j)) else none)

-- The word issues (R31, R32) ------------------------------------------------------------------------------------------------------

/-- The lookahead violation of a word that writes a pending destination inside its window (R31, R44). DEDUCED (log 24). -/
def Now.violation (n : Now) (i : Instr) : Option Fail :=
  if n.results.any (fun e => 0 < e.2.2 && e.2.1.touches (i.writes n.t.kind)) then
    some (if i.form = 12 then { code := 0x019, data := some 3 } else { code := 0x018 })
  else none

/-- Windows, the debug block and the units count a word that issues: once for a word that is held back and issues again (R32,
R110). DEDUCED (log 23). -/
def State.count (s : State) (n : Now) (i : Instr) : State :=
  if n.f.counted = some n.f.pc ∧ !i.transfers then s
  else
    let s := s.putFrag s.cur { n.f with
      counted := some n.f.pc
      wins := n.f.wins.map (fun w => (w.1, w.2 - 1)) }
    let s := s.settle s.cur.gid
    let s := if n.t.kind = .compute then s.updTeam s.cur.team (fun t => { t with dbg := { t.dbg with
        budget := t.dbg.budget.map (· - 1), stepped := t.dbg.step, skip := t.dbg.skip && n.f.pc ≠ t.trap.pc } }) else s
    let (dtu, div) := i.occupies
    let c := s.core n.t.core
    if i.packs then
      s.putCore n.t.core { c with pipes := (s.clock + 1, if c.pipes.1 = s.clock + 1 then c.pipes.2 + 1 else 1) }
    else if dtu = 0 ∧ div = 0 then s
    else s.putCore n.t.core { c with dtuFree := if dtu = 0 then c.dtuFree else s.clock + dtu, divFree := if div = 0 then c.divFree else s.clock + div }

/-- What becomes of a fragment's turn: no word issues, or the instruction to execute with the state it finds. -/
inductive Issued
  | held (s : State)
  | run (i : Instr) (s : State)

/-- Words of the fragment may issue: its team runs or has stopped in this very ck (R415), its budget is not spent, and no handler
of its group is active in another slot (R420, R424). -/
def State.mayIssue (s : State) (n : Now) : Bool :=
  s.awake
    && (n.t.run = .resident || (n.t.run = .stopped && n.t.trap.ck = s.clock))
    && n.t.dbg.budget ≠ some 0 && (!n.g.trap.v || n.g.trap.slot = s.cur.slot || n.t.kind ≠ .system)
    && n.f.st = .active

/-- The tokens that the word waits for are not all zero: it does not issue, and is not counted (R33). -/
def Now.tokenWait (n : Now) (i : Instr) : Bool :=
  !(List.range 8).all (fun k => !bit i.waitMask k || n.g.tget k = 0)

/-- How a fragment stands before its next word (R145). -/
inductive Standing
  | ready
  | notReady                      -- not ready in this ck: it keeps its place
  | results (l : List Nat)        -- WAIT-L on pending results (R31, R149)
  | acquire                       -- WAIT-L on the answer to an acquire (R251)
  | tokens (m : Wait)             -- WAIT-T on its wait mask (R33)
deriving DecidableEq, Repr

/-- How the fragment stands before a decoded word: what it waits for longest comes first. DEDUCED (log 110). -/
def State.standing (s : State) (n : Now) (i : Instr) : Standing :=
  let l := n.interlocks i
  let long := (l.filter (fun e => !e.2.short)).map (·.1)
  if long ≠ [] then .results long
  else if (i.form = 4 || i.form = 5 || i.form = 7) && n.f.acquires ≠ [] then .acquire
  else if n.tokenWait i then .tokens i.waitMask
  else if l ≠ [] || s.notYet n i then .notReady
  else .ready

/-- A word whose fields fail a check after its OP is an instruction still, and issues, and traps, only once the tokens of its mask are
zero (R33, R44). -/
def State.standingBad (s : State) (n : Now) : Standing :=
  match (s.fetchWord (n.party s.cur.team) n.f.pc.toNat).1 with
  | .error _ => .ready
  | .ok w =>
    let f := Fields.unpack w.toNat
    if (f.form = 4 || f.form = 7 || f.form = 8) && (layout n.t.kind f).isSome && !n.g.tokensZero f.wt then .tokens f.wt else .ready

/-- What becomes of a fragment that cannot issue. -/
def State.hold (s : State) (n : Now) : Standing → State
  | .ready => s
  | .notReady => s.putFrag s.cur { n.f with ready := some (s.clock + 1) }
  | .results l => s.interlock { n with f := n.f.closes l } l
  | .acquire => s.putFrag s.cur { n.f with st := .waitL, why := .acquire, ready := none }
  | .tokens m => s.putFrag s.cur { n.f with st := .waitT, why := .tokens m, ready := none }

/-- A word that is ready meets check 9 of R44. -/
def State.meets (s : State) (n : Now) (i : Instr) : Issued :=
  match s.standing n i with
  | .ready =>
    match n.debugStop i with
    | some c =>
        .held ((s.updTeam s.cur.team (fun t => { t with dbg := { t.dbg with stepped := false } })).trapNow n { code := c })
    | none =>
      match n.violation i with
      | some f => .held (s.trapNow n f)
      | none => .run i (s.count n i)
  | x => .held (s.hold n x)

/-- The turn of fragment c to issue. -/
def State.issue (s : State) (c : Cur) : Issued :=
  let s : State := { s with cur := c }
  match s.now with
  | none => .held s
  | some n =>
    if !s.mayIssue n then .held s
    else if s.outsideProl n then .held (s.trapNow n { code := 0x0B7 })
    else match s.fetchInstr n with
      | (.error f, s) =>
        match s.standingBad n with
        | .ready => .held (s.trapNow n f)
        | x => .held (s.hold n x)
      | (.ok i, s) => s.meets n i

end Sys2Proof.Machine
end

