-- ==== Sys2Proof/Machine/Steps.lean ====
section
/-! DEFINITION. The steps of fragments, counters and caches: issue slots and exchanges, results, answers, homes, L1 timers and
page walks (R31, R144 to R150, R190, R191, R198, R218 to R237, R345, R348, R432). -/

namespace Sys2Proof.Machine

-- Issue and exchange (R144 to R150) -------------------------------------------------------------------------------

/-- The fragments that hold slots of a core. -/
def State.coreFrags (s : State) (k : Nat) : List (Nat × Frag) :=
  s.frags.all.filter (fun e => (s.teams.find (e.1 / 1024)).any (fun t => t.core = k && t.onCore))

/-- Words of the fragment may issue: its team runs, its debug budget is not spent, and no handler of its group is
active in another slot (R415, R420, R424). -/
def State.runs (s : State) (fid : Nat) : Bool :=
  match s.teams.find (fid / 1024), s.groups.find (fid / 64) with
  | some t, some g => s.awake && t.run = .resident && t.dbg.budget ≠ some 0 && (!g.trap.v || g.trap.slot = fid % 64 || t.kind ≠ .system)
  | _, _ => false

/-- The older of two ready fragments, ties to the lower slot (R146, R147). -/
def olderReady (a b : Nat × Frag) : Nat × Frag :=
  let x := a.2.ready.getD 0
  let y := b.2.ready.getD 0
  if y < x ∨ (y = x ∧ b.1 % 64 < a.1 % 64) then b else a

/-- The oldest of a list of ready fragments. -/
def oldestReady : List (Nat × Frag) → Option (Nat × Frag)
  | [] => none
  | a :: l => some (l.foldl olderReady a)

/-- A fragment's next word before it issues: how the fragment stands, the unit that takes one word in a ck, and whether it needs an ALU
pipe (R145, R146). -/
structure NextWord where
  stands : Standing
  unit : Option Nat := none
  alu : Bool := false

/-- The next word of a fragment; one that traps is ready, and traps when it issues (R44). -/
def State.nextWord (s : State) (fid : Nat) : NextWord :=
  let s : State := { s with cur := ⟨fid / 64, fid % 64⟩ }
  match s.now with
  | none => { stands := .notReady }
  | some n =>
    if s.outsideProl n then { stands := .ready }
    else match (s.fetchInstr n).1 with
      | .error _ => { stands := s.standingBad n }
      | .ok i => { stands := s.standing n i, unit := i.unit, alu := i.alu }

/-- The ACTIVE fragments of a core whose next word nothing has been found to hold; one that entered in this ck may issue from the next
(R147). -/
def State.candidates (s : State) (k : Nat) : List (Nat × Frag) :=
  (s.coreFrags k).filter (fun e => e.2.st = .active && e.2.active.any (· < s.clock) && e.2.ready.any (· ≤ s.clock) && s.runs e.1)

/-- The ACTIVE ready fragments of a core (R145). -/
def State.readyFrags (s : State) (k : Nat) : List (Nat × Frag) :=
  (s.candidates k).filter (fun e => (s.nextWord e.1).stands = .ready)

/-- The fragments of a core that cannot issue in this ck are no longer ready: they wait, or keep their place (R144, R145). -/
def State.holdBack (s : State) (k : Nat) : State :=
  (s.candidates k).foldl (fun (s : State) e =>
    let c : Cur := ⟨e.1 / 64, e.1 % 64⟩
    match s.at' c with
    | none => s
    | some n => { ({ s with cur := c } : State).hold n (s.nextWord e.1).stands with cur := s.cur }) s

/-- The second word of a ck fits beside the first (R89, R110, R146). -/
def State.beside (s : State) (core : Nat) (a b : NextWord) : Bool :=
  (a.unit.isNone || b.unit ≠ a.unit) && (!(a.alu && b.alu) || 2 ≤ s.alusFree core)

/-- The fragments that issue in this ck: up to two on a compute core, one on a system core, and each engine of a hub's
prologues (R146, R150, R378). DEDUCED (log 101). -/
def State.chosen (s : State) (k : Nat) : List Nat :=
  let l := s.readyFrags k
  if isFeCore k then l.map (·.1)
  else match oldestReady l with
    | none => []
    | some a =>
      if isSysCore k then [a.1]
      else
        let w := s.nextWord a.1
        let rest := l.filter (fun (e : Nat × Frag) => e.1 ≠ a.1 && s.beside k w (s.nextWord e.1))
        a.1 :: ((oldestReady rest).map (fun (e : Nat × Frag) => e.1)).toList

/-- Fragments in ascending slot, the order in which the words of one ck act (R270, R415). -/
def bySlot (l : List Nat) : List Nat := (List.range 64).flatMap (fun k => l.filter (fun f => f % 64 = k))

/-- ISSUE_CYCLE (R146, R150): the ports of a core choose among the ready fragments; the chosen words issue next. -/
def execIssueCycle (core : Nat) (s : State) : Out :=
  let s := s.holdBack core
  .next { s with issueQ := s.issueQ ++ (bySlot (s.chosen core)).map (fun f => ⟨f / 64, f % 64⟩) }

/-- The oldest PENDING ready fragment of a core (R147). -/
def State.nextIn (s : State) (k : Nat) : Option (Nat × Frag) :=
  oldestReady ((s.coreFrags k).filter (fun e => e.2.st = .pending && e.2.active.isNone && e.2.ready.any (· ≤ s.clock) && s.runs e.1))

/-- A fragment enters the active set (R147). -/
def State.enters (s : State) (fid : Nat) : State :=
  { s with frags := s.frags.upd fid (fun f => { f with st := .active, active := some s.clock, waitedAt := none }) }

/-- A fragment leaves the active set (R147). -/
def State.leaves (s : State) (fid : Nat) : State :=
  { s with frags := s.frags.upd fid (fun f => { f with active := none, waitedAt := none }) }

/-- The states of case 2 of R147, and JOIN, in which a fragment leaves its place. -/
def FragSt.leavesSet : FragSt → Bool
  | .waitC => true
  | .waitT => true
  | .waitL => true
  | .waitB => true
  | .join => true
  | .active => false
  | .pending => false
  | .stallT => false

/-- The fragment that entered its WAIT state first, ties to the lower slot (R147). -/
def firstWaiter : List (Nat × Frag) → Option (Nat × Frag)
  | [] => none
  | a :: l => some (l.foldl (fun (a b : Nat × Frag) =>
      let x := a.2.waitedAt.getD 0
      let y := b.2.waitedAt.getD 0
      if y < x ∨ (y = x ∧ b.1 % 64 < a.1 % 64) then b else a) a)

/-- The exchange that case 1 or 2 of R147 asks for: who leaves and who enters. -/
def State.exchange (s : State) (k : Nat) : Option Nat × Option Nat :=
  let inSet := (s.coreFrags k).filter (fun (e : Nat × Frag) => e.2.active.isSome)
  let nxt := (s.nextIn k).map (fun (e : Nat × Frag) => e.1)
  if inSet.length < activePlaces k ∧ nxt.isSome then (none, nxt)
  else match inSet.find? (fun e => e.2.st = .join), firstWaiter (inSet.filter (fun e => e.2.st.leavesSet)) with
    | some j, none => (some j.1, nxt)
    | some j, some w => if nxt.isSome then (some w.1, nxt) else (some j.1, none)
    | none, some w => if nxt.isSome then (some w.1, nxt) else (none, none)
    | none, none => (none, none)

/-- SWAP_EXCHANGE (R147 cases 1 and 2, R150). -/
def execSwapExchange (core : Nat) (s : State) : Out :=
  .next (
    let (out, into') := s.exchange core
    let s := match out with | some f => s.leaves f | none => s
    match into' with | some f => s.enters f | none => s)

/-- PENDING_AGE_EXPIRY (R147 case 3): the oldest PENDING ready fragment has waited 8 ck, and the ACTIVE ready fragment that
entered earliest makes room for it. -/
def execPendingAgeExpiry (core : Nat) (s : State) : Out :=
  .next (match s.exchange core, s.nextIn core with
    | (none, none), some (f, x) =>
      if x.ready.getD s.clock + 8 ≤ s.clock then
        match s.readyFrags core with
        | [] => s
        | a :: l =>
          let e := l.foldl (fun (a b : Nat × Frag) =>
            let p := a.2.active.getD 0
            let q := b.2.active.getD 0
            if q < p ∨ (q = p ∧ b.1 % 64 < a.1 % 64) then b else a) a
          let s : State := { s with frags := s.frags.upd e.1 (fun y => { y with st := .pending, active := none, ready := some s.clock }) }
          s.enters f
      else s
    | _, _ => s)

/-- HALT_WAKE (R432): the deadline has come, or another fragment of the core has become ready since. -/
def execHaltWake (gid slot : Nat) (s : State) : Out :=
  .next (match s.at' ⟨gid, slot⟩ with
    | none => s
    | some n =>
      match n.f.why with
      | .deadline ck since =>
        let other := (s.coreFrags n.t.core).any (fun e => e.1 ≠ 64 * gid + slot && e.2.ready.any (fun r => since < r && r ≤ s.clock))
        if ck ≤ s.clock ∨ other then s.wakes ⟨gid, slot⟩ else s
      | _ => s)

-- Results (R31, R201) -----------------------------------------------------------------------------------------------

/-- The value is that of a lane of vector register r. -/
def RegVal.inLanes (r : Nat) (m : Mask) : RegVal → Bool
  | .v q i _ => q = r && bit m i
  | .s _ _ => false
  | .p _ _ _ => false

/-- A pending result that is not written, because its data is bad: its fragment traps (R201, R465). -/
def State.badResult (s : State) (c : Cur) (pid : Nat) (p : Pend) (f : Fail) : State :=
  ((s.setPend c.gid pid (fun _ => none)).wakeResults c.gid).raise c p.pc f

/-- RESULT_WRITE (R31, R64, R84): a result is written to its destination at its instant, and sets its flags once its windows have
closed; `part` writes some lanes of one register of it early, which a word in the window may then see. DEDUCED (log 26). -/
def execResultWrite (gid slot pid : Nat) (part : Option (Nat × Mask)) (s : State) : Out :=
  .next (match s.pendOf gid pid with
    | none => s
    | some p =>
      if s.clock < p.due then s
      else match p.vals, p.bad, part with
      | none, _, _ => s
      | some l, none, some (r, m) => { s with groups := s.groups.upd gid (fun g => g.puts (l.filter (·.inLanes r m))) }
      | some _, some _, some _ => s
      | some _, bad, none =>
        let s : State := { s with reqs := s.reqs.filter (fun e => !(e.2.any (fun r =>
          match r.kind with | .iold g _ q _ _ _ => g = gid && q = pid | _ => false))) }
        match bad with
        | none => s.deliver gid pid
        | some f => s.badResult ⟨gid, slot⟩ pid p f)

-- Homes (R198, R218 to R228) ------------------------------------------------------------------------------------------

/-- The counter is a scratch counter of a team that has ended (R198). -/
def State.ctrGone (s : State) (c : Ctr) : Bool :=
  match c with
  | .scr t _ => !((s.teams.find t).any (fun x => x.run ≠ .ended))
  | _ => false

/-- HOME_COUNTER_OP (R218 to R220): an operation is performed at its place in the order. An add that returns nothing to an
ended team's counter is dropped and logged (R198). -/
def execHomeCounterOp (op : Nat) (s : State) : Out :=
  .next (match s.ops.find op with
    | none => s
    | some o =>
      if !s.ready o then s
      else
        let s : State := { s with ops := s.ops.del op }
        match o.act, o.pend with
        | .add _, none => if s.ctrGone o.ctr then (s.logTeam o.team 0x061 o.pc o.va).answer o .done else s.perform o
        | _, _ => s.perform o)

/-- COLD_MOVE_TICK (R224 step 3): the entry held longest goes to the cold list, and the freed entry to the oldest
retry. -/
def execColdMoveTick (home : Nat) (s : State) : Out :=
  .next (
    let h := s.home home
    match h.retry, h.general with
    | _ :: _, w :: l => { s.putHome home ({ h with general := l }.letIn (homeSize home) 1) with cold := s.cold ++ [w] }
    | _, [] => s.putHome home (h.letIn (homeSize home) h.retry.length)
    | [], _ => s)

/-- The queue whose refusal limit a wait obeys, if any (R228). DEDUCED (log 55). -/
def State.limitQueue (s : State) (o : CtrOp) : Option Queue :=
  match o.who with
  | .frag f _ => (s.teams.find (f / 1024)).bind (fun t => if t.kind = .compute then s.queues.find t.queue else none)
  | .tail k => s.queues.find k
  | .packet k => s.queues.find k
  | .node g _ => (s.graphs.find g).bind (fun x => s.queues.find x.queue)
  | .token _ _ _ => none
  | .msi _ => none
  | .port _ _ => none
  | .nobody => none

/-- The wait that is retrying under an order number. -/
def State.retrying (s : State) (seq : Nat) : Option CtrOp :=
  (s.homes.all.flatMap (fun (e : Nat × Home) => e.2.retry)).find? (fun o => o.seq = seq)

/-- A queue's limit has passed for a retrying wait (R228). -/
def State.limitPassed (s : State) (o : CtrOp) : Bool :=
  (s.limitQueue o).any (fun q => q.refuse ≠ 0 && o.since + q.refuse * ckUs ≤ s.clock)

/-- WAITER_REFUSAL_LIMIT (R228): a wait that no entry has taken within the limit ends with 0x098 in its fragment, or 0x099
for a packet or node (R411); the wait for TAIL is asked anew. DEDUCED (log 55). -/
def execWaiterRefusalLimit (op : Nat) (s : State) : Out :=
  .next (match s.retrying op with
    | none => s
    | some o =>
      if !s.limitPassed o then s
      else
        let s := s.withdraw (fun x => x.seq = op && x.who = o.who || x.seq = op && sameFrag x.who o.who)
        match o.who with
        | .frag f _ => s.raise ⟨f / 64, f % 64⟩ o.pc { code := 0x098, va := some o.va }
        | .packet k => s.retireFault k 0x099 0
        | .node g j => s.graphFault g j 0x099 false
        | .tail k => s.updQueue k (fun q => { q with tailWait := false })
        | .token _ _ _ => s
        | .msi _ => s
        | .port _ _ => s
        | .nobody => s)

-- Answers (R223, R233 to R240) ------------------------------------------------------------------------------------------

/-- A team whose fragments may trap: on its core, and not yet saved. -/
def Team.mayTrap (t : Team) : Bool :=
  match t.run with
  | .placed => true
  | .resident => true
  | .parking _ => true
  | .preempting => true
  | .stopped => true
  | .parked => false
  | .trapped => false
  | .relaunch => false
  | .ended => false

/-- A trap answer to a fragment, with TRAPPC at the word that asked and TRAPVA at the operand (R232). DEDUCED (log 56). -/
def State.answerTrap (s : State) (c : Cur) (o : CtrOp) (code : Code) : State := s.raise c o.pc (operandFail code o.va)

/-- A wait of a fragment has been answered as reached: it acquires, and its fragment goes on; a parked team is queued for relaunch, which
acquires on its new core (R154, R226, R236). -/
def State.waitEnds (s : State) (c : Cur) (scope : Option Nat) : State :=
  match s.teams.find c.team with
  | none => s
  | some t =>
    let s := if t.onCore then s.acquire t.core scope else s
    (s.wakes c).requeue c.team

/-- The answers in flight to one CWAITA, as pair and value (R237). -/
def State.pairAnswers (s : State) (o : CtrOp) : List (Nat × Ans) :=
  (s.answers.all.filter (fun e => e.2.op.seq = o.seq && sameFrag e.2.op.who o.who)).map (fun (e : Nat × Ans) =>
    (match e.2.op.who with | .frag _ p => p | _ => 0, e.2))

/-- The answer of lowest pair that satisfies h. -/
def lowestPair (l : List (Nat × Ans)) (h : Ans → Bool) : Option (Nat × Ans) :=
  (List.range 4).findSome? (fun p => l.find? (fun e => e.1 = p && h e.2))

/-- The first answers of a CWAITA reach the core (R237): the lowest trapping pair traps, or D receives the lowest pair reached;
the other pairs are withdrawn. -/
def State.cwaitaEnds (s : State) (c : Cur) (o : CtrOp) : State :=
  let l := s.pairAnswers o
  let s := s.withdraw (fun x => x.seq = o.seq && sameFrag x.who o.who)
  match lowestPair l (fun a => match a.val with | .trap _ => true | _ => false), lowestPair l (fun a => a.val = .reached) with
  | some (_, a), _ => (match a.val with | .trap k => s.answerTrap c a.op k | _ => s)
  | none, some (p, a) =>
      (s.updGroup c (fun g => g.sset o.reg (BitVec.ofNat 64 p))).waitEnds c a.op.scope
  | none, none => s

/-- The register values of an answer (R234, R235, R238, R239): a CADDV request serves its lanes in ascending order, and the lanes that
name the null counter return 0 (R216). -/
def ansVals (o : CtrOp) (v : AnsVal) : List RegVal :=
  match v, o.act with
  | .value x, .add _ =>
      if o.lanes.isEmpty then [.s o.reg x]
      else if o.ctr = .null then o.lanes.flatMap (fun e => pairVals o.reg e.1 0)
      else (o.lanes.foldl (fun (r : Word × List RegVal) e => (r.1 + e.2, r.2 ++ pairVals o.reg e.1 r.1)) (x, [])).2
  | .value x, _ => [.s o.reg x]
  | .bool b, _ => [.p o.reg (o.lanes.foldl (fun (m : Mask) e => m ||| laneBit e.1) 0) (if b then BitVec.allOnes 32 else 0)]
  | _, _ => []

/-- Values for a pending result of a group; a result that is not pending any more is written at once. -/
def State.fillPend (s : State) (gid pid : Nat) (l : List RegVal) : State :=
  match s.pendOf gid pid with
  | none => { s with groups := s.groups.upd gid (fun g => g.puts l) }
  | some p =>
    let got := p.got ++ l
    s.setPend gid pid (fun q => q.map (fun q =>
      if q.need ≤ 1 then { q with need := 0, got := [], vals := some got } else { q with need := q.need - 1, got := got }))

/-- An answer that fills a pending result (R233): it acquires where it observed, or traps. -/
def State.valueAnswer (s : State) (c : Cur) (o : CtrOp) (pid : Nat) (v : AnsVal) : State :=
  match v with
  | .trap k =>
      let s := ((s.setPend c.gid pid (fun _ => none)).wakeResults c.gid).acquired c.gid pid
      if (s.frags.find c.fid).isSome then s.answerTrap c o k else s.logTeam c.team k o.pc o.va
  | _ =>
    let acq : Bool := match o.act, v with
      | .read, _ => true
      | .test _, .bool b => b
      | _, _ => false
    let s := match s.teams.find c.team with
      | some t => if acq then s.acquire t.core o.scope else s
      | none => s
    (s.acquired c.gid pid).fillPend c.gid pid (ansVals o v)

/-- An answer to a fragment. A trap answer waits while its team is off its core, and queues a parked team for relaunch. DEDUCED (log 56). -/
def State.fragAnswer (s : State) (ans : Nat) (a : Ans) (c : Cur) : State :=
  let s' : State := { s with answers := s.answers.del ans }
  let o := a.op
  match s.teams.find c.team with
  | none => s'
  | some t =>
    let traps : Bool := match a.val with | .trap _ => true | _ => false
    if traps && !t.mayTrap then s.requeue c.team
    else match o.act, o.pend with
      | .add _, none => s'
      | .wait _, some _ => s.cwaitaEnds c o
      | .wait _, none => (match a.val with | .trap k => s'.answerTrap c o k | _ => s'.waitEnds c o.scope)
      | .set _, _ => (match a.val with | .trap k => s'.answerTrap c o k | _ => s'.wakes c)
      | _, some pid => s'.valueAnswer c o pid a.val
      | _, none => s'

/-- An answer to a CWAIT packet (R370): it retires, or faults (R411). -/
def State.packetAnswer (s : State) (k : Nat) (o : CtrOp) (v : AnsVal) : State :=
  match s.queues.find k with
  | none => s
  | some q =>
    if q.step ≠ .waiting then s
    else match v with
      | .trap c => s.retireFault k (packetWaitCode c) 0
      | _ => (if o.scope.isSome then s.depDev k else s).retire k false

/-- An answer to a CWAIT node (R403). -/
def State.nodeAnswer (s : State) (g j : Nat) (v : AnsVal) : State :=
  match v with
  | .trap c => s.graphFault g j (packetWaitCode c) false
  | _ => s.nodeEnd g j (((s.graphs.find g).bind (fun x => x.nodes.find j)).elim [] GNode.succs)

/-- COUNTER_ANSWER (R223, R233): an answer reaches its asker. -/
def execCounterAnswer (ans : Nat) (s : State) : Out :=
  .next (match s.answers.find ans with
    | none => s
    | some a =>
      let s' : State := { s with answers := s.answers.del ans }
      match a.op.who with
      | .frag f _ => s.fragAnswer ans a ⟨f / 64, f % 64⟩
      | .token gid tok id => s'.copyGone gid tok id
      | .tail k => s'.updQueue k (fun q => match a.val with
          | .reached => { q with reached := true }
          | _ => { q with tailWait := false })
      | .packet k => s'.packetAnswer k a.op a.val
      | .node g j => s'.nodeAnswer g j a.val
      | .msi _ => s'
      | .port _ _ => (match a.val with
          | .value x => s'.send { sub := a.op.reg, addr := a.op.va.toNat, data := some (leBytes 8 x.toNat), size := 8 }
          | _ => s')
      | .nobody => s')

-- Caches and page walks (R190, R191, R345, R348) --------------------------------------------------------------------------

/-- LOGICAL_TIME_TICK (R191): a microsecond has passed. -/
def execLogicalTimeTick (core : Nat) (s : State) : Out :=
  .next (s.putCore core { s.core core with lt := (s.core core).lt + 1 })

/-- WRITEBACK_TIMER (R190): a sector is written back 2 µs after its oldest unwritten store, or its line, ordinary or read-only, is evicted
(R208). -/
def execWritebackTimer (core sector : Nat) (evict : Bool) (s : State) : Out :=
  .next (
    if evict then s.evictLine core (sector / 4)
    else match ((s.core core).l1.find sector).bind (·.oldest) with
      | some c => if c + 2 * ckUs ≤ s.clock then s.writeBack core sector else s
      | none => s)

/-- PAGE_WALK (R341 to R345, R348): a walk fills the caches of a core and sets the leaf's A bit. -/
def execPageWalk (core pasid va : Nat) (s : State) : Out := .next (s.xlate (placeOf core) pasid va (fun _ => true)).2

end Sys2Proof.Machine
end

