-- ==== Sys2Proof/Machine/Services.lean ====
section
/-! DEFINITION. Vetiver's service calls: their beginning, their ends, and the services of queues, contexts, bindings and
information (R365, R366, R412, R417, R429, R439 to R448, R451, R473, R480). -/

namespace Sys2Proof.Machine

-- Times (R440) ----------------------------------------------------------------------------------------------------

/-- The worst case of a service: a fixed part and a part per unit, in ns; units 0 none, 1 2 MiB, 2 page, 3 entry; and the
time of an endpoint or peer that it adds, bounded by R437. -/
structure SvcTime where
  base : Nat
  unit : Nat := 0
  ukind : Nat := 0
  ext : Option Nat := none

/-- The table of R440. Where R437 gives no bound for an endpoint, that of a configuration request is taken. DESIGN CHOICE (log 63). -/
def svcTimes : List SvcTime :=
  let us (n : Nat) : Nat := n * 1000
  let ms (n : Nat) : Nat := n * 1000000
  [⟨us 2, 0, 0, none⟩, ⟨us 50, 0, 0, none⟩, ⟨us 50, 0, 0, none⟩, ⟨us 100, 0, 0, none⟩, ⟨us 500, 0, 0, none⟩, ⟨us 50, 0, 0, none⟩,
    ⟨ms 1, 0, 0, none⟩, ⟨0, us 40, 1, none⟩, ⟨0, us 60, 1, none⟩, ⟨us 20, us 1, 1, none⟩, ⟨us 40, us 1, 1, some (ms 10)⟩,
    ⟨us 40, us 1, 1, some (ms 10)⟩, ⟨0, us 80, 1, none⟩, ⟨us 10, 40, 2, none⟩, ⟨us 20, 0, 0, none⟩, ⟨us 20, us 1, 1, none⟩,
    ⟨us 20, 0, 0, some (ms 10)⟩, ⟨us 20, 0, 0, none⟩, ⟨us 20, 0, 0, none⟩, ⟨us 10, 0, 0, none⟩, ⟨us 10, 0, 0, none⟩] ++
  [⟨us 100, 0, 0, some (ms 30000)⟩, ⟨us 200, 0, 0, some (ms 30000)⟩, ⟨us 200, 0, 0, some (ms 30000)⟩, ⟨us 200, 0, 0, some (ms 1000)⟩,
    ⟨us 200, 0, 0, some (ms 1000)⟩, ⟨us 100, 0, 0, some (ms 1000)⟩, ⟨us 50, 0, 0, some (ms 50)⟩, ⟨us 20, 0, 0, some (ms 10)⟩,
    ⟨us 10, 0, 0, none⟩, ⟨us 30, 0, 0, none⟩, ⟨ms 5, 0, 0, some (ms 50)⟩, ⟨ms 1, 0, 0, some (ms 50)⟩, ⟨ms 2, 0, 0, some (ms 50)⟩,
    ⟨ms 5, 0, 0, some (ms 50)⟩, ⟨ms 20, 0, 0, none⟩, ⟨ms 10, 0, 0, some (ms 2000)⟩, ⟨ms 10, us 80, 1, none⟩, ⟨ms 100, 0, 0, some (ms 50)⟩,
    ⟨ms 150, 0, 0, some (ms 50)⟩] ++
  [⟨ms 2, 0, 0, none⟩, ⟨us 10, 0, 0, none⟩, ⟨ms 2000, 0, 0, none⟩, ⟨us 20, 0, 0, none⟩, ⟨us 50, 0, 0, none⟩, ⟨us 10, 100, 3, none⟩,
    ⟨us 20, 0, 0, some (ms 50)⟩, ⟨us 5, 0, 0, none⟩]

/-- An argument word of a call; absent ones are 0. -/
def Call.arg (c : Call) (i : Nat) : Word := c.args.getD i 0

/-- The units that a call's arguments ask for (R440). -/
def State.callUnits (s : State) (c : Call) (ukind : Nat) : Nat :=
  match ukind with
  | 0 => 0
  | 1 => if c.num = 37 then ((s.sub (8 * bits (c.arg 0) 3 0 + bits (c.arg 0) 6 4)).cxlBytes + 0x1FFFFF) / 0x200000
         else ((c.arg 2).toNat + 0x1FFFFF) / 0x200000
  | _ => (c.arg 2).toNat

/-- The worst-case time of a call in ck (R440). -/
def State.callLimit (s : State) (c : Call) : Nat :=
  match svcTimes[c.num]? with
  | some t => (t.base + t.unit * s.callUnits c t.ukind + t.ext.getD 0) * ckUs / 1000
  | none => 0

-- The block and the caller's memory (R439, R447) ----------------------------------------------------------------------

/-- The physical address of a call's block while it still has the permissions that are asked of it (R447). -/
def State.blockAt (s : State) (c : Call) (rd : Bool) : Option Nat × State :=
  match s.xlate (.hub c.hub) c.pasid c.block.toNat (fun e => pteW e && (!rd || pteR e)) with
  | (.page e, s) => (if pteW e.pte && (!rd || pteR e.pte) && pteType e.pte ≠ 1 && pteType e.pte ≠ 2 then some (e.pa c.block.toNat) else none, s)
  | (_, s) => (none, s)

/-- 0x139 logged with the caller's TEAMLIN (R447). -/
def State.logBlock (s : State) (c : Call) : State :=
  s.logEntry c.hub { code := 0x139, lin := c.lin, pasid := c.pasid, va := c.block }

/-- A call ends (R439): STATUS and RESULT are written, and 1 is added to CTR as a release at SYS. An overrun call ends with
0x0BB (R440). A call whose block has lost its page or a right ends with 0x139, which is logged, and which is STATUS where the block can still
be written (R447). DEDUCED (log 59). -/
def State.endCall (s : State) (id : Nat) (c : Call) (status : Code) (result : Nat := 0) : State :=
  let (whole, s) := s.blockAt c true
  let (pa, s) := s.blockAt c false
  let lost := whole.isNone || status = 0x139
  let status : Code := if lost then 0x139 else if c.overrun then 0x0BB else status
  let s := match pa with
    | some pa => s.homeWrite (pa + 16) (leBytes 8 ((if lost then 0 else result % 2 ^ 32 * 2 ^ 32) + status.toNat))
    | none => s
  let s := if lost then s.logBlock c else s
  let s := s.emit { ctr := c.ctr, act := .add 1, who := .nobody, scope := some 6, pasid := c.pasid, va := c.ctrVa, team := c.team }
  ({ s with calls := s.calls.del id } : State).admitCalls c.hub 1

/-- The services that a live update changes, in order; they follow the new version and the bitstream's flag after the arguments of its call. -/
def Call.changed (c : Call) : List Nat := (c.args.drop 7).map (·.toNat)

/-- The service that a live update switches now (R482). -/
def Call.switching (c : Call) : Option Nat := if c.num = 42 ∧ c.begun.isSome ∧ 0 < c.step then c.changed[c.step - 1]? else none

/-- A live update is switching the service (R482). -/
def State.switching (s : State) (num : Nat) : Bool := s.calls.all.any (fun e => e.2.switching = some num)

/-- A call that comes while its service is switched is held, which is logged, once more when the hold passes its bound (R482). -/
def State.holdCall (s : State) (id : Nat) (c : Call) : State :=
  let logged (s : State) (k : Code) : State := s.logEntry c.hub { code := k, lin := c.lin, pasid := c.pasid, va := c.block }
  if !s.switching c.num then s
  else match c.hold with
    | none => logged { s with calls := s.calls.put id { c with hold := some s.clock } } 0x175
    | some t =>
      if c.longHold ∨ s.clock ≤ t + s.callLimit c + 50 * ckUs then s
      else logged { s with calls := s.calls.put id { c with longHold := true } } 0x172

/-- The call is the next of its service on its hub, fewer than 16 of it run, and no live update switches it (R439, R482). -/
def State.mayBegin (s : State) (id : Nat) (c : Call) : Bool :=
  let same := s.calls.all.filter (fun e => e.2.num = c.num && e.2.hub = c.hub && e.2.who.isNone)
  !s.switching c.num && !(same.any (fun e => e.1 < id && e.2.begun.isNone)) && (same.filter (fun e => e.2.begun.isSome)).length < 16

/-- The words of a block at offsets 8 and 24 to 56, as Vetiver reads them when the call begins (R439). DEDUCED (log 41). -/
def State.readBlock (s : State) (c : Call) : Option (List Word) × State :=
  match s.blockAt c true with
  | (none, s) => (none, s)
  | (some pa, s) =>
    (if s.poisoned pa 64 then none else some (s.memWord (pa + 8) :: (List.range 5).map (fun i => s.memWord (pa + 24 + 8 * i))), s)

/-- A service's step: a call that has not begun reads its block first, and a malformed block ends it, as one that has lost its page or a
right does before any step (R439, R447). -/
def State.service (s : State) (num id : Nat) (h : State → Call → State) : Out :=
  .next (match s.calls.find id with
    | none => s
    | some c =>
      if c.num ≠ num ∨ c.who.isSome ∨ !s.running then s
      else if c.begun.isSome then
        match s.blockAt c true with
        | (none, s) => s.endCall id c 0x139
        | (some _, s) => h s c
      else if !s.mayBegin id c then s.holdCall id c
      else match s.readBlock c with
        | (none, s) => s.endCall id c 0x139
        | (some w, s) =>
          let c : Call := { c with begun := some s.clock, args := w.drop 1 }
          let s := ({ s with calls := s.calls.put id c } : State).admitCalls c.hub 1
          if w.headD 0 ≠ 1 then s.endCall id c 0x13A else h s c)

/-- n words of the caller's memory read by a service; an argument that names memory it cannot read is out of range, status
0x13A (R439, R445). DEDUCED (log 59). -/
def State.svcRead (s : State) (c : Call) (va n : Nat) : Except Code (List Word) × State :=
  match s.feRead c.hub c.pasid va n with
  | (.error _, s) => (.error 0x13A, s)
  | (.ok w, s) => (.ok w, s)

/-- Every word of a range checked for writing by a service. -/
def State.svcCheck (s : State) (p : Party) (va : Nat) : Nat → Except Bad (List (Nat × Nat × Nat)) × State
  | 0 => (.ok [], s)
  | n + 1 =>
      match s.checkAccess p .store va 8 with
      | (.error b, s) => (.error b, s)
      | (.ok l, s) =>
        match State.svcCheck s p (va + 8) n with
        | (.error b, s) => (.error b, s)
        | (.ok r, s) => (.ok (l ++ r), s)

/-- Bytes written to the caller's memory, all of them or none. -/
def State.svcWrite (s : State) (c : Call) (va : Nat) (l : List Byte) : Bool × State :=
  let p : Party := { place := .hub c.hub, pasid := c.pasid }
  match s.svcCheck p va (l.length / 8) with
  | (.error _, s) => (false, s)
  | (.ok r, s) => (true, s.writePieces p r l)

/-- A service whose output goes to a buffer of the caller, 64-byte aligned and writable, or 0x13A (R445, R480). -/
def State.toBuffer (s : State) (id : Nat) (c : Call) (va : Word) (l : List Byte) (result : Nat) : State :=
  if va.toNat % 64 ≠ 0 then s.endCall id c 0x13A
  else match s.svcWrite c va.toNat l with
    | (true, s) => s.endCall id c 0 result
    | (false, s) => s.endCall id c 0x13A

/-- SERVICE_OVERRUN (R440): a call that has run past twice its worst case is logged with 0x0BB. The time of QDETACH runs from the end of the
packet in progress, that of IORELEASE from the end of the lease's last command. DEDUCED (log 64). -/
def execServiceOverrun (call : Nat) (s : State) : Out :=
  .next (match s.calls.find call with
    | none => s
    | some c =>
      match c.begun with
      | none => s
      | some b =>
        if c.overrun ∨ 48 ≤ c.num ∨ (c.num = 16 ∧ c.step = 0) ∨ s.clock < b + 2 * s.callLimit c then s
        else { s with calls := s.calls.put call { c with overrun := true } }.logEntry c.hub { code := 0x0BB, lin := c.lin, pasid := c.pasid, va := c.block })

/-- ECHO (R440). -/
def execEcho (call : Nat) (s : State) : Out := s.service 0 call (fun s c => s.endCall call c 0)

/-- SVCALL_QUEUE_TIMEOUT (R447): a call that the queue has not taken in 1 ms ends its SVCALL with 0x13B. -/
def execSvcallQueueTimeout (gid slot : Nat) (s : State) : Out :=
  .next (match s.calls.all.find? (fun e => e.2.who = some ⟨gid, slot⟩) with
    | none => s
    | some (id, c) =>
      if s.clock < c.since + 1000 * ckUs then s
      else ({ s with calls := s.calls.del id } : State).raise ⟨gid, slot⟩ c.pc { code := 0x13B, va := some c.block })

-- Queues (R365, R366) ------------------------------------------------------------------------------------------------

/-- A PASID argument: its coding, and a valid and present directory entry (R441). -/
def State.pasidBad (s : State) (hub : Nat) (x : Word) : Bool :=
  2 ^ 20 ≤ x.toNat || !(let d := s.dirEntry hub x.toNat; bit d 0 && bit d 1)

/-- The words of a QCB that attachment refuses (R364, R366). -/
def qcbRefused (w : List Word) : Bool :=
  let f (i : Nat) : Word := w.getD i 0
  let within (x a b : Nat) : Bool := a ≤ x && x ≤ b
  qcbBad (f 0) || (f 1).toNat % 64 ≠ 0 || !within (f 2).toNat 4 16 || !within (bits (f 7) 31 0) 100 1000000
    || !within (bits (f 7) 41 32) 1 1000 || bits (f 7) 63 42 ≠ 0 || !within (bits (f 8) 31 0) 10 60000 || 1000000 < bits (f 8) 63 32
    || bits (f 9) 63 48 ≠ 0 || (List.range 6).any (fun i => f (10 + i) ≠ 0)
    || (List.range 8).any (fun i => f (24 + i) ≠ 0)

/-- The queue of a QCB at its attachment: packets count from 0 (R367); the fault record and the marker that the FE wrote stand. -/
def queueOf (pasid qcb pool : Nat) (w : List Word) (clock : Nat) : Queue :=
  let f (i : Nat) : Word := w.getD i 0
  { pasid := pasid, hub := bits (f 0) 19 19, qcb := qcb, prio := bits (f 0) 18 16, ctx := bits (f 0) 47 32, base := f 1, lsz := (f 2).toNat
    tail := f 3, head := f 4, fault := f 5, scope := f 6, slice := bits (f 7) 31 0, park := bits (f 7) 41 32, wdog := bits (f 8) 31 0
    refuse := bits (f 8) 63 32, ppool := bits (f 9) 31 0, pool := pool, fields := bits (f 9) 47 32, fcause := (f 20).setWidth 9, fpc := f 21, fidx := (f 22).toNat, mark := f 23, halted := bit (f 0) 3, since := clock }

/-- QATTACH (R365, R366): the QCB is read and checked, A is set in it and in the directory entry, and its park pool is set
aside. DEDUCED (log 57). -/
def execQattach (call : Nat) (s : State) : Out :=
  s.service 1 call (fun s c =>
    let pasid := (c.arg 0).toNat
    let d := s.dirEntry c.hub pasid
    let n := (c.arg 1).toNat
    let key := pasid * 4096 + n
    if s.pasidBad c.hub (c.arg 0) ∨ dirBad d ∨ 2 ^ bits d 9 6 ≤ n ∨ (s.queues.find key).any (fun q => !q.detached) then s.endCall call c 0x13A
    else if (s.queues.find key).isSome then s
    else
      let qcb := bits d 63 39 * 2 ^ 20 + 256 * n
      let w := (List.range 32).map (fun i => s.memWord (qcb + 8 * i))
      let q := queueOf pasid qcb 0 w s.clock
      match s.ctxs.find q.ctx with
      | none => s.endCall call c 0x13A
      | some x =>
        if qcbRefused w ∨ x.pasid ≠ pasid ∨ x.killed then s.endCall call c 0x13A
        else if 1024 ≤ (s.queues.all.filter (fun e => e.2.hub = q.hub && !e.2.detached)).length then s.endCall call c 0x13D
        else match s.setAside (q.ppool * pageBytes) with
          | none => s.endCall call c 0x13D
          | some (pool, s) =>
            let s := (s.homeWrite qcb (leBytes 8 (w.headD 0 ||| 4).toNat)).homeWrite ((s.hub c.hub).fedir.toNat + 8 * pasid) (leBytes 8 (d ||| 4).toNat)
            let s : State := { s with
              queues := s.queues.put key { q with pool := pool }
              ctxs := s.ctxs.put q.ctx { x with wdog := q.wdog, queues := x.queues ++ [key], watch := if x.queues = [] then s.clock else x.watch } }
            ((s.qcbSync key).tailAgain key id).endCall call c 0)

/-- A queue leaves its FE (R365). -/
def State.dropQueue (s : State) (k : Nat) (q : Queue) : State :=
  let s := (s.qcbSync k).withdraw (fun o => o.who = .tail k)
  ({ s with
    queues := s.queues.upd k (fun q => { q with detached := true })
    ctxs := s.ctxs.upd q.ctx (fun x => { x with queues := x.queues.filter (· ≠ k) }) } : State).forgetQueue k

/-- QDETACH (R365): the packet in progress finishes first; from then on no packet is taken. DEDUCED (log 57). -/
def execQdetach (call : Nat) (s : State) : Out :=
  s.service 2 call (fun s c =>
    let key := (c.arg 0).toNat * 4096 + (c.arg 1).toNat
    match (if 4096 ≤ (c.arg 1).toNat then none else (s.queues.find key).filter (fun q => !q.detached)) with
    | none => s.endCall call c 0x13A
    | some q =>
      let s := s.updQueue key (fun q => { q with detach := true })
      if q.step = .idle then (s.dropQueue key q).endCall call c 0
      else { s with calls := s.calls.put call { c with begun := some s.clock } })

-- Contexts (R340, R374, R412, R417, R429, R446) ------------------------------------------------------------------------

/-- CTXCREATE (R340, R440): a context bound to a PASID that is not the system image's own. -/
def execCtxcreate (call : Nat) (s : State) : Out :=
  s.service 3 call (fun s c =>
    let id := (c.arg 1).toNat
    let used := (s.ctxs.find id).any (fun x => !x.killed || x.queues ≠ [] || (s.quarantine.find id).any (fun q => !q.sealed))
    if s.pasidBad c.hub (c.arg 0) ∨ s.sysPasid (c.arg 0).toNat ∨ 2 ^ 16 ≤ id ∨ used then s.endCall call c 0x13A
    else { s with ctxs := s.ctxs.put id { pasid := (c.arg 0).toNat, watch := s.clock } }.endCall call c 0)

/-- A context argument that names a context which has not ended. -/
def State.liveCtx (s : State) (x : Word) : Option Ctx := (s.ctxs.find x.toNat).bind (fun c => if c.killed then none else some c)

/-- CTXKILL (R440, R414): the context ends with 0x178. -/
def execCtxkill (call : Nat) (s : State) : Out :=
  s.service 4 call (fun s c =>
    match s.liveCtx (c.arg 0) with
    | none => s.endCall call c 0x13A
    | some _ => (s.endContext (c.arg 0).toNat 0x178).endCall call c 0)

/-- CTXRESUME (R417): the team whose record lies at an address is resumed, which is a relaunch, or discarded, which ends its
launch. A record of a suspended context resumes the context. DEDUCED (log 58). -/
def execCtxresume (call : Nat) (s : State) : Out :=
  s.service 5 call (fun s c =>
    let act := (c.arg 1).toNat
    match s.teams.all.find? (fun e => e.2.saveAt = some (c.arg 0).toNat) with
    | none => s.endCall call c 0x13A
    | some (t, x) =>
      if 2 ≤ act then s.endCall call c 0x13A
      else if x.run = .trapped ∧ x.unlogged then s
      else if x.run = .trapped then
        if act = 0 then (s.updTeam t (fun y => { y with run := .relaunch })).endCall call c 0
        else (s.failLaunch x.launch x.trap.code x.trap.pc).endCall call c 0
      else if (s.ctxs.find x.ctx).any (·.suspended) then
        let s : State := { s with ctxs := s.ctxs.upd x.ctx (fun y => { y with suspended := false }) }
        let s := if act = 0 then s else s.failLaunch x.launch x.trap.code x.trap.pc
        ((((s.ctxs.find x.ctx).map (·.queues)).getD []).foldl (fun (s : State) k => s.resumeQueue k) s).endCall call c 0
      else s.endCall call c 0x13A)

/-- CTXSUSPEND (R440, R372): the context's resident teams are pre-empted with 0x142 and its queues suspended; the call ends
when every team is saved. DEDUCED (log 58). -/
def execCtxsuspend (call : Nat) (s : State) : Out :=
  s.service 6 call (fun s c =>
    match s.liveCtx (c.arg 0) with
    | none => s.endCall call c 0x13A
    | some x =>
      let ctx := (c.arg 0).toNat
      let ts := (s.teams.all.filter (fun e => e.2.kind = .compute && e.2.ctx = ctx && e.2.onCore)).map (fun (e : Nat × Team) => e.1)
      let s := if x.suspended then s
        else x.queues.foldl (fun (s : State) k => s.suspendQueue k) { s with ctxs := s.ctxs.put ctx { x with suspended := true } }
      if ts = [] then s.endCall call c 0 else s.preemptTeams ts 0x142)

/-- SCOPESET (R440, R429): entry 8 to 31 of a context's scope table from a mask of 192 bytes. -/
def execScopeset (call : Nat) (s : State) : Out :=
  s.service 14 call (fun s c =>
    match s.liveCtx (c.arg 0) with
    | none => s.endCall call c 0x13A
    | some x =>
      let e := (c.arg 1).toNat
      if e < 8 ∨ 31 < e then s.endCall call c 0x13A
      else match s.svcRead c (c.arg 2).toNat 24 with
        | (.error k, s) => s.endCall call c k
        | (.ok w, s) => (s.setScope x.pasid e (w.flatMap (fun x => leBytes 8 x.toNat))).endCall call c 0)

/-- A team of a context by its TEAMLIN. DEDUCED (log 105). -/
def State.teamBy (s : State) (ctx lin : Word) : Option (Nat × Team) :=
  s.teams.all.find? (fun e => e.2.kind = .compute && e.2.ctx = ctx.toNat && e.2.lin = lin.toNat)

/-- FAULTINJECT (R412, R411, R479): an injection code raised in a team that is on a core. DEDUCED (log 60). -/
def execFaultinject (call : Nat) (s : State) : Out :=
  s.service 43 call (fun s c =>
    let k := c.arg 2
    if s.life = .deployed then s.endCall call c 0x13D
    else if 2 ^ 9 ≤ k.toNat ∨ !injection (k.setWidth 9) then s.endCall call c 0x13A
    else match s.teamBy (c.arg 0) (c.arg 1) with
      | none => s.endCall call c 0x13A
      | some (t, x) => if x.onCore then (s.raiseIn t { code := k.setWidth 9 }).endCall call c 0 else s.endCall call c 0x13D)

/-- A debug block edited by a request (R446): the operation, comparator, mode, address and budget. -/
def Debug.edit (d : Debug) (op k mode : Nat) (addr : Word) (budget : Nat) : Debug :=
  match op with
  | 1 => { d with cmp := Cells.set 0 d.cmp k (addr ||| BitVec.ofNat 64 mode) }
  | 2 => { d with cmp := Cells.set 0 d.cmp k 0 }
  | 3 => { d with step := true }
  | 4 => { d with step := false, stepped := false }
  | 5 => { d with budget := if budget = 0 then none else some budget }
  | _ => { d with cmp := [], step := false, stepped := false, budget := none }

/-- DEBUG (R446): a team is stopped with 0x03E, or its debug block edited; only in MANUFACTURE and RETURN. DEDUCED (log 104). -/
def execSvcDebug (call : Nat) (s : State) : Out :=
  s.service 44 call (fun s c =>
    if s.life ≠ .manufacture ∧ s.life ≠ .retired then s.endCall call c 0x13D
    else match s.teamBy (c.arg 0) (c.arg 1) with
      | none => s.endCall call c 0x13A
      | some (t, x) =>
        if (c.arg 2).toNat % 32 ≠ 0 then s.endCall call c 0x13A
        else match s.svcRead c (c.arg 2).toNat 4 with
          | (.error k, s) => s.endCall call c k
          | (.ok w, s) =>
            let f (i : Nat) : Word := w.getD i 0
            let op := bits (f 0) 3 0
            let mode := bits (f 0) 7 6
            if 7 ≤ op ∨ bits (f 0) 15 8 ≠ 1 ∨ bits (f 0) 63 16 ≠ 0 ∨ bits (f 1) 2 0 ≠ 0 ∨ bits (f 2) 63 32 ≠ 0 ∨ f 3 ≠ 0
                ∨ (op = 1 ∧ mode = 0) then s.endCall call c 0x13A
            else
              let s : State := { s with sessions := s.sessions + 1 }
              if op = 0 then
                (if x.run = .resident then (s.raiseIn t { code := 0x03E }).endCall call c 0 else s.endCall call c 0x13D)
              else (s.editDebug t (fun d => d.edit op (bits (f 0) 5 4) mode (f 1) (bits (f 2) 31 0))).endCall call c 0)

-- Bindings (R448, R450, R451) -----------------------------------------------------------------------------------------

/-- The doorbell of a binding record lies in an MMIO page of the PASID (R448). -/
def State.doorbellOk (s : State) (c : Call) (va : Nat) : Bool × State :=
  if va % 4 ≠ 0 then (false, s)
  else match s.xlate (.hub c.hub) c.pasid va (fun _ => true) with
    | (.page e, s) => (pteType e.pte = 2, s)
    | (_, s) => (false, s)

/-- The status of DBBIND for a counter that it refuses: 0x092 for a peer's, 0x13A for an operand out of range, and 0x06E for any
other that lies in no COUNTER page of device memory (R448). DEDUCED (log 61). -/
def bindStatus (c : Code) : Code := if c = 0x092 then 0x092 else if c = 0x05A then 0x13A else 0x06E

/-- DBBIND (R448): a binding of the caller's PASID, numbered from the lowest free number. DEDUCED (log 61). -/
def execDbbind (call : Nat) (s : State) : Out :=
  s.service 17 call (fun s c =>
    if (c.arg 0).toNat % 64 ≠ 0 then s.endCall call c 0x13A
    else match s.svcRead c (c.arg 0).toNat 8 with
      | (.error k, s) => s.endCall call c k
      | (.ok w, s) =>
        let f (i : Nat) : Word := w.getD i 0
        let depth := bits (f 2) 63 32
        let esz := bits (f 2) 7 0
        let (db, s) := s.doorbellOk c (f 0).toNat
        if depth < 2 ∨ 65536 < depth ∨ bits (f 2) 31 8 ≠ 0 ∨ esz < 4 ∨ 8 < esz ∨ bits (f 5) 63 1 ≠ 0 ∨ f 6 ≠ 1 ∨ f 7 ≠ 0 ∨ !db
            ∨ 2 ^ 56 < (f 1).toNat + depth * 2 ^ esz ∨ !s.leased c.pasid (f 1).toNat (depth * 2 ^ esz) then s.endCall call c 0x13A
        else match s.bindCounter c.hub c.pasid (f 3) with
          | (.error k, s) => s.endCall call c (bindStatus k)
          | (.ok pub, s) =>
            let (cons, s) : Except Code (Option Ctr) × State := if f 4 = 0 then (.ok none, s)
              else match s.bindCounter c.hub c.pasid (f 4) with
                | (.error k, s) => (.error k, s)
                | (.ok x, s) => (.ok (some x), s)
            match cons with
            | .error k => s.endCall call c (bindStatus k)
            | .ok cons =>
              match (List.range 4096).find? (fun k => (s.bindings.find k).isNone) with
              | none => s.endCall call c 0x13D
              | some k =>
                let b : Binding := { pasid := c.pasid, dbaddr := (f 0).toNat, qbase := (f 1).toNat, depth := depth, esz := esz, ctr := pub
                                     pubVa := f 3, cons := cons, follow := bit (f 5) 0, seen := s.ctrGet pub }
                ({ s with bindings := s.bindings.put k b } : State).endCall call c 0 k)

/-- PUB is at most CONS + DEPTH − 1 in PUB counting; what the DBP follows now (R450). -/
def State.followed (s : State) (b : Binding) : Word × Bool :=
  let pub := s.ctrGet b.ctr
  match b.cons with
  | none => (pub, false)
  | some k =>
    let lim := s.ctrGet k + BitVec.ofNat 64 (b.depth - 1)
    if reached pub (lim + 1) then (lim, true) else (pub, false)

/-- A trap of a DBW that its fragment has left behind (R438, R449): raised in the fragment, where a team off its core is waited
for, or logged with the TEAMLIN when the team or fragment has ended or stopped. -/
def State.lateTrap (s : State) (d : Dw) (code : Code) : State :=
  let live := (s.teams.find d.team).any (fun t => t.run ≠ .stopped && t.run ≠ .trapped && t.run ≠ .ended)
  if live ∧ (s.frags.find d.who.fid).isSome then
    { s with answers := s.answers.put s.nextId
               ⟨{ ctr := .null, act := .set 0, who := .frag d.who.fid 0, team := d.team, pc := d.pc, va := Config.freeWord s.fresh
                  seq := s.nextId, since := s.clock }, .trap code⟩
             nextId := s.nextId + 1, fresh := s.fresh + 1 }
  else if (s.teams.find d.team).isSome then s.logTeam d.team code d.pc 0
  else s.logEntry 0 { code := code, lin := d.lin, pc := d.pc }

/-- DBUNBIND (R449, R450): adds to PUB that came before have their tail written first; DBWs whose write has not been made
raise 0x105. -/
def execDbunbind (call : Nat) (s : State) : Out :=
  s.service 18 call (fun s c =>
    let k := (c.arg 0).toNat
    match s.bindings.find k with
    | none => s.endCall call c 0x13A
    | some b =>
      if b.pasid ≠ c.pasid then s.endCall call c 0x13A
      else if b.follow ∧ b.seen ≠ (s.followed b).1 then s
      else
        let mine := s.dws.all.filter (fun e => e.2.binding = k && !e.2.sent)
        let s : State := { s with bindings := s.bindings.del k, dws := s.dws.filter (fun e => !(e.2.any (fun d => d.binding = k && !d.sent))) }
        (mine.foldl (fun (s : State) (e : Nat × Dw) => s.lateTrap e.2 0x105) s).endCall call c 0)

/-- MSIBIND (R440, R453): as MSIB; messages are held between the two steps of its installation (R452). DEDUCED (log 62). -/
def execMsibind (call : Nat) (s : State) : Out :=
  s.service 19 call (fun s c =>
    let x := (c.arg 0).toNat
    let k := x % 65536
    let h := x / 65536 % 2
    let mode := (c.arg 3).toNat
    if 2 ^ 17 ≤ x ∨ 3 ≤ mode ∨ (mode ≠ 0 ∧ 2 ^ 20 ≤ (c.arg 2).toNat) then s.endCall call c 0x13A
    else if mode = 0 then (s.msiOff h k).endCall call c 0
    else if c.step = 1 then
      match (s.hub h).msi.find k with
      | some b => (if b.installing then s.msiInstalled h k b else s).endCall call c 0
      | none => s.endCall call c 0
    else match s.bindCounter h (c.arg 2).toNat (c.arg 1) with
      | (.error e, s) => s.endCall call c e
      | (.ok ctr, s) =>
        let b : MsiBind := { pasid := (c.arg 2).toNat, ctr := ctr, va := c.arg 1, data := mode = 2, installing := true }
        let o := (s.hub h).msi.find k
        if o.any (fun o => o.valid && o.pasid ≠ b.pasid) then s.endCall call c 0x12C
        else
          let s := s.msiPut h k { b with valid := o.any (·.valid) }
          { s with calls := s.calls.put call { c with step := 1 } })

/-- MSIUNBIND (R440, R453): a hub and a binding. DEDUCED (log 62). -/
def execMsiunbind (call : Nat) (s : State) : Out :=
  s.service 20 call (fun s c =>
    if 2 ≤ (c.arg 0).toNat ∨ 65536 ≤ (c.arg 1).toNat then s.endCall call c 0x13A
    else (s.msiOff (c.arg 0).toNat (c.arg 1).toNat).endCall call c 0)

-- Information (R445, R473, R480) ----------------------------------------------------------------------------------------

/-- The 128 bytes of FUNCINFO (R445). -/
def State.funcBytes (s : State) (f : Func) : List Byte :=
  let b (x : Bool) : Nat := if x then 1 else 0
  let ide := f.stream.any (fun k => ((s.sub (8 * f.port + f.sub)).streams.find k).any (fun x => x.keyed && !x.insecure))
  leBytes 8 (1 + f.state * 2 ^ 8 + f.driver * 2 ^ 16 + f.port * 2 ^ 24 + f.sub * 2 ^ 28)
    ++ leBytes 8 (f.vid + f.did * 2 ^ 16 + f.cls * 2 ^ 32)
    ++ leBytes 8 (f.rid + b f.ats * 2 ^ 16 + b f.pri * 2 ^ 17 + b f.pasidEn * 2 ^ 18 + b ide * 2 ^ 19 + f.speed * 2 ^ 20 + f.width * 2 ^ 23)
    ++ (List.range 6).flatMap (fun k => leBytes 8 ((f.bars.getD k (0, 0)).1))
    ++ (List.range 6).map (fun k => BitVec.ofNat 8 ((f.bars.getD k (0, 0)).2))
    ++ List.replicate 50 0

/-- FUNCINFO (R445). -/
def execFuncinfo (call : Nat) (s : State) : Out :=
  s.service 29 call (fun s c =>
    match s.funcs.find (c.arg 0).toNat with
    | none => s.endCall call c 0x13A
    | some f => s.toBuffer call c (c.arg 1) (s.funcBytes f) 0)

/-- LOGREAD (R445). -/
def execLogread (call : Nat) (s : State) : Out :=
  s.service 45 call (fun s c =>
    let h := (c.arg 0).toNat
    let n := (c.arg 2).toNat
    if 2 ≤ h ∨ n < 1 ∨ 4096 < n then s.endCall call c 0x13A
    else
      let b := s.hub h
      let p := (s.memWord b.flogpctr.toNat).toNat
      let first := p - min n (2 ^ b.flogcfg)
      let body := (List.range (p - first)).flatMap (fun i => s.memRead (b.flogbase.toNat + 64 * ((first + i) % 2 ^ b.flogcfg)) 64)
      s.toBuffer call c (c.arg 1) (leBytes 8 first ++ leBytes 8 (p - first) ++ List.replicate 48 0 ++ body) (p - first))

/-- SERVICEINFO (R445); the versions are the image's. DESIGN CHOICE (log 65). -/
def execServiceinfo (call : Nat) (s : State) : Out :=
  s.service 47 call (fun s c =>
    let entry (e : SvcTime × Nat) : List Byte :=
      [BitVec.ofNat 8 e.2, Config.imageByte s.fwVersion (2 * e.2), Config.imageByte s.fwVersion (2 * e.2 + 1), if e.1.ext.isSome then 1 else 0]
        ++ leBytes 4 e.1.base ++ leBytes 4 e.1.unit ++ leBytes 4 e.1.ukind
    s.toBuffer call c (c.arg 0) ((svcTimes.zip (List.range 48)).flatMap entry) 0)

/-- POWERALARM (R473). -/
def execPoweralarm (call : Nat) (s : State) : Out :=
  s.service 41 call (fun s c =>
    let a := (c.arg 0).toNat
    if a < 12000 ∨ 20000 < a ∨ a % 100 ≠ 0 then s.endCall call c 0x13A else { s with alarmAt := a }.endCall call c 0)

/-- The code of a life-cycle state (R479, R480). -/
def lifeCode : LifeCycle → Nat
  | .manufacture => 0
  | .provisioned => 1
  | .deployed => 2
  | .retired => 3

/-- ATTEST (R480): the digests and the signature are the device's own. -/
def execAttest (call : Nat) (s : State) : Out :=
  s.service 35 call (fun s c =>
    match s.svcRead c (c.arg 0).toNat 4 with
    | (.error k, s) => s.endCall call c k
    | (.ok w, s) =>
      let secret (k n : Nat) : List Byte := (List.range n).map (fun i => Config.secretByte (s.fresh + k + i))
      let l := leBytes 8 (1 + lifeCode s.life * 2 ^ 8) ++ List.replicate 56 0 ++ w.flatMap (fun x => leBytes 8 x.toNat) ++ secret 0 224
        ++ List.replicate 32 0 ++ secret 224 2420 ++ List.replicate 1324 0
      { s with fresh := s.fresh + 2644 }.toBuffer call c (c.arg 1) l 0)

end Sys2Proof.Machine
end

