-- ==== Sys2Proof/Machine/Pages.lean ====
section
/-! DEFINITION. Page tables as Vetiver writes them, the TME, clearing, and the paging services (R217, R340 to R343, R345, R353,
R356 to R362, R441, R455, R458). -/

namespace Sys2Proof.Machine

-- Ranges of memory (R356, R362) -----------------------------------------------------------------------------------

/-- n bytes and their poison marks copied over what a range held (R356). -/
def State.copyRange (s : State) (src dst n : Nat) : State :=
  let s' := s.zeroRange dst n
  { s' with
    mem := (s.mem.filter (fun e => src ≤ e.1 && e.1 < src + n)).foldl (fun (m : Cells Byte) e => Cells.set 0 m (e.1 - src + dst) e.2) s'.mem
    poison := (s.poison.filter (fun e => src ≤ e.1 && e.1 < src + n)).foldl (fun (m : Cells Bool) e => Cells.set false m (e.1 - src + dst) e.2) s'.poison }

/-- A counter whose page has moved. -/
def Ctr.moved (old new n : Nat) : Ctr → Ctr
  | .mem pa => if old ≤ pa ∧ pa < old + n then .mem (pa - old + new) else .mem pa
  | .null => .null
  | .scr t i => .scr t i
  | .peer pa => .peer pa

/-- A place of a lane copy whose page has moved. -/
def At.moved (old new n : Nat) : At → At
  | .mem pa => if old ≤ pa ∧ pa < old + n then .mem (pa - old + new) else .mem pa
  | .scr t o => .scr t o
  | .pad k o => .pad k o

/-- The counters, waiters and checked places of a range handed over to where its page has moved (R217, R356). -/
def State.handOverPage (s : State) (old new n : Nat) : State :=
  let mv (c : Ctr) : Ctr := c.moved old new n
  let op (o : CtrOp) : CtrOp := { o with ctr := mv o.ctr }
  let w (x : Waiter) : Waiter := { x with op := op x.op }
  let add (a : Option CopyAdd) : Option CopyAdd := a.map (fun a => { a with ctr := mv a.ctr })
  let (l, s) := s.takeEntries (fun o => mv o.ctr ≠ o.ctr)
  let s : State := { s with
    cold := s.cold.map w
    ops := s.ops.map (fun e => (e.1, e.2.map op))
    answers := s.answers.map (fun e => (e.1, e.2.map (fun (a : Ans) => { a with op := op a.op })))
    copies := s.copies.map (fun e => (e.1, e.2.map (fun (c : Copy) => { c with ctr := add c.ctr })))
    laneCopies := s.laneCopies.map (fun e => (e.1, e.2.map (fun (c : LaneCopy) =>
      { c with ctr := add c.ctr, lanes := c.lanes.map (fun x => (x.1.moved old new n, x.2.moved old new n)) })))
    calls := s.calls.map (fun e => (e.1, e.2.map (fun (c : Call) => { c with ctr := mv c.ctr })))
    bindings := s.bindings.map (fun e => (e.1, e.2.map (fun (b : Binding) => { b with ctr := mv b.ctr, cons := b.cons.map mv })))
    hubs := s.hubs.map (fun e => (e.1, e.2.map (fun (h : Hub) =>
      { h with msi := h.msi.map (fun e => (e.1, e.2.map (fun (b : MsiBind) => { b with ctr := mv b.ctr }))) }))) }
  l.foldl (fun (s : State) x =>
    let x := w x
    let hn := s.homeOf x.op.ctr
    let h := s.home hn
    if h.general.length < (homeSize hn).1 ∧ h.retry = [] then s.putHome hn { h with general := h.general ++ [x] }
    else { s with cold := s.cold ++ [x] }) s

/-- Every cached copy of a range leaves the cores: dirty bytes written back, read-only sectors dropped (R356). -/
def State.flushAll (s : State) (pa n : Nat) : State :=
  let s := s.flushRange pa n
  { s with cores := s.cores.map (fun e => (e.1, e.2.map (fun (c : Core) =>
      { c with ro := c.ro.filter (fun x => 64 * (x.1 % 2 ^ 40) + 63 < pa || pa + n ≤ 64 * (x.1 % 2 ^ 40)) }))) }

/-- The write-grant bits of `units` frames moved (R356, R358). -/
def State.moveGrants (s : State) (old new : Nat) : Nat → State
  | 0 => s
  | k + 1 =>
      let f := old / pageBytes + k
      let g := new / pageBytes + k
      State.moveGrants { s with grants := Cells.set false (Cells.set false s.grants g (Cells.get false s.grants f)) f false } old new k

-- Tables ------------------------------------------------------------------------------------------------------------

/-- The table that an entry names, made in the frames at `next` when the entry names none; and the next free frames. -/
def State.tableAt (s : State) (a next : Nat) : (Nat × Nat) × State :=
  let e := s.memWord a
  if pteV e then ((pteFrame e, next), s)
  else ((next, next + 0x40000), (s.clearFrames 0 0 0 next 0x40000).homeWrite a (leBytes 8 (1 + next)))

/-- The leaf address of a 64 KiB page with the tables that it needs made (R441). DESIGN CHOICE (log 67). -/
def State.makeSlot (s : State) (hub pasid va next : Nat) : (Nat × Nat) × State :=
  let ((t2, next), s) := s.tableAt (dirRoot (s.dirEntry hub pasid) + 8 * (va / 2 ^ 43 % 2 ^ 13)) next
  let ((t3, next), s) := s.tableAt (t2 + 8 * (va / 2 ^ 31 % 2 ^ 12)) next
  ((t3 + 8 * (va / 2 ^ 16 % 2 ^ 15), next), s)

/-- Vetiver may hand out n bytes of frames of a tier at an address: page frames, installed, outside the range of R340, and
already wiped (R340, R361, R362). -/
def State.framesOk (s : State) (frame n : Nat) (tier : Nat) (align : Nat) : Bool :=
  let last := frame + n - 1
  frame % align = 0 && tierOf frame = some tier && areaOf last = areaOf frame && s.installed frame && s.installed last
    && (last < deviceBase || deviceBase + deviceBytes ≤ frame)
    && (List.range (n / 0x200000 + 2)).all (fun i => !s.unwiped (min (frame + i * 0x200000) last))

/-- A tier with installed capacity (R441). -/
def State.tierThere (s : State) (tier : Nat) : Bool := tier < 3 && 0 < s.tierBytes tier

/-- ATS invalidations sent to every function that the TA gave a translation of the range (R356, R441). -/
def State.invalRange (s : State) (pasid va n : Nat) (call : Option Nat) : State :=
  s.funcs.all.foldl (fun (s : State) (e : Nat × Func) =>
    if e.2.given.any (fun g => g.1 = pasid && va / pageBytes ≤ g.2 && g.2 < va / pageBytes + n) then
      s.sendInval e.1 (.atsInv none e.1 call) 0 0 (BitVec.ofNat 64 va) pasid n false
    else s) s

/-- An ATS invalidation of a call, or of the device itself, has not completed. -/
def State.invalOpen (s : State) (call : Option Nat) : Bool :=
  s.reqs.all.any (fun e => match e.2.kind with | .atsInv none _ c => c = call | _ => false)

-- The TME (R356, R357) ------------------------------------------------------------------------------------------------

/-- The migrations whose invalidations have completed end: held writes are performed on the new frames, and the old frames
are cleared (R356 step 6). -/
def State.endMigrations (s : State) : State :=
  if s.invalOpen none then s
  else
    let ms := s.migrations
    ms.foldl (fun (s : State) m =>
      let s := m.held.foldl (fun (s : State) w => s.memStore w.pa w.data w.bad) s
      s.clearFrames (s.hubFor m.pasid) m.pasid (BitVec.ofNat 64 m.va) m.old (m.units * pageBytes)) { s with migrations := [] }

/-- What the TME moves as one unit: the first page, its first frame and its length; none for a page that it never moves
(R356). -/
def State.moveUnit (s : State) (hub pasid va : Nat) : Option (Nat × Nat × Nat × Word) :=
  match s.walk hub pasid va with
  | .fault _ => none
  | .leaf e _ size _ =>
    if !pteP e ∨ size ≠ 1 ∨ 2 ≤ pteType e then none
    else
      let u := if pteC e then 32 else 1
      some (va - va % (u * pageBytes), pteFrame e - pteFrame e % (u * pageBytes), u, e)

/-- The translations of frames that the TA gave out, whatever the PASID and the address (R356): function, PASID and page. -/
def State.givenOver (s : State) (old n : Nat) : List (Nat × Nat × Nat) :=
  s.funcs.all.flatMap (fun (e : Nat × Func) => (e.2.given.filter (fun g =>
    match s.walk (fnSub e.1 / 8 / 6) g.1 (g.2 * pageBytes) with
    | .leaf l _ size table =>
        let pa := (entryOf g.1 (g.2 * pageBytes) l size table).pa (g.2 * pageBytes)
        pteP l && old ≤ pa && pa < old + n
    | .fault _ => false)).map (fun g => (e.1, g.1, g.2)))

/-- Every cached translation of frames dropped, whatever its PASID (R356). -/
def State.tlbDropFrames (s : State) (old n : Nat) : State :=
  s.tlbDrop (fun e => !(pteFrame e.pte < old + n && old < pteFrame e.pte + e.size * pageBytes))

/-- A page or run moved to new frames (R356). -/
def State.tmeMove (s : State) (hub pasid va old units frame tier : Nat) : State :=
  let n := units * pageBytes
  let given := s.givenOver old n
  let s := s.flushAll old n
  let s := if s.poison.any (fun e => old ≤ e.1 && e.1 < old + n) then s.logEvent hub 0x07A pasid (BitVec.ofNat 64 va) else s
  let s := s.copyRange old frame n
  let s := (List.range units).foldl (fun (s : State) i =>
    s.setLeaf hub pasid (va + i * pageBytes) (fun e => pteWithTier (pteWithFrame e (frame + i * pageBytes)) tier)) s
  let s := ((s.tlbDropFrames old n).handOverPage old frame n).moveGrants old frame units
  let s := given.foldl (fun (s : State) g => s.sendInval g.1 (.atsInv none g.1 none) 0 0 (BitVec.ofNat 64 (g.2.2 * pageBytes)) g.2.1 1 false) s
  ({ s with migrations := s.migrations ++ [{ pasid := pasid, va := va, frame := frame, old := old, units := units }] } : State).endMigrations

/-- A unit may move now: no write to it or to its new frames is held at a home. -/
def State.movable (s : State) (old units frame tier : Nat) : Bool :=
  let n := units * pageBytes
  s.framesOk frame n tier n && (frame + n ≤ old || old + n ≤ frame)
    && !(s.migrations.any (fun m => m.covers old || m.old ≤ old && old < m.old + m.units * pageBytes))
    && !(s.wipeHeld.any (fun w => old ≤ w.pa && w.pa < old + n))

/-- A launch that waits for admission asks for the page in HBM4E (R351, R383). -/
def State.wssWants (s : State) (pasid va : Nat) : Bool :=
  s.launches.all.any (fun e => e.2.pasid = pasid && e.2.step = .admission &&
    e.2.ranges.any (fun r => r.hbm && (r.pages (gridTeams e.2.grid)).contains (va / pageBytes)))

/-- TME_MIGRATION (R356, R357): a page moves to frames that the requester chose. A leased page moves only for the WSS
(R351). -/
def execTmeMigration (pasid va frame tier : Nat) (s : State) : Out :=
  .next (
    let hub := s.hubFor pasid
    match s.moveUnit hub pasid va with
    | none => s
    | some (va, old, units, e) =>
      if (bit e 4 && !(tier = 0 && s.wssWants pasid va)) || !s.movable old units frame tier then s
      else s.tmeMove hub pasid va old units frame tier)

-- Clearing (R361, R362) --------------------------------------------------------------------------------------------------

/-- A present leaf names the frame (R362). -/
def State.frameNamed (s : State) (pa : Nat) : Bool :=
  [0, 1].any (fun h => (s.pasidsOf h).any (fun p => (s.leavesOf h p).any (fun l => pteType l.e ≠ 2 && l.holds pa)))

/-- PAGE_CLEAR (R362): one page of memory, which no present leaf names, becomes zero. -/
def execPageClear (pa : Nat) (s : State) : Out :=
  .next (
    let page := alignDown pa pageBytes
    if (tierOf pa).isSome ∧ s.installed pa ∧ !s.frameNamed page then s.clearFrames 0 0 (BitVec.ofNat 64 page) page pageBytes else s)

/-- A region of a CXL window cleared: with every region of a sub-link's capacity done, its device is sent the Sanitize command (R361).
DESIGN CHOICE (log 121). -/
def State.sanitize (s : State) (pa : Nat) : State :=
  match areaOf pa with
  | .cxl port =>
      let k := s.windowSub port (cxlBase pa) 0x20000000000 pa
      let u := s.sub k
      let first := s.cxlStart k / 0x200000
      if u.sanitized ∨ u.cxlBytes = 0 ∨ (List.range ((u.cxlBytes + 0x1FFFFF) / 0x200000)).any (fun i => !Cells.get false s.wiped (first + i)) then s
      else { s with subs := s.subs.put k { u with sanitized := true } }.send { sub := k, addr := s.cxlStart k, cfg := true }
  | _ => s

/-- WIPE_REGION_CLEAR (R361): a 2 MiB region of LPDDR-6 or CXL is cleared, its bit of the wipe map falls, and the writes held
for it are performed. -/
def execWipeRegionClear (region : Nat) (s : State) : Out :=
  .next (
    let pa := region * 0x200000
    if !s.unwiped pa then s
    else
      let mine (w : HeldWrite) : Bool := w.pa / 0x200000 = region
      let held := s.wipeHeld.filter mine
      let s : State := { s with wipeHeld := s.wipeHeld.filter (fun w => !mine w), wiped := Cells.set false s.wiped region true }
      let s := s.clearFrames 0 0 (BitVec.ofNat 64 pa) pa 0x200000
      (held.foldl (fun (s : State) w => s.memStore w.pa w.data w.bad) s).sanitize pa)

-- Absent pages (R353, R383, R441, R455) ---------------------------------------------------------------------------------------

/-- Where the page service keeps the bytes of a page that PAGEOUT saved. -/
def backingAt (pasid page : Nat) : Nat := 2 ^ 60 + (pasid * 2 ^ 40 + page) * pageBytes

/-- What the page service finds for a page. -/
inductive Bring
  | done                          -- present
  | bad (c : Code)
  | wait                          -- the frames offered do not fit
deriving DecidableEq, Repr

/-- The frame of a page filled from the page's backing, or with zeros (R353, R355). -/
def State.fillFrame (s : State) (hub pasid va frame : Nat) : State :=
  let k := pasid * 2 ^ 40 + va / pageBytes
  if !Cells.get false s.backing k then s.clearFrames hub pasid (BitVec.ofNat 64 va) frame pageBytes
  else
    let b := backingAt pasid (va / pageBytes)
    let s := if s.poison.any (fun e => b ≤ e.1 && e.1 < b + pageBytes) then s.logEvent hub 0x07A pasid (BitVec.ofNat 64 va) else s
    let s := (s.copyRange b frame pageBytes).zeroRange b pageBytes
    { s with backing := Cells.set false s.backing k false }.handOverPage b frame pageBytes

/-- The page of an address made present in frames of its tier, filled from its backing or with zeros; under an I/O lease
it becomes IOPIN (R353, R455, R458). -/
def State.bringPage (s : State) (hub pasid va frame : Nat) (tier : Option Nat) : Bring × State :=
  match s.walk hub pasid va with
  | .fault c => (.bad c, s)
  | .leaf e _ size _ =>
    if pteP e then (.done, s)
    else if pteType e = 2 then (.bad 0x041, s)
    else
      let t := tier.getD (pteTier e)
      let u := if size = 1 ∧ pteC e then 32 else size
      let va0 := va - va % (u * pageBytes)
      if !s.framesOk frame (u * pageBytes) t (u * pageBytes) then (.wait, s)
      else
        let s := (List.range u).foldl (fun (s : State) i => s.fillFrame hub pasid (va0 + i * pageBytes) (frame + i * pageBytes)) s
        (.done, (List.range (u / size)).foldl (fun (s : State) i =>
          let v := va0 + i * pageBytes
          s.setLeaf hub pasid v (fun e =>
            let e := pteWithBit (pteWithTier (pteWithFrame e (frame + i * pageBytes)) t) 8 true
            if pteType e = 0 ∧ !(s.ioLeasesOf pasid v).isEmpty then pteWithType e 3 else e)) s)

/-- The wait is for a given 64 KiB page. -/
def WaitFor.awaits (w : WaitFor) (page : Nat) : Bool :=
  match w with
  | .page va => va / pageBytes = page
  | _ => false

/-- A fragment whose page has come (R353): on a core it goes on, or waits for the end of its team's fault park; a saved one has its team
queued for relaunch. -/
def State.pageFor (s : State) (t : Nat) (x : Team) (f : Nat) : State :=
  let c : Cur := ⟨f / 64, f % 64⟩
  if !x.onCore then (s.updFrag c (fun q => { q with st := .pending, why := .none })).requeue t
  else if x.parkNow ∧ x.run ≠ .preempting then s.updFrag c (fun q => { q with why := .pageHere })
  else s.wakes c

/-- The copies and fragments that waited for a page go on (R301, R353). -/
def State.pageCame (s : State) (pasid va : Nat) : State :=
  let page := va / pageBytes
  let ids := (s.copies.all.filter (fun e => e.2.stalled && e.2.pasid = pasid && e.2.faultVa / pageBytes = page)).map (fun (e : Nat × Copy) => (e.1, e.2.die))
  let here := fun (t : Nat) => (s.teams.find t).any (·.onCore)
  let s := ids.foldl (fun (s : State) (e : Nat × Nat) =>
    let on := ((s.copies.find e.1).any (fun c => here c.team))
    { s with copies := s.copies.upd e.1 (fun c => { c with stalled := false })
             copyQueue := if on then s.copyQueue.put e.2 (e.1 :: (s.copyQueue.find e.2).getD []) else s.copyQueue }) s
  (s.teams.all.filter (fun e => e.2.pasid = pasid)).foldl (fun (s : State) (e : Nat × Team) =>
    (s.teamFrags e.1).foldl (fun (s : State) (f : Nat × Frag) => if f.2.why.awaits page then s.pageFor e.1 e.2 f.1 else s) s) s

/-- A page that cannot be brought ends the launches that wait for it (R353, R383). -/
def State.pageLost (s : State) (c : Call) (code : Code) : State :=
  match c.launch with
  | some l => s.launchFault l 0x054 0
  | none =>
    let page := c.block.toNat / pageBytes
    match s.teams.find c.team with
    | none => s
    | some x =>
      let f : Fail := { code := if code = 0x040 then 0x041 else code, va := some c.block }
      let pc := (((s.teamFrags c.team).find? (fun e => e.2.why.awaits page)).map (fun (e : Nat × Frag) => e.2.pc)).orElse (fun _ =>
        ((s.copies.all.find? (fun e => e.2.team = c.team && e.2.stalled && e.2.faultVa / pageBytes = page)).map (fun (e : Nat × Copy) => e.2.pc)))
      let s := s.logEntry (hubOfCore x.core) { code := f.code, lin := x.lin, pasid := x.pasid, ctx := x.ctx, queue := x.queue % 4096
                                               packet := x.packet, pc := pc.getD 0, va := c.block, lend := true }
      (s.failLaunch x.launch f.code (pc.getD 0)).queueFault x.queue

/-- The arguments VA and bytes of a memory service (R441). -/
def rangeArgs (c : Call) : Bool :=
  let va := (c.arg 1).toNat
  let n := (c.arg 2).toNat
  va % pageBytes = 0 && n % pageBytes = 0 && pageBytes ≤ n && n ≤ 2 ^ 40 && va + n ≤ 2 ^ 56

/-- A memory service with its PASID and range checked: the PASID, the first address and the pages (R441). -/
def State.rangeService (s : State) (num id : Nat) (h : State → Call → Nat → Nat → Nat → State) : Out :=
  s.service num id (fun s c =>
    if s.pasidBad c.hub (c.arg 0) ∨ !rangeArgs c then s.endCall id c 0x13A
    else h s c (c.arg 0).toNat (c.arg 1).toNat ((c.arg 2).toNat / pageBytes))

/-- PAGEREQ's work on a range: pages are brought in order from the frames offered, as far as they fit; `step` is the next
page. -/
def State.bringRange (s : State) (id : Nat) (c : Call) (pasid va n frame : Nat) : Nat → State
  | 0 => s
  | fuel + 1 =>
      if n ≤ c.step then s.endCall id c 0 n
      else
        let v := va + c.step * pageBytes
        match s.bringPage c.hub pasid v frame none with
        | (.bad _, s) => s.endCall id c 0x13D
        | (.wait, s) => { s with calls := s.calls.put id c }
        | (.done, s) =>
          let used := match s.walk c.hub pasid v with
            | .leaf e _ size _ =>
                let u := if size = 1 ∧ pteC e then 32 else size
                if pteFrame e - pteFrame e % (u * pageBytes) = frame then u else 0
            | .fault _ => 0
          State.bringRange (s.pageCame pasid v) id { c with step := c.step + 1 } pasid va n (frame + used * pageBytes) fuel

/-- PAGEREQ (R353, R440, R441, R455): as a service call, or as the page service's own work for one page. -/
def execPagereq (call frame : Nat) (s : State) : Out :=
  match s.calls.find call with
  | some c =>
    if c.num = faultCall then
      .next (
        let s' : State := { s with calls := s.calls.del call }
        match s.bringPage c.hub c.pasid c.block.toNat frame c.tier with
        | (.wait, _) => s
        | (.done, s) => ({ s with calls := s.calls.del call } : State).pageCame c.pasid c.block.toNat
        | (.bad k, _) => s'.pageLost c k)
    else s.rangeService 7 call (fun s c pasid va n => s.bringRange call c pasid va n frame (n + 1))
  | none => .next s

-- The paging services (R441, R458) -----------------------------------------------------------------------------------------------

/-- A 2 MiB run that a service changes in part becomes 64 KiB pages first: its leaves lose C, so that no walk of the others builds a
translation of the whole run (R345). DESIGN CHOICE (log 106). -/
def State.splitRuns (s : State) (hub pasid va n : Nat) : State :=
  [va, va + (n - 1) * pageBytes].foldl (fun (s : State) a =>
    let r := alignDown a 0x200000
    if va ≤ r ∧ r + 0x200000 ≤ va + n * pageBytes then s
    else (List.range 32).foldl (fun (s : State) i =>
      match s.slotOf hub pasid (r + i * pageBytes) with
      | some (t, 1) =>
          let e := s.memWord t
          if pteV e && pteC e then s.homeWrite t (leBytes 8 (pteWithBit e 6 false).toNat) else s
      | _ => s) s) s

/-- MIGRATE and PAGEOUT pass over this page (R441). -/
def State.skipped (s : State) (hub pasid va : Nat) : Bool :=
  match s.moveUnit hub pasid va with
  | none => true
  | some (_, _, _, e) => bit e 4

/-- One page or run saved to the backing, its leaves with P = 0 (R441). DESIGN CHOICE (log 68). -/
def State.pageOut (s : State) (hub pasid va : Nat) : Nat × State :=
  match s.moveUnit hub pasid va with
  | none => (0, s)
  | some (va, old, units, _) =>
    let n := units * pageBytes
    let b := backingAt pasid (va / pageBytes)
    let s := (s.flushAll old n).copyRange old b n
    let s := (List.range units).foldl (fun (s : State) i =>
      let v := va + i * pageBytes
      { s.setLeaf hub pasid v (fun e => pteWithBit (pteWithFrame e 0) 8 false) with
        backing := Cells.set false s.backing (pasid * 2 ^ 40 + v / pageBytes) true }) s
    (units, ((s.tlbDropRange pasid va units).handOverPage old b n).clearFrames hub pasid (BitVec.ofNat 64 va) old n)

/-- PAGEOUT (R441). DESIGN CHOICE (log 68). -/
def execPageout (call : Nat) (s : State) : Out :=
  s.rangeService 8 call (fun s c pasid va n =>
    if s.migrating pasid va n then s
    else
      let s := s.splitRuns c.hub pasid va n
      let (k, s) := (List.range n).foldl (fun (r : Nat × State) i =>
        let v := va + i * pageBytes
        if r.2.skipped c.hub pasid v then r
        else let (u, s) := r.2.pageOut c.hub pasid v; (r.1 + u, s)) (0, s)
      s.endCall call c 0 k)

/-- A PTE template that MAP refuses (R441, R342). -/
def State.templateBad (s : State) (t : Word) (n : Nat) : Bool :=
  let type := pteType t
  bits t 63 61 ≠ 0 || bits t 15 10 ≠ 0 || pteTier t = 3 || !pteV t || type = 3 || pteBlk t || pteC t || bit t 5 || bit t 4
    || (type ≠ 2 && pteFrame t ≠ 0) || (type ≠ 2 && pteP t && !s.tierThere (pteTier t))
    || (type = 2 && (!pteP t || (match areaOf (pteFrame t), areaOf (pteFrame t + n * pageBytes - 1) with
        | .mmio a, .mmio b => a ≠ b | _, _ => true)))

/-- Page i of n of a mapping starts or continues a 2 MiB run (R441). -/
def inRun (va fr n i : Nat) : Bool :=
  let first := i - (va / pageBytes + i) % 32
  (va / pageBytes + i) % 32 ≤ i && first + 32 ≤ n && (fr / pageBytes + first) % 32 = 0

/-- MAP (R441): the leaves are written from the template; pages that it makes present are zero. Frames for pages, and then
for tables, are those offered. DESIGN CHOICE (log 67). -/
def execMap (call frame : Nat) (s : State) : Out :=
  s.rangeService 9 call (fun s c pasid va n =>
    let t := c.arg 3
    let mmio := pteType t = 2
    let fr := if mmio then pteFrame t else frame
    let real := pteP t && !mmio
    let tables := if real then roundUp (frame + n * pageBytes) 0x40000 else roundUp frame 0x40000
    let room := 0x40000 * (2 + n / 0x8000 + 2)
    let pages := List.range n
    if s.templateBad t n ∨ dirRoot (s.dirEntry c.hub pasid) = 0
        ∨ pages.any (fun i => (s.slotOf c.hub pasid (va + i * pageBytes)).any (fun a => pteV (s.memWord a.1))) then s.endCall call c 0x13A
    else if (real && !s.framesOk frame (n * pageBytes) (pteTier t) pageBytes)
        || !(s.framesOk tables room 0 pageBytes || s.framesOk tables room 1 pageBytes) then s
    else
      let s := if real then s.clearFrames c.hub pasid (BitVec.ofNat 64 va) frame (n * pageBytes) else s
      let (_, s) := pages.foldl (fun (r : Nat × State) i =>
        let ((a, next), s) := r.2.makeSlot c.hub pasid (va + i * pageBytes) r.1
        let e := if pteP t then pteWithBit (pteWithFrame t (fr + i * pageBytes)) 6 (inRun va fr n i) else t
        let e := if pteP e ∧ pteType e = 0 ∧ !(s.ioLeasesOf pasid (va + i * pageBytes)).isEmpty then pteWithType e 3 else e
        (next, s.homeWrite a (leBytes 8 e.toNat))) (tables, s)
      (s.tlbDropRange pasid va n).endCall call c 0 n)

/-- Some page of the range is under an I/O lease. -/
def State.leasedAny (s : State) (pasid va n : Nat) : Bool :=
  s.ioLeases.all.any (fun e => e.2.pasid = pasid && e.2.va < va + n * pageBytes && va < e.2.va + e.2.bytes)

/-- A service whose ATS invalidations have been sent ends when they have completed. -/
def State.afterInval (s : State) (id : Nat) (c : Call) (result : Nat) : State :=
  if s.invalOpen (some id) then { s with calls := s.calls.put id { c with step := 1 } } else s.endCall id c 0 result

/-- UNMAP (R441); it waits for the release of I/O leases over the range (R458). DEDUCED (log 69). DESIGN CHOICE (log 106). -/
def execUnmap (call : Nat) (s : State) : Out :=
  s.rangeService 10 call (fun s c pasid va n =>
    if c.step = 1 then s.afterInval call c 0
    else if s.leasedAny pasid va n ∨ s.migrating pasid va n then s
    else
      let s := s.splitRuns c.hub pasid va n
      let s := (List.range n).foldl (fun (s : State) i =>
        let v := va + i * pageBytes
        match s.slotOf c.hub pasid v with
        | none => s
        | some (a, size) =>
          let e := s.memWord a
          let s := if pteV e && pteP e && pteType e ≠ 2 then s.flushAll (pteFrame e) (size * pageBytes) else s
          { s.homeWrite a (leBytes 8 0) with backing := Cells.set false s.backing (pasid * 2 ^ 40 + v / pageBytes) false }) s
      ((s.tlbDropRange pasid va n).invalRange pasid va n (some call)).afterInval call c 0)

/-- PROTECT (R441): X, W and R of the valid leaves of a range. -/
def execProtect (call : Nat) (s : State) : Out :=
  s.rangeService 11 call (fun s c pasid va n =>
    let r := c.arg 3
    if c.step = 1 then s.afterInval call c 0
    else if (r &&& 14) ≠ r then s.endCall call c 0x13A
    else
      let s := s.splitRuns c.hub pasid va n
      let s := (List.range n).foldl (fun (s : State) i =>
        match s.slotOf c.hub pasid (va + i * pageBytes) with
        | none => s
        | some (a, _) =>
          let e := s.memWord a
          if pteV e then s.homeWrite a (leBytes 8 ((e &&& ~~~(14 : Word)) ||| r).toNat) else s) s
      ((s.tlbDropRange pasid va n).invalRange pasid va n (some call)).afterInval call c 0)

/-- Units of a range moved one after another into frames from `frame` upwards: the pages moved; none when some frames do not
fit (R441). DEDUCED (log 70). -/
def State.migrateRange (s : State) (hub pasid va tier : Nat) (frame count : Nat) : List Nat → Option (Nat × State)
  | [] => some (count, s)
  | i :: l =>
      let v := va + i * pageBytes
      match s.moveUnit hub pasid v with
      | none => State.migrateRange s hub pasid va tier frame count l
      | some (va0, old, units, e) =>
        if bit e 4 ∨ (va0 < v ∧ va ≤ va0) then State.migrateRange s hub pasid va tier frame count l
        else
          let fr := roundUp frame (units * pageBytes)
          if !s.movable old units fr tier then none
          else State.migrateRange (s.tmeMove hub pasid va0 old units fr tier) hub pasid va tier (fr + units * pageBytes) (count + units) l

/-- MIGRATE (R441). DEDUCED (log 70). -/
def execMigrate (call frame : Nat) (s : State) : Out :=
  s.rangeService 12 call (fun s c pasid va n =>
    let tier := (c.arg 3).toNat
    if c.step ≠ 0 then (if s.migrating pasid va n then s else s.endCall call c 0 (c.step - 1))
    else if !s.tierThere tier then s.endCall call c 0x13A
    else match s.migrateRange c.hub pasid va tier frame 0 (List.range n) with
      | none => s
      | some (k, s) =>
        if s.migrating pasid va n then { s with calls := s.calls.put call { c with step := k + 1 } } else s.endCall call c 0 k)

/-- HARVEST (R359, R441): as PGHARV without .clr, into a buffer of the caller. DEDUCED (log 66). -/
def execHarvest (call : Nat) (s : State) : Out :=
  s.service 13 call (fun s c =>
    let va := (c.arg 1).toNat
    let n := (c.arg 2).toNat
    let buf := (c.arg 3).toNat
    if s.pasidBad c.hub (c.arg 0) ∨ va % pageBytes ≠ 0 ∨ 2 ^ 56 ≤ va ∨ n < 1 ∨ 2 ^ 24 < n ∨ buf % 8 ≠ 0 then s.endCall call c 0x13A
    else if s.migrating (c.arg 0).toNat va n then s
    else match s.harvest { place := .hub c.hub, pasid := c.pasid } c.hub (c.arg 0).toNat va buf false n 0 0 (n / 8 + 1) with
      | (.error _, s) => s.endCall call c 0x13A
      | (.ok k, s) => s.endCall call c 0 k)

/-- I/O leases that cover a page. -/
def State.leaseCount (s : State) (pasid va : Nat) : Nat := (s.ioLeasesOf pasid va).length

/-- IOLEASE (R458, R441): a numbered lease; the present NORMAL pages of its range become IOPIN. DEDUCED (log 69). -/
def execIolease (call : Nat) (s : State) : Out :=
  s.rangeService 15 call (fun s c pasid va n =>
    let pages := List.range n
    if 2 < (c.arg 3).toNat then s.endCall call c 0x13A
    else if pages.any (fun i => 65535 ≤ s.leaseCount pasid (va + i * pageBytes)) then s.endCall call c 0x055
    else if s.migrating pasid va n then s
    else
      let k := max 1 s.ioLeases.fresh
      let s := s.splitRuns c.hub pasid va n
      let s : State := { s with ioLeases := s.ioLeases.put k { pasid := pasid, va := va, bytes := n * pageBytes, dir := (c.arg 3).toNat } }
      let s := pages.foldl (fun (s : State) i =>
        s.setLeaf c.hub pasid (va + i * pageBytes) (fun e => if pteP e ∧ pteType e = 0 then pteWithType e 3 else e)) s
      (s.tlbDropRange pasid va n).endCall call c 0 k)

/-- IORELEASE (R458): ATSINV over the range, and then its pages, as far as no other lease covers them, are NORMAL again. -/
def execIorelease (call : Nat) (s : State) : Out :=
  s.service 16 call (fun s c =>
    let k := (c.arg 0).toNat
    match s.ioLeases.find k with
    | none => s.endCall call c 0x13A
    | some l =>
      let n := l.bytes / pageBytes
      let s := if c.step = 1 then s else s.invalRange l.pasid l.va n (some call)
      if s.invalOpen (some call) then { s with calls := s.calls.put call { c with step := 1, begun := if c.step = 1 then c.begun else some s.clock } }
      else
        let s : State := { s with ioLeases := s.ioLeases.del k }
        let s := (List.range n).foldl (fun (s : State) i =>
          let v := l.va + i * pageBytes
          if s.leaseCount l.pasid v = 0 then s.setLeaf c.hub l.pasid v (fun e => if pteType e = 3 then pteWithType e 0 else e) else s) s
        (s.tlbDropRange l.pasid l.va n).endCall call c 0)

end Sys2Proof.Machine
end

