-- ==== Sys2Proof/Machine/Links.lean ====
section
/-! DEFINITION. The services of endpoints, links, peers, CXL memory and firmware (R436, R437, R442 to R444, R457, R460 to R464,
R479, R482). What an endpoint or peer answers comes with the step. -/

namespace Sys2Proof.Machine

-- Drivers (R436, R437) ------------------------------------------------------------------------------------------------

/-- A driver's command goes to a function, and waits there for its answer; the words of its record are kept after the arguments. -/
def State.sendDriver (s : State) (id : Nat) (c : Call) (fn kind : Nat) (w : List Word) : State :=
  let s := s.send { sub := fnSub fn, addr := fn, data := some (leBytes 8 c.block.toNat), size := 8 }
  { s with
    reqs := s.reqs.put s.nextId { kind := .driver fn kind (some id), sub := fnSub fn, addr := fn, since := s.clock, team := c.team, pc := 0
                                  va := c.block }
    nextId := s.nextId + 1
    calls := s.calls.put id { c with step := 1, args := (List.range 5).map c.arg ++ w } }

/-- The command of a call is outstanding. -/
def State.driverOpen (s : State) (id : Nat) : Bool :=
  s.reqs.all.any (fun e => match e.2.kind with | .driver _ _ k => k = some id | _ => false)

/-- The command of a call is no longer outstanding. -/
def State.driverDone (s : State) (id : Nat) : State :=
  { s with reqs := s.reqs.filter (fun e => !(e.2.any (fun r => match r.kind with | .driver _ _ k => k = some id | _ => false))) }

/-- A word of the record that a driver's command was sent with. -/
def Call.rec' (c : Call) (i : Nat) : Word := c.arg (5 + i)

/-- A driver's service (R437): `check` refuses it, or reads its record, and its command is sent; a later step brings the answer, which `fin`
takes up unless it is a failure. -/
def State.driven (s : State) (num id kind : Nat) (ans : Answer) (check : State → Call → Func → Except Code (List Word) × State)
    (fin : State → Call → Nat → State) : Out :=
  s.service num id (fun s c =>
    let fn := (c.arg 0).toNat
    match s.funcs.find fn with
    | none => s.endCall id c 0x13A
    | some f =>
      if c.step = 1 then
        if !s.driverOpen id then s
        else
          let s := s.driverDone id
          if ans.status ≠ 0 then s.endCall id c ans.status ans.result.toNat else fin s c fn
      else match check s c f with
        | (.error k, s) => s.endCall id c k
        | (.ok w, s) => if f.state ≠ 1 then s.endCall id c 0x13D else s.sendDriver id c fn kind w)

/-- Bytes of an answer. -/
def ansWord (a : Answer) (o n : Nat) : Nat := leNat ((a.data.drop o).take n)

def State.updFunc (s : State) (fn : Nat) (h : Func → Func) : State := { s with funcs := s.funcs.upd fn h }

/-- The doorbell page that Vetiver maps into a PASID: the 64 KiB page of BAR 0 that holds the doorbells (R443, R444). DESIGN CHOICE (log 72). -/
def State.mapDoorbell (s : State) (hub pasid fn va : Nat) : State :=
  match s.slotOf hub pasid va, s.funcs.find fn with
  | some (a, 1), some f =>
      let fr := alignDown ((f.bars.headD (0, 0)).1) pageBytes + pageBytes * (va / pageBytes % 2)
      s.homeWrite a (leBytes 8 (fr + 2 * 2 ^ 57 + 2 ^ 8 + 7))
  | _, _ => s

/-- A queue of a function deleted, with its doorbell pages (R443, R444). -/
def State.dropEpQueue (s : State) (hub fn : Nat) (q : EpQueue) : State :=
  let s := q.dbs.foldl (fun (s : State) va => s.unmapDoorbell hub q.pasid va) s
  s.updFunc fn (fun f => { f with queues := f.queues.erase q })

/-- The context that runs under a PASID. -/
def State.ctxOf (s : State) (pasid : Nat) : Nat := ((s.ctxs.all.find? (fun e => e.2.pasid = pasid && !e.2.killed)).map (fun (e : Nat × Ctx) => e.1)).getD (2 ^ 16)

/-- A queue region wholly inside I/O leases of a PASID whose direction allows the endpoint to read, or to write (R443,
R444). -/
def State.leasedFor (s : State) (pasid va n : Nat) (write : Bool) : Bool :=
  (List.range ((va + n - 1) / pageBytes + 1 - va / pageBytes)).all (fun i =>
    (s.ioLeasesOf pasid ((va / pageBytes + i) * pageBytes)).any (fun l => l.dir = 2 || l.dir = (if write then 1 else 0)))

-- NVMe (R443) ------------------------------------------------------------------------------------------------------------

/-- NVMEADMIN (R443): an admin command; the queue commands among them are refused. -/
def execNvmeadmin (call : Nat) (ans : Answer) (s : State) : Out :=
  s.driven 21 call 0x134 ans
    (fun s c _ =>
      if (c.arg 1).toNat % 64 ≠ 0 then (.error 0x13A, s)
      else match s.svcRead c (c.arg 1).toNat 10 with
        | (.error k, s) => (.error k, s)
        | (.ok w, s) =>
          if [0, 1, 4, 5].contains (bits (w.headD 0) 7 0) then (.error 0x13A, s)
          else match s.svcCheck { place := .hub c.hub, pasid := c.pasid } (c.arg 1).toNat 10 with
            | (.error _, s) => (.error 0x13A, s)
            | (.ok _, s) => (.ok w, s))
    (fun s c _ =>
      match s.svcWrite c ((c.arg 1).toNat + 64) (ans.data.take 16 ++ List.replicate (16 - ans.data.length) 0) with
      | (false, s) => s.endCall call c 0x13A
      | (true, s) => s.endCall call c (if ansWord ans 14 2 / 2 ≠ 0 then 0x13D else 0) (ansWord ans 0 4))

/-- NVMEQPAIR (R443): the pair's parameters are checked; the answer gives its identifier and the doorbells' addresses. -/
def execNvmeqpair (call : Nat) (ans : Answer) (s : State) : Out :=
  s.driven 22 call 0x134 ans
    (fun s c _ =>
      if (c.arg 1).toNat % 64 ≠ 0 then (.error 0x13A, s)
      else match s.svcRead c (c.arg 1).toNat 8 with
        | (.error k, s) => (.error k, s)
        | (.ok w, s) =>
          let f (i : Nat) : Word := w.getD i 0
          let sqd := bits (f 2) 15 0
          let cqd := bits (f 2) 31 16
          let ok := (f 0).toNat % 4096 = 0 && (f 1).toNat % 4096 = 0 && sqd ≠ 0 && cqd ≠ 0 && bits (f 2) 55 48 = 1 && bits (f 2) 63 56 = 0
            && bits (f 3) 63 18 = 0 && f 6 = 0 && f 7 = 0
            && s.leasedFor c.pasid (f 0).toNat (64 * (sqd + 1)) false && s.leasedFor c.pasid (f 1).toNat (16 * (cqd + 1)) true
          if !ok then (.error 0x13A, s)
          else match s.svcCheck { place := .hub c.hub, pasid := c.pasid } (c.arg 1).toNat 8 with
            | (.error _, s) => (.error 0x13A, s)
            | (.ok _, s) => (.ok w, s))
    (fun s c fn =>
      let dbs := [ansWord ans 0 8, ansWord ans 8 8]
      let want := bits (c.rec' 2) 47 32
      let q : EpQueue := { id := if want = 0 then ans.result.toNat % 65536 else want, kind := 3, ctx := s.ctxOf c.pasid, pasid := c.pasid, dbs := dbs }
      match s.svcWrite c ((c.arg 1).toNat + 32) (dbs.flatMap (leBytes 8)) with
      | (false, s) => s.endCall call c 0x13A
      | (true, s) =>
        let s := dbs.foldl (fun (s : State) va => s.mapDoorbell c.hub c.pasid fn va) s
        (s.updFunc fn (fun f => { f with queues := f.queues ++ [q] })).endCall call c 0 q.id)

/-- NVMEQDEL (R443). -/
def execNvmeqdel (call : Nat) (ans : Answer) (s : State) : Out :=
  let find (f : Func) (c : Call) : Option EpQueue := f.queues.find? (fun q => q.kind = 3 && q.id = (c.arg 1).toNat)
  s.driven 23 call 0x134 ans
    (fun s c f => (if (find f c).isSome then .ok [] else .error 0x13A, s))
    (fun s c fn =>
      match (s.funcs.find fn).bind (fun f => find f c) with
      | some q => (s.dropEpQueue c.hub fn q).endCall call c 0
      | none => s.endCall call c 0)

-- NICs (R444) -----------------------------------------------------------------------------------------------------------------

/-- The words of NICQCREATE's record that are refused (R444). -/
def State.nicqBad (s : State) (c : Call) (fn : Func) (w : List Word) : Bool :=
  let f (i : Nat) : Word := w.getD i 0
  let kind := bits (f 0) 1 0
  let esz := bits (f 0) 15 8
  let cqn := bits (f 0) 47 32
  let depth := bits (f 2) 31 0
  kind = 3 || bits (f 0) 7 2 ≠ 0 || esz < 3 || 8 < esz || bits (f 0) 23 16 ≠ 1 || bits (f 0) 31 24 ≠ 0 || bits (f 0) 63 48 ≠ 0
    || (kind = 2 && cqn ≠ 0xFFFF) || (kind ≠ 2 && cqn ≠ 0xFFFF && !(fn.queues.any (fun q => q.kind = 2 && q.id = cqn)))
    || (f 1).toNat % 4096 ≠ 0 || bits (f 2) 63 32 ≠ 0 || depth < 64 || 65536 < depth || popcount (f 2) ≠ 1
    || bits (f 3) 63 18 ≠ 0 || (kind ≠ 2 && f 3 ≠ 0) || f 5 ≠ 0 || f 6 ≠ 0 || f 7 ≠ 0
    || !(s.leasedFor c.pasid (f 1).toNat (depth * 2 ^ esz) (kind ≠ 0))

/-- NICQCREATE (R444). -/
def execNicqcreate (call : Nat) (ans : Answer) (s : State) : Out :=
  s.driven 24 call 0x136 ans
    (fun s c f =>
      if (c.arg 1).toNat % 64 ≠ 0 then (.error 0x13A, s)
      else match s.svcRead c (c.arg 1).toNat 8 with
        | (.error k, s) => (.error k, s)
        | (.ok w, s) =>
          if s.nicqBad c f w then (.error 0x13A, s)
          else match s.svcCheck { place := .hub c.hub, pasid := c.pasid } (c.arg 1).toNat 8 with
            | (.error _, s) => (.error 0x13A, s)
            | (.ok _, s) => (.ok w, s))
    (fun s c fn =>
      let db := ansWord ans 0 8
      let h := c.rec' 0
      let q : EpQueue := { id := ans.result.toNat % 65536, kind := bits h 1 0, ctx := s.ctxOf c.pasid, pasid := c.pasid, cq := bits h 47 32
                           dbs := [db] }
      match s.svcWrite c ((c.arg 1).toNat + 32) (leBytes 8 db) with
      | (false, s) => s.endCall call c 0x13A
      | (true, s) =>
        ((s.mapDoorbell c.hub c.pasid fn db).updFunc fn (fun f => { f with queues := f.queues ++ [q] })).endCall call c 0 q.id)

/-- NICQDELETE (R444): a completion queue that a live queue names is refused. -/
def execNicqdelete (call : Nat) (ans : Answer) (s : State) : Out :=
  let find (f : Func) (c : Call) : Option EpQueue := f.queues.find? (fun q => q.kind < 3 && q.id = (c.arg 1).toNat)
  s.driven 25 call 0x136 ans
    (fun s c f =>
      (match find f c with
        | none => .error 0x13A
        | some q => if q.kind = 2 ∧ f.queues.any (fun x => x.kind < 2 && x.cq = q.id) then .error 0x13A else .ok [], s))
    (fun s c fn =>
      match (s.funcs.find fn).bind (fun f => find f c) with
      | some q => (s.dropEpQueue c.hub fn q).endCall call c 0
      | none => s.endCall call c 0)

/-- NICFILTER (R444). -/
def execNicfilter (call : Nat) (ans : Answer) (s : State) : Out :=
  s.driven 26 call 0x136 ans
    (fun s c f =>
      if (c.arg 1).toNat % 32 ≠ 0 then (.error 0x13A, s)
      else match s.svcRead c (c.arg 1).toNat 4 with
        | (.error k, s) => (.error k, s)
        | (.ok w, s) =>
          let x (i : Nat) : Word := w.getD i 0
          let m := bits (x 0) 2 0
          let fid := bits (x 0) 47 32
          let bad := 5 ≤ m || bits (x 0) 15 4 ≠ 0 || bits (x 0) 55 48 ≠ 1 || bits (x 0) 63 56 ≠ 0 || bits (x 1) 63 60 ≠ 0 || bits (x 2) 63 32 ≠ 0
            || x 3 ≠ 0 || ((m = 0 || fid ≠ 0xFFFF) && !f.filters.contains fid)
            || (m ≠ 0 && !bit (x 0) 3 && !(f.queues.any (fun q => q.kind = 1 && q.id = bits (x 0) 31 16)))
          (if bad then .error 0x13A else .ok w, s))
    (fun s c fn =>
      let h := c.rec' 0
      let fid := bits h 47 32
      if bits h 2 0 = 0 then (s.updFunc fn (fun f => { f with filters := f.filters.erase fid })).endCall call c 0 fid
      else
        let k := if fid = 0xFFFF then ans.result.toNat % 65536 else fid
        (s.updFunc fn (fun f => { f with filters := if f.filters.contains k then f.filters else f.filters ++ [k] })).endCall call c 0 k)

-- ATS (R456, R457) ----------------------------------------------------------------------------------------------------------------

/-- ATSCTL (R440, R457): ATS of a function enabled, which ends a refusal of its translated requests, or disabled. -/
def execAtsctl (call : Nat) (s : State) : Out :=
  s.service 27 call (fun s c =>
    let fn := (c.arg 0).toNat
    if (s.funcs.find fn).isNone ∨ 2 ≤ (c.arg 1).toNat then s.endCall call c 0x13A
    else (s.updFunc fn (fun f =>
      if c.arg 1 = 1 then { f with ats := true, refuse := false } else { f with ats := false, given := [] })).endCall call c 0)

/-- ATSINVAL (R440, R457): as ATSINV, with its four operands. -/
def execAtsinval (call : Nat) (s : State) : Out :=
  s.service 28 call (fun s c =>
    let fn := (c.arg 0).toNat
    let p := (c.arg 1).toNat
    let n := (c.arg 3).toNat
    if c.step = 1 then (if s.invalOpen (some call) then s else s.endCall call c 0)
    else if 2 ^ 23 ≤ fn ∨ p / 2 ^ 20 % 2 ^ 43 ≠ 0 ∨ (c.arg 2).toNat % pageBytes ≠ 0 ∨ n < 1 ∨ 2 ^ 24 < n then s.endCall call c 0x13A
    else if !((s.funcs.find fn).any (·.ats)) then s.endCall call c 0x117
    else
      let s := s.sendInval fn (.atsInv none fn (some call)) c.team 0 (c.arg 2) (p % 2 ^ 20) n false (2 ^ 63 ≤ p)
      { s with calls := s.calls.put call { c with step := 1 } })

-- Sub-links and peers (R442, R460 to R463) -------------------------------------------------------------------------------------------

/-- A sub-link argument: [3:0] port, [6:4] sub-link, every other bit zero (R442); its number in the model. -/
def State.subArg (s : State) (x : Word) : Option Nat :=
  let k := 8 * bits x 3 0 + bits x 6 4
  if x.toNat < 128 ∧ bits x 3 0 < 12 ∧ (s.subs.find k).isSome then some k else none

def State.updSub (s : State) (k : Nat) (h : Sub → Sub) : State := { s with subs := s.subs.upd k h }

/-- Two ranges overlap. -/
def overlap (a n b m : Nat) : Bool := a < b + m && b < a + n

/-- NTBWINDOW (R442). -/
def execNtbwindow (call : Nat) (s : State) : Out :=
  s.service 30 call (fun s c =>
    match s.subArg (c.arg 0) with
    | none => s.endCall call c 0x13A
    | some k =>
      let w := c.arg 1
      let inb := bit w 6
      let num := bits w 5 0
      if 128 ≤ w.toNat ∨ (c.arg 2).toNat % 32 ≠ 0 ∨ (s.sub k).mode ≠ 1 then s.endCall call c 0x13A
      else match s.svcRead c (c.arg 2).toNat 4 with
        | (.error e, s) => s.endCall call c e
        | (.ok r, s) =>
          let f (i : Nat) : Word := r.getD i 0
          let u := s.sub k
          let en := bit (f 0) 0
          let size := (f 2).toNat
          let off := (f 1).toNat
          let key := num + (if inb then 64 else 0)
          let limit := 0x10000000000 / (s.sub (8 * (k / 8))).parts
          let clash := u.wins.all.any (fun e => e.1 ≠ key && (e.2.inbound == inb) && overlap e.2.off e.2.size off size)
          if bits (f 0) 7 2 ≠ 0 ∨ bits (f 0) 15 8 ≠ 1 ∨ bits (f 0) 31 16 ≠ 0 ∨ bits (f 0) 63 52 ≠ 0 ∨ (inb ∧ bit (f 0) 1)
              ∨ (!inb ∧ bits (f 0) 51 32 ≠ 0) ∨ (en ∧ (off % pageBytes ≠ 0 ∨ size % pageBytes ≠ 0 ∨ size < pageBytes ∨ 2 ^ 40 < size
                ∨ limit < off + size ∨ (f 3).toNat % pageBytes ≠ 0 ∨ clash)) then s.endCall call c 0x13A
          else
            let win : NtbWin := { inbound := inb, ctr := bit (f 0) 1, pasid := bits (f 0) 51 32, off := off, size := size, tgt := (f 3).toNat }
            (s.updSub k (fun u => { u with wins := if en then u.wins.put key win else u.wins.del key })).endCall call c 0)

/-- PEERATTACH (R440, R460): the answer says whether authentication succeeded. -/
def execPeerattach (call : Nat) (ans : Answer) (s : State) : Out :=
  s.service 31 call (fun s c =>
    let p := (c.arg 1).toNat
    match s.subArg (c.arg 0) with
    | none => s.endCall call c 0x13A
    | some k =>
      if (s.sub k).mode ≠ 1 ∨ p = 0 ∨ 1023 < p ∨ (s.peers.find p).isSome then s.endCall call c 0x13A
      else if !(s.sub k).up then s.endCall call c 0x124
      else if ans.status ≠ 0 then s.endCall call c ans.status
      else (({ s with peers := s.peers.put p k } : State).updSub k (fun u => { u with peer := some p, session := u.session + 1 })).endCall call c 0)

/-- PEERDETACH (R440). -/
def execPeerdetach (call : Nat) (ans : Answer) (s : State) : Out :=
  s.service 32 call (fun s c =>
    let p := (c.arg 0).toNat
    match s.peers.find p with
    | none => s.endCall call c 0x13A
    | some k =>
      (({ s with peers := s.peers.del p } : State).updSub k (fun u => { u with peer := if u.peer = some p then none else u.peer })).endCall call c ans.status)

/-- IDEREFRESH (R461): the idle key set is programmed and the transmitters switch; the answer ends the refresh, or refuses it
(0x11E). -/
def execIderefresh (call : Nat) (ans : Answer) (s : State) : Out :=
  s.service 33 call (fun s c =>
    match s.subArg (c.arg 0) with
    | none => s.endCall call c 0x13A
    | some k =>
      let st := (c.arg 1).toNat
      match (s.sub k).streams.find st with
      | none => s.endCall call c 0x13A
      | some x =>
        let put (s : State) (x : Stream) : State := s.updSub k (fun u => { u with streams := u.streams.put st x })
        if c.step = 0 then
          if !x.keyed then s.endCall call c 0x13D
          else { put s { x with refreshing := some s.clock } with calls := s.calls.put call { c with step := 1 } }
        else
          let s := put s { x with refreshing := none }
          if ans.status = 0x11E then (s.logEvent (k / 8 / 6) 0x11E).endCall call c 0x11E else s.endCall call c ans.status)

/-- A function left unbound (R460). -/
def Func.unbind (f : Func) : Func := { f with state := 0, driver := 0xFF, master := false, ats := false, pri := false }

/-- SPDMMEASURE (R460): the measurements of a function; a failed one leaves it unbound. -/
def execSpdmmeasure (call : Nat) (ans : Answer) (s : State) : Out :=
  s.service 34 call (fun s c =>
    let fn := (c.arg 0).toNat
    if (s.funcs.find fn).isNone then s.endCall call c 0x13A
    else if ans.status ≠ 0 then
      let s := if [0x11B, 0x11C, 0x11F].contains ans.status.toNat then s.updFunc fn Func.unbind else s
      s.endCall call c ans.status
    else s.toBuffer call c (c.arg 1) (ans.data ++ List.replicate ((8 - ans.data.length % 8) % 8) 0) ans.data.length)

/-- CLOCKSYNC (R440). DEDUCED (log 74). -/
def execClocksync (call : Nat) (ans : Answer) (s : State) : Out :=
  s.service 46 call (fun s c =>
    if (s.peers.find (c.arg 0).toNat).isNone then s.endCall call c 0x13A else s.endCall call c ans.status ans.result.toNat)

-- Links that go down (R437, R463) ---------------------------------------------------------------------------------------------------------

/-- An error of a request of a fragment: raised in it, or logged with its TEAMLIN when its team has ended or stopped (R438). -/
def State.raiseOrLog (s : State) (c : Cur) (pc : Word) (code : Code) (va : Word) : State :=
  let live := (s.teams.find c.team).any (fun t => t.run ≠ .stopped && t.run ≠ .trapped && t.run ≠ .ended)
  if live ∧ (s.frags.find c.fid).isSome then s.raise c pc { code := code, va := some va } else s.logTeam c.team code pc va

/-- An outstanding request ends with an error (R437, R438, R463). -/
def State.failReq (s : State) (id : Nat) (r : Req) (code : Code) : State :=
  let s : State := { s with reqs := s.reqs.del id }
  match r.kind with
  | .iold g slot pid _ _ _ =>
      match s.pendOf g pid with
      | some p => (s.setPend g pid (fun q => q.map (fun q => { q with bad := some { code := code, va := some r.va } }))).badResult ⟨g, slot⟩ pid p
          { code := code, va := some r.va }
      | none => s.logTeam r.team code r.pc r.va
  | .cfgWrite g slot => s.raiseOrLog ⟨g, slot⟩ r.pc code r.va
  | .fetchAdd o =>
      match o.who, o.pend with
      | .frag f _, some pid =>
          let s := (s.setPend (f / 64) pid (fun _ => none)).wakeResults (f / 64)
          s.raiseOrLog ⟨f / 64, f % 64⟩ o.pc code o.va
      | .node g j, _ => s.graphFault g j code false
      | .token g tok id, _ => (s.logTeam o.team code o.pc o.va).copyGone g tok id
      | _, _ => s.logTeam o.team code o.pc o.va
  | .atsInv who fn call =>
      let s := s.updFunc fn (fun f => { f with refuse := f.refuse || code = 0x113 })
      match who, call with
      | some c, _ => s.raiseOrLog c r.pc code r.va
      | none, some k =>
          match s.calls.find k with
          | some c => if s.invalOpen (some k) then s else s.endCall k c code
          | none => s
      | none, none => (s.logEvent (fnSub fn / 8 / 6) code 0 r.va).endMigrations
  | .driver _ _ call =>
      match call.bind (fun k => (s.calls.find k).map (fun c => (k, c))) with
      | some (k, c) => s.endCall k c code
      | none => s

/-- Every outstanding request through a sub-link ends with an error. -/
def State.failSub (s : State) (k : Nat) (code : Req → Code) : State :=
  (s.reqs.all.filter (fun e => e.2.sub = k)).foldl (fun (s : State) (e : Nat × Req) => s.failReq e.1 e.2 (code e.2)) s

/-- A sub-link goes down: its requests complete with 0x10D, or 0x124 towards a peer, and its functions cannot be reached
(R437, R463). -/
def State.subDown (s : State) (k : Nat) : State :=
  let ntb := (s.sub k).mode = 1
  let s := s.updSub k (fun u => { u with up := false, wins := if ntb then u.wins.filter (fun e => !(e.2.any (·.inbound))) else u.wins })
  let s := s.failSub k (fun _ => if ntb then 0x124 else 0x10D)
  { s with funcs := s.funcs.map (fun e => (e.1, e.2.map (fun f => if fnSub e.1 = k then { f with state := if f.state = 0 then 0 else 3, given := [] } else f))) }

/-- A sub-link is up again, and the drivers have reset and bound the functions behind it (R437). -/
def State.subUp (s : State) (k : Nat) : State :=
  let s := s.updSub k (fun u => { u with up := true })
  { s with funcs := s.funcs.map (fun e => (e.1, e.2.map (fun f =>
      if fnSub e.1 = k ∧ f.state = 3 then { f with state := 1, queues := [], filters := [], groups := [], pageReqs := 0 } else f))) }

/-- PORTRESET (R440): the sub-link goes down, and comes up again with the answer. DEDUCED (log 71). -/
def execPortreset (call : Nat) (ans : Answer) (s : State) : Out :=
  s.service 38 call (fun s c =>
    match s.subArg (c.arg 0) with
    | none => s.endCall call c 0x13A
    | some k =>
      if c.step = 0 then ({ s with calls := s.calls.put call { c with step := 1 } } : State).subDown k
      else if ans.status = 0 then (s.subUp k).endCall call c 0 else s.endCall call c ans.status)

/-- A function reset: its commands end, and its queues go (R440, R459, R461). -/
def State.resetFunc (s : State) (hub fn : Nat) : State :=
  let s := (s.reqs.all.filter (fun e => match e.2.kind with | .driver k _ _ => k = fn | _ => false)).foldl
    (fun (s : State) (e : Nat × Req) => s.failReq e.1 e.2 0x13D) s
  let s := (((s.funcs.find fn).map (·.queues)).getD []).foldl (fun (s : State) q => s.dropEpQueue hub fn q) s
  s.updFunc fn (fun f => { f with state := 2, given := [], groups := [], pageReqs := 0, ats := false, pri := false, filters := [] })

/-- FLR (R440, R459): the function's commands end, and it comes back with the answer. DEDUCED (log 71). -/
def execFlr (call : Nat) (ans : Answer) (s : State) : Out :=
  s.service 39 call (fun s c =>
    let fn := (c.arg 0).toNat
    match s.funcs.find fn with
    | none => s.endCall call c 0x13A
    | some _ =>
      if c.step = 0 then ({ s with calls := s.calls.put call { c with step := 1 } } : State).resetFunc c.hub fn
      else if ans.status = 0 then (s.updFunc fn (fun f => { f with state := 1 })).endCall call c 0 else s.endCall call c ans.status)

-- CXL memory (R464) ----------------------------------------------------------------------------------------------------------------------------

/-- CXLONLINE (R464): the capacity that the device reports is added to tier 2. DEDUCED (log 75). -/
def execCxlonline (call : Nat) (ans : Answer) (s : State) : Out :=
  s.service 36 call (fun s c =>
    match s.subArg (c.arg 0) with
    | none => s.endCall call c 0x13A
    | some k =>
      let u := s.sub k
      if u.mode ≠ 2 then s.endCall call c 0x13A
      else if !u.up then s.endCall call c 0x10D
      else if ans.status ≠ 0 then s.endCall call c ans.status
      else
        let n := min u.reported (0x20000000000 / (s.sub (8 * (k / 8))).parts)
        (s.updSub k (fun u => { u with cxlBytes := n })).endCall call c 0)

/-- The pages of all contexts whose frames lie in a range, as PASID and address. -/
def State.residentIn (s : State) (pa n : Nat) : List (Nat × Nat) :=
  ((s.ctxs.all.map (fun (e : Nat × Ctx) => e.2.pasid)).eraseDups).flatMap (fun pasid =>
    ((s.leavesOf (s.hubFor pasid) pasid).filter (fun l => pteP l.e && pteType l.e ≠ 2 && pa ≤ pteFrame l.e && pteFrame l.e < pa + n)).map
      (fun l => (pasid, l.va)))

/-- Pages moved out of a range one after another into frames from `frame` upwards. DEDUCED (log 73). -/
def State.moveOut (s : State) (frame : Nat) : List (Nat × Nat) → Option State
  | [] => some s
  | (pasid, va) :: l =>
      let hub := s.hubFor pasid
      match s.moveUnit hub pasid va with
      | none => none
      | some (va0, old, units, e) =>
        if va0 ≠ va then State.moveOut s frame l
        else
          let fr := roundUp frame (units * pageBytes)
          let tier := (tierOf fr).getD 0
          if bit e 4 ∨ !s.movable old units fr tier then none
          else State.moveOut (s.tmeMove hub pasid va old units fr tier) (fr + units * pageBytes) l

/-- CXLOFFLINE (R464): every resident page is migrated out first; an answer of 0x13D says that the other tiers lack room. DEDUCED (log 73).
DEDUCED (log 75). -/
def execCxloffline (call frame : Nat) (ans : Answer) (s : State) : Out :=
  s.service 37 call (fun s c =>
    match s.subArg (c.arg 0) with
    | none => s.endCall call c 0x13A
    | some k =>
      let u := s.sub k
      if u.mode ≠ 2 then s.endCall call c 0x13A
      else if ans.status ≠ 0 then s.endCall call c ans.status
      else match s.moveOut frame (s.residentIn (s.cxlStart k) u.cxlBytes) with
        | none => s
        | some s => if s.migrations ≠ [] then s else (s.updSub k (fun u => { u with cxlBytes := 0 })).endCall call c 0)

-- Firmware and retention (R474, R482) ---------------------------------------------------------------------------------------------------------------

/-- The queues of the FEs are pre-empted for a reload (R482 step 4). -/
def State.preemptQueues (s : State) : State :=
  let s := s.queues.keys.foldl (fun (s : State) k => s.suspendQueue k) s
  s.preemptTeams ((s.teams.all.filter (fun e => e.2.kind = .compute && e.2.run = .resident)).map (·.1)) 0x146

/-- The last steps of a live update: the FEs are reloaded where the bitstream changed, and flash is written (R482 steps 4 and 5). -/
def State.endUpdate (s : State) (id : Nat) (c : Call) : State :=
  let put (s : State) : State := { s with calls := s.calls.put id { c with step := c.step + 1 } }
  let done (s : State) : State := ({ s with fwVersion := (c.arg 5).toNat } : State).endCall id c 0
  if c.arg 6 = 0 then done s
  else if c.step = c.changed.length + 1 then put s.preemptQueues
  else if s.teams.all.any (fun e => e.2.run = .preempting && e.2.cause = 0x146) then s
  else done (s.queues.keys.foldl (fun (s : State) k => s.resumeQueue k) (s.logEvent c.hub 0x174))

/-- FWUPDATE (R482): verification and the check of state versions come with the answer, as do whether the bitstream changed (bit 0 of its
first byte) and which services did (its other bytes). Each of these is switched once no call of it is in service. DEDUCED (log 74). -/
def execFwupdate (call : Nat) (ans : Answer) (s : State) : Out :=
  s.service 42 call (fun s c =>
    if c.step = 0 then
      if ans.status = 0x171 then (s.logEvent c.hub 0x171).endCall call c 0x171
      else if ans.status ≠ 0 ∨ ans.result.toNat < s.fwMinimum then (s.logEvent c.hub 0x173).endCall call c 0x13D
      else
        let changed := (List.range 48).filter (fun k => (ans.data.drop 1).any (fun b => b.toNat = k))
        let args : List Word := (List.range 5).map c.arg ++ [BitVec.ofNat 64 ans.result.toNat, if (ans.data.headD 0).getLsbD 0 then 1 else 0]
          ++ changed.map (BitVec.ofNat 64)
        { s with calls := s.calls.put call { c with step := 1, args := args } }
    else match c.changed[c.step - 1]? with
      | some k =>
          if s.calls.all.any (fun e => e.1 ≠ call && e.2.num = k && e.2.begun.isSome) then s
          else ({ s with calls := s.calls.put call { c with step := c.step + 1 } } : State).logEvent c.hub 0x170
      | none => s.endUpdate call c)

/-- RETENTION (R474): the call starts retention entry with cause 0x151, and ends. -/
def execRetention (call : Nat) (s : State) : Out :=
  s.service 40 call (fun s c => (s.endCall call c 0).due [.retentionEntry 1])

end Sys2Proof.Machine
end

