-- ==== Sys2Proof/Machine/Vflt.lean ====
section
/-! DEFINITION. FORM 0x2 VFLT: vector floating point (R110 to R125). -/

namespace Sys2Proof.Machine

/-- The f32 result of each active lane with the flags of all of them (R62, R114). -/
def laneFloats (m : Mask) (d : Nat) (h : Nat → FRes) : List RegVal × BitVec 5 :=
  let r := (lanesOf m).map (fun i => (i, h i))
  (r.map (fun e => .v d e.1 (BitVec.ofNat 32 e.2.1)), r.foldl (fun (a : BitVec 5) e => a ||| e.2.2) 0)

/-- An interlocked float result in each active lane (R110, R114). -/
def State.flt (s : State) (d : VReg) (h : Group → Nat → FRes) (lat : Nat := 4) : Out :=
  s.word .cores (fun n => let r := laneFloats n.f.em d.val (h n.g); s.write n r.1 lat r.2 true)

/-- A float result in each active lane of an L instruction (R110). -/
def State.fltLater (s : State) (lat : Nat) (la : La) (d : VReg) (h : Group → Nat → FRes) : Out :=
  s.word .cores (fun n => let r := laneFloats n.f.em d.val (h n.g); s.writeLater n lat la [.v d.val] r.1 r.2 true)

/-- D[i] := A[i] op B[i] on f32 encodings. -/
def State.fop (s : State) (d a : VReg) (b : VSrc) (h : Nat → Nat → FRes) : Out :=
  s.flt d (fun g i => h (g.vget a.val i).toNat (g.src b i).toNat)

/-- Half h of a lane (R113). -/
def halfOf (x : Lane) (hi : Bool) : Nat := if hi then x.toNat / 2 ^ 16 else x.toNat % 2 ^ 16
/-- Two halves packed in a lane, with the flags of both (R113). -/
def packHalves (lo hi : FRes) : FRes := (hi.1 * 2 ^ 16 + lo.1, lo.2 ||| hi.2)

/-- VFADD (R115). -/
def execVfadd (rm : Rm) (d a : VReg) (b : VSrc) (s : State) : Out := s.fop d a b (fmtF32.add rm)
/-- VFSUB (R115). -/
def execVfsub (rm : Rm) (d a : VReg) (b : VSrc) (s : State) : Out := s.fop d a b (fmtF32.sub rm)
/-- VFMUL (R115). -/
def execVfmul (rm : Rm) (d a : VReg) (b : VSrc) (s : State) : Out := s.fop d a b (fmtF32.mul rm)
/-- A × B + D of one lane, with the product negated or not (R116). -/
def fmaOf (rm : Rm) (negate : Bool) (a b d : Nat) : FRes :=
  fmtF32.fused rm negate [(fmtF32.unpack a, fmtF32.unpack b)] (fmtF32.unpack d)
/-- VFMA (R116). -/
def execVfma (rm : Rm) (d a : VReg) (b : VSrc) (s : State) : Out :=
  s.flt d (fun g i => fmaOf rm false (g.vget a.val i).toNat (g.src b i).toNat (g.vget d.val i).toNat) 6
/-- VFNMA (R116). -/
def execVfnma (rm : Rm) (d a : VReg) (b : VSrc) (s : State) : Out :=
  s.flt d (fun g i => fmaOf rm true (g.vget a.val i).toNat (g.src b i).toNat (g.vget d.val i).toNat) 6
/-- VFMIN (R117). -/
def execVfmin (d a : VReg) (b : VSrc) (s : State) : Out := s.fop d a b (minmaxF false)
/-- VFMAX (R117). -/
def execVfmax (d a : VReg) (b : VSrc) (s : State) : Out := s.fop d a b (minmaxF true)
/-- VFABS (R118). -/
def execVfabs (d a : VReg) (s : State) : Out := s.flt d (fun g i => ((g.vget a.val i &&& 0x7FFFFFFF).toNat, 0))
/-- VFNEG (R118). -/
def execVfneg (d a : VReg) (s : State) : Out := s.flt d (fun g i => ((g.vget a.val i ^^^ 0x80000000).toNat, 0))
/-- VFCMP (R119). -/
def execVfcmp (cc : Fcc) (d : PReg) (a : VReg) (b : VSrc) (s : State) : Out :=
  s.word .cores (fun n =>
    let r := (lanesOf n.f.em).map (fun i => (i, fcmpOf cc (n.g.vget a.val i).toNat (n.g.src b i).toNat))
    s.write n [.p d.val n.f.em (r.foldl (fun (m : Mask) e => if e.2.1 then m ||| laneBit e.1 else m) 0)] 4
      (r.foldl (fun (f : BitVec 5) e => f ||| e.2.2) 0) true)
/-- VFCLASS (R120). -/
def execVfclass (d a : VReg) (s : State) : Out := s.flt d (fun g i => (fclassOf (g.vget a.val i).toNat, 0))
/-- VFRCP (R125). -/
def execVfrcp (la : La) (d a : VReg) (s : State) : Out := s.fltLater 20 la d (fun g i => rcpOf (g.vget a.val i).toNat)
/-- VFRSQ (R125). -/
def execVfrsq (la : La) (d a : VReg) (s : State) : Out := s.fltLater 20 la d (fun g i => rsqOf (g.vget a.val i).toNat)
/-- VFDIV (R124). -/
def execVfdiv (la : La) (rm : Rm) (d a : VReg) (b : VSrc) (s : State) : Out :=
  s.fltLater 36 la d (fun g i => fmtF32.div (.mode rm) (fmtF32.unpack (g.vget a.val i).toNat) (fmtF32.unpack (g.src b i).toNat))
/-- VFSQRT (R124, R125). -/
def execVfsqrt (la : La) (rm : Rm) (d a : VReg) (s : State) : Out :=
  s.fltLater 36 la d (fun g i => fmtF32.sqrt (.mode rm) (fmtF32.unpack (g.vget a.val i).toNat))
/-- VFEXP2 (R125). -/
def execVfexp2 (la : La) (d a : VReg) (s : State) : Out := s.fltLater 20 la d (fun g i => exp2Of (g.vget a.val i).toNat)
/-- VFLOG2 (R125). -/
def execVflog2 (la : La) (d a : VReg) (s : State) : Out := s.fltLater 20 la d (fun g i => log2Of (g.vget a.val i).toNat)
/-- VFRND (R121). -/
def execVfrnd (rm : Rm) (d a : VReg) (s : State) : Out := s.flt d (fun g i => frndOf rm (g.vget a.val i).toNat)

/-- VHADD of one lane (R122). -/
def haddOf (hf : Hf) (rm : Rm) (a b : Lane) : FRes :=
  packHalves ((fmtHalf hf).add rm (halfOf a false) (halfOf b false)) ((fmtHalf hf).add rm (halfOf a true) (halfOf b true))
/-- VHMUL of one lane (R122). -/
def hmulOf (hf : Hf) (rm : Rm) (a b : Lane) : FRes :=
  packHalves ((fmtHalf hf).mul rm (halfOf a false) (halfOf b false)) ((fmtHalf hf).mul rm (halfOf a true) (halfOf b true))
/-- VHADD (R122). -/
def execVhadd (hf : Hf) (rm : Rm) (d a : VReg) (b : VSrc) (s : State) : Out :=
  s.flt d (fun g i => haddOf hf rm (g.vget a.val i) (g.src b i))
/-- VHMUL (R122). -/
def execVhmul (hf : Hf) (rm : Rm) (d a : VReg) (b : VSrc) (s : State) : Out :=
  s.flt d (fun g i => hmulOf hf rm (g.vget a.val i) (g.src b i))
/-- VHFMA (R122). -/
def execVhfma (hf : Hf) (rm : Rm) (d a : VReg) (b : VSrc) (s : State) : Out :=
  s.flt d (fun g i =>
    let f := fmtHalf hf
    let one (hi : Bool) : FRes :=
      f.fused rm false [(f.unpack (halfOf (g.vget a.val i) hi), f.unpack (halfOf (g.src b i) hi))] (f.unpack (halfOf (g.vget d.val i) hi))
    packHalves (one false) (one true)) 6
/-- VFDOT2 (R123). -/
def execVfdot2 (hf : Hf) (rm : Rm) (d a : VReg) (b : VSrc) (s : State) : Out :=
  s.flt d (fun g i =>
    let f := fmtHalf hf
    let pr (hi : Bool) : Fl × Fl := (f.unpack (halfOf (g.vget a.val i) hi), f.unpack (halfOf (g.src b i) hi))
    fmtF32.fused rm false [pr false, pr true] (fmtF32.unpack (g.vget d.val i).toNat)) 6

end Sys2Proof.Machine
end

