-- ==== Sys2Proof/Machine/Pair.lean ====
section
/-! DEFINITION. FORM 0xC PAIR: two halves that read all their sources before either writes (R35 to R38). -/

namespace Sys2Proof.Machine

/-- A vector half on every lane of em: D := D op A with its flags (R37). -/
def vecHalf (em : Mask) (g : Group) (d : VReg) (h : Lane → Lane → FRes) (a : VReg) : List RegVal × BitVec 5 :=
  laneFloats em d.val (fun i => h (g.vget d.val i) (g.vget a.val i))
/-- An integer lane result, with no flag. -/
def intHalf (h : Lane → Lane → Lane) (x y : Lane) : FRes := ((h x y).toNat, 0)
/-- A float lane result. -/
def fltHalf (h : Nat → Nat → FRes) (x y : Lane) : FRes := h x.toNat y.toNat
/-- A scalar half: D := D op A (R37). -/
def scaHalf (g : Group) (d a : SReg) (h : Word → Word → Word) : List RegVal × BitVec 5 :=
  ([.s d.val (h (g.sget d.val) (g.sget a.val))], 0)

/-- What one half writes, and its flags (R36, R37). -/
def halfVals (em : Mask) (g : Group) (h : Half) : List RegVal × BitVec 5 :=
  match h with
  | .vadd d a => vecHalf em g d (intHalf (· + ·)) a
  | .vsub d a => vecHalf em g d (intHalf (· - ·)) a
  | .vmul d a => vecHalf em g d (intHalf (· * ·)) a
  | .vand d a => vecHalf em g d (intHalf (· &&& ·)) a
  | .vor d a => vecHalf em g d (intHalf (· ||| ·)) a
  | .vxor d a => vecHalf em g d (intHalf (· ^^^ ·)) a
  | .vshl d a => vecHalf em g d (intHalf (fun x y => shl x y.toNat)) a
  | .vshr d a => vecHalf em g d (intHalf (fun x y => shr x y.toNat)) a
  | .vsra d a => vecHalf em g d (intHalf (fun x y => sra x y.toNat)) a
  | .vmin n d a => vecHalf em g d (intHalf (minOf n)) a
  | .vmax n d a => vecHalf em g d (intHalf (maxOf n)) a
  | .vmov d a => vecHalf em g d (intHalf (fun _ y => y)) a
  | .vaddi d a x => vecHalf em g d (intHalf (fun _ y => y + x.signExtend 32)) a
  | .vmovi d x => vecHalf em g d (intHalf (fun _ _ => x.signExtend 32)) d
  | .vfadd rm d a => vecHalf em g d (fltHalf (fmtF32.add rm)) a
  | .vfsub rm d a => vecHalf em g d (fltHalf (fmtF32.sub rm)) a
  | .vfmul rm d a => vecHalf em g d (fltHalf (fmtF32.mul rm)) a
  | .vfmin d a => vecHalf em g d (fltHalf (minmaxF false)) a
  | .vfmax d a => vecHalf em g d (fltHalf (minmaxF true)) a
  | .vhadd rm d a => vecHalf em g d (haddOf .f16 rm) a
  | .vhmul rm d a => vecHalf em g d (hmulOf .f16 rm) a
  | .sadd d a => scaHalf g d a (· + ·)
  | .ssub d a => scaHalf g d a (· - ·)
  | .sand d a => scaHalf g d a (· &&& ·)
  | .sor d a => scaHalf g d a (· ||| ·)
  | .sxor d a => scaHalf g d a (· ^^^ ·)
  | .sshl d a => scaHalf g d a (fun x y => shl x y.toNat)
  | .sshr d a => scaHalf g d a (fun x y => shr x y.toNat)
  | .smov d a => scaHalf g d a (fun _ y => y)
  | .saddi d a x => scaHalf g d a (fun _ y => y + x.signExtend 64)
  | .smovi d x => scaHalf g d d (fun _ _ => x.signExtend 64)

/-- The latency of a half, that of its full-form instruction (R84, R89, R110). -/
def halfLatency (h : Half) : Nat :=
  match h with
  | .vmul _ _ => 6
  | _ => if h.dst < 128 then 4 else 2

/-- The half is a floating-point instruction (R64). -/
def halfFloat (h : Half) : Bool :=
  match h with
  | .vfadd _ _ _ => true
  | .vfsub _ _ _ => true
  | .vfmul _ _ _ => true
  | .vfmin _ _ => true
  | .vfmax _ _ => true
  | .vhadd _ _ _ => true
  | .vhmul _ _ _ => true
  | _ => false

/-- The result of a half as a pending result. -/
def halfPend (em : Mask) (g : Group) (clock : Nat) (h : Half) : Pend :=
  let x := halfVals em g h
  shortPend x.1 x.2 (clock + halfLatency h) (halfFloat h)

/-- A PAIR word (R37): one instruction, both halves from the same sources, each with its own latency (R84). -/
def State.pair (s : State) (h0 h1 : Half) : Out :=
  s.word .cores (fun n =>
    let s' := { s with nextId := s.nextId + 2 }
    let w := n.opens s.cur.slot s.nextId 0 (halfPend n.f.em n.g s.clock h0)
    s'.done (w.opens s.cur.slot (s.nextId + 1) 0 (halfPend n.f.em n.g s.clock h1)))

/-- PAIR whose H0 is VADD (R36, R37). -/
def execPairVadd (d a : VReg) (h1 : Half) (s : State) : Out := s.pair (.vadd d a) h1
/-- PAIR whose H0 is VSUB (R36, R37). -/
def execPairVsub (d a : VReg) (h1 : Half) (s : State) : Out := s.pair (.vsub d a) h1
/-- PAIR whose H0 is VMUL (R36, R37). -/
def execPairVmul (d a : VReg) (h1 : Half) (s : State) : Out := s.pair (.vmul d a) h1
/-- PAIR whose H0 is VAND (R36, R37). -/
def execPairVand (d a : VReg) (h1 : Half) (s : State) : Out := s.pair (.vand d a) h1
/-- PAIR whose H0 is VOR (R36, R37). -/
def execPairVor (d a : VReg) (h1 : Half) (s : State) : Out := s.pair (.vor d a) h1
/-- PAIR whose H0 is VXOR (R36, R37). -/
def execPairVxor (d a : VReg) (h1 : Half) (s : State) : Out := s.pair (.vxor d a) h1
/-- PAIR whose H0 is VSHL (R36, R37). -/
def execPairVshl (d a : VReg) (h1 : Half) (s : State) : Out := s.pair (.vshl d a) h1
/-- PAIR whose H0 is VSHR (R36, R37). -/
def execPairVshr (d a : VReg) (h1 : Half) (s : State) : Out := s.pair (.vshr d a) h1
/-- PAIR whose H0 is VSRA (R36, R37). -/
def execPairVsra (d a : VReg) (h1 : Half) (s : State) : Out := s.pair (.vsra d a) h1
/-- PAIR whose H0 is VMIN (R36, R37). -/
def execPairVmin (n : Sgn) (d a : VReg) (h1 : Half) (s : State) : Out := s.pair (.vmin n d a) h1
/-- PAIR whose H0 is VMAX (R36, R37). -/
def execPairVmax (n : Sgn) (d a : VReg) (h1 : Half) (s : State) : Out := s.pair (.vmax n d a) h1
/-- PAIR whose H0 is VMOV (R36, R37). -/
def execPairVmov (d a : VReg) (h1 : Half) (s : State) : Out := s.pair (.vmov d a) h1
/-- PAIR whose H0 is VADDI (R36, R37). -/
def execPairVaddi (d a : VReg) (x : BitVec 10) (h1 : Half) (s : State) : Out := s.pair (.vaddi d a x) h1
/-- PAIR whose H0 is VMOVI (R36, R37). -/
def execPairVmovi (d : VReg) (x : BitVec 10) (h1 : Half) (s : State) : Out := s.pair (.vmovi d x) h1
/-- PAIR whose H0 is VFADD (R36, R37). -/
def execPairVfadd (rm : Rm) (d a : VReg) (h1 : Half) (s : State) : Out := s.pair (.vfadd rm d a) h1
/-- PAIR whose H0 is VFSUB (R36, R37). -/
def execPairVfsub (rm : Rm) (d a : VReg) (h1 : Half) (s : State) : Out := s.pair (.vfsub rm d a) h1
/-- PAIR whose H0 is VFMUL (R36, R37). -/
def execPairVfmul (rm : Rm) (d a : VReg) (h1 : Half) (s : State) : Out := s.pair (.vfmul rm d a) h1
/-- PAIR whose H0 is VFMIN (R36, R37). -/
def execPairVfmin (d a : VReg) (h1 : Half) (s : State) : Out := s.pair (.vfmin d a) h1
/-- PAIR whose H0 is VFMAX (R36, R37). -/
def execPairVfmax (d a : VReg) (h1 : Half) (s : State) : Out := s.pair (.vfmax d a) h1
/-- PAIR whose H0 is VHADD (R36, R37). -/
def execPairVhadd (rm : Rm) (d a : VReg) (h1 : Half) (s : State) : Out := s.pair (.vhadd rm d a) h1
/-- PAIR whose H0 is VHMUL (R36, R37). -/
def execPairVhmul (rm : Rm) (d a : VReg) (h1 : Half) (s : State) : Out := s.pair (.vhmul rm d a) h1
/-- PAIR whose H0 is SADD (R36, R37). -/
def execPairSadd (d a : SReg) (h1 : Half) (s : State) : Out := s.pair (.sadd d a) h1
/-- PAIR whose H0 is SSUB (R36, R37). -/
def execPairSsub (d a : SReg) (h1 : Half) (s : State) : Out := s.pair (.ssub d a) h1
/-- PAIR whose H0 is SAND (R36, R37). -/
def execPairSand (d a : SReg) (h1 : Half) (s : State) : Out := s.pair (.sand d a) h1
/-- PAIR whose H0 is SOR (R36, R37). -/
def execPairSor (d a : SReg) (h1 : Half) (s : State) : Out := s.pair (.sor d a) h1
/-- PAIR whose H0 is SXOR (R36, R37). -/
def execPairSxor (d a : SReg) (h1 : Half) (s : State) : Out := s.pair (.sxor d a) h1
/-- PAIR whose H0 is SSHL (R36, R37). -/
def execPairSshl (d a : SReg) (h1 : Half) (s : State) : Out := s.pair (.sshl d a) h1
/-- PAIR whose H0 is SSHR (R36, R37). -/
def execPairSshr (d a : SReg) (h1 : Half) (s : State) : Out := s.pair (.sshr d a) h1
/-- PAIR whose H0 is SMOV (R36, R37). -/
def execPairSmov (d a : SReg) (h1 : Half) (s : State) : Out := s.pair (.smov d a) h1
/-- PAIR whose H0 is SADDI (R36, R37). -/
def execPairSaddi (d a : SReg) (x : BitVec 10) (h1 : Half) (s : State) : Out := s.pair (.saddi d a x) h1
/-- PAIR whose H0 is SMOVI (R36, R37). -/
def execPairSmovi (d : SReg) (x : BitVec 10) (h1 : Half) (s : State) : Out := s.pair (.smovi d x) h1

end Sys2Proof.Machine
end

