-- ==== Sys2Proof/Machine/Root.lean ====
section
/-! DEFINITION. The root complex at work: doorbells, interrupts, translation for endpoints, inbound traffic, links and the end of
quarantines (R230, R437, R449 to R463, R468). Each step comes from outside the device or is due in it. -/

namespace Sys2Proof.Machine

-- Doorbells (R449, R450) --------------------------------------------------------------------------------------------

/-- The doorbell write of a tail: a posted 4-byte write to DBADDR, or a drop that is logged (R413, R449). -/
def State.ringDoorbell (s : State) (b : Binding) (tail : Nat) : State :=
  let hub := s.hubFor b.pasid
  match s.xlate (.hub hub) b.pasid b.dbaddr pteW with
  | (.page e, s) =>
      if pteType e.pte ≠ 2 ∨ !pteW e.pte then s.logEvent hub 0x10E b.pasid (BitVec.ofNat 64 b.dbaddr)
      else match s.mmioRoute (e.pa b.dbaddr) with
        | .ok (k, addr) => s.send { sub := k, addr := addr, data := some (leBytes 4 tail), size := 4 }
        | .error _ => s.logEvent hub 0x10E b.pasid (BitVec.ofNat 64 b.dbaddr)
  | (_, s) => s.logEvent hub 0x10E b.pasid (BitVec.ofNat 64 b.dbaddr)

/-- DOORBELL_WRITE (R449): after the DBW's release, and after the earlier DBWs of its binding. DEDUCED (log 76). -/
def execDoorbellWrite (dw : Nat) (s : State) : Out :=
  .next (match s.dws.find dw with
    | none => s
    | some d =>
      match s.bindings.find d.binding with
      | none => s
      | some b =>
        if d.sent ∨ !s.settled ∨ s.dws.all.any (fun e => e.1 < dw && e.2.binding = d.binding && !e.2.sent) then s
        else { s with
          dws := s.dws.put dw { d with sent := true }
          bindings := s.bindings.put d.binding { b with last := some d.tail.toNat } }.ringDoorbell b d.tail.toNat)

/-- DBP_FOLLOW (R450): the DBP observes PUB, up to the limit that CONS sets, and writes the tail where it differs from the
last one written. DEDUCED (log 76). -/
def execDbpFollow (binding : Nat) (s : State) : Out :=
  .next (match s.bindings.find binding with
    | none => s
    | some b =>
      if !b.follow then s
      else
        let (v, past) := s.followed b
        let s := if past ∧ !b.overrunLogged then s.logEvent (s.hubFor b.pasid) 0x107 b.pasid b.pubVa else s
        let t := v.toNat % b.depth
        let wr := v ≠ b.seen && b.last ≠ some t
        let s : State := { s with
          bindings := s.bindings.put binding { b with seen := v, overrunLogged := past, last := if wr then some t else b.last } }
        if wr then s.ringDoorbell b t else s)

/-- AER_ERROR_REPORT (R449, R438). -/
def execAerErrorReport (dw : Nat) (s : State) : Out :=
  .next (match s.dws.find dw with
    | some d => if d.sent then ({ s with dws := s.dws.del dw } : State).lateTrap d 0x104 else s
    | none => s)

-- Interrupts (R451, R452) ---------------------------------------------------------------------------------------------

/-- Messages that a hub's converter holds (R452). -/
def State.converterLoad (s : State) (h : Nat) : Nat :=
  (s.ops.all.filter (fun e => e.2.who = .msi h)).length + (s.hub h).msiHeld.length

/-- A message of a converter that is not full takes the first case of R452 that applies. DEDUCED (log 89). -/
def State.convert (s : State) (h k size data : Nat) : State :=
  match (s.hub h).msi.find k with
  | none => s.logEvent h 0x128
  | some b =>
    if !b.valid then s.logEvent h 0x128
    else if b.installing then
      (s.putHub h { s.hub h with msiHeld := (s.hub h).msiHeld ++ [(k, size, data)] }).logEvent h 0x12E b.pasid b.va
    else s.msiTake h b size data

/-- MSI_WRITE (R452): a converter that is full makes the root ports hold the message back, and says so once per millisecond. -/
def execMsiWrite (addr size data : Nat) (s : State) : Out :=
  .next (
    let off := addr - 0x1FF000000000
    let h := off / 2 ^ 24 % 2
    let k := off % 2 ^ 24 / 4
    if addr < 0x1FF000000000 ∨ 2 ^ 25 ≤ off ∨ off % 4 ≠ 0 ∨ 65536 ≤ k then s.logEvent h 0x128 0 (BitVec.ofNat 64 addr)
    else if 1024 ≤ s.converterLoad h then
      let s : State := { s with again := s.again ++ [.msiWrite addr size data] }
      if (s.hub h).msiFull.any (fun t => s.clock < t + 1000 * ckUs) then s
      else (s.putHub h { s.hub h with msiFull := some s.clock }).logEvent h 0x12F
    else s.convert h k size data)

-- Translation for endpoints (R454, R455) ------------------------------------------------------------------------------------

/-- A PASID is bound to a function: by its image, or by an endpoint queue (R443, R444, R454). -/
def Func.bound (f : Func) (pasid : Nat) : Bool := f.pasids.contains pasid || f.queues.any (fun q => q.pasid = pasid)

/-- The endpoint may read, or write, a page of an I/O lease (R454, R458). -/
def State.leaseAllows (s : State) (pasid va : Nat) (write : Bool) : Bool :=
  (s.ioLeasesOf pasid va).any (fun l => l.dir = 2 || l.dir = (if write then 1 else 0))

/-- The completion of a translation request: the address with R, W, U and G, then the size in 64 KiB units (R454). DESIGN CHOICE (log 78). -/
def State.atsAnswer (s : State) (fn pa units : Nat) (r w u g : Bool) : State :=
  let f (b : Bool) (i : Nat) : Nat := if b then 2 ^ i else 0
  s.send { sub := fnSub fn, addr := fn, data := some (leBytes 8 (pa + f r 0 + f w 1 + f u 2 + f g 5) ++ leBytes 8 units), size := 16 }

/-- A request of an endpoint outside its function's IDE stream is dropped (R461). -/
def State.outsideIde (s : State) (fn : Nat) : Bool :=
  !(s.sub (fnSub fn)).carries (((s.funcs.find fn).bind (·.stream)).getD 64)

/-- The event of a function that may issue requests: its Bus Master Enable is set (R436), and its traffic is in a keyed
stream. -/
def State.fromEndpoint (s : State) (fn : Nat) (h : Func → State) : Out :=
  .next (match s.funcs.find fn with
    | none => s
    | some f =>
      if !f.master ∨ !(s.sub (fnSub fn)).up then s
      else if s.outsideIde fn then s.logEvent (fnSub fn / 8 / 6) 0x11D
      else h f)

/-- ATS_TRANSLATION_REQUEST (R454). DESIGN CHOICE (log 78). -/
def execAtsTranslationRequest (fn pasid va : Nat) (write : Bool) (s : State) : Out :=
  s.fromEndpoint fn (fun f =>
    let h := fnSub fn / 8 / 6
    let none' (s : State) : State := s.atsAnswer fn 0 1 false false false false
    if !f.ats then s
    else if !f.bound pasid then
      (s.send { sub := fnSub fn, addr := fn, refused := true }).logEvent h 0x110 pasid (BitVec.ofNat 64 va)
    else match s.xlate (.ta h) pasid va (fun _ => true) with
      | (.page e, s) =>
        if pteType e.pte = 1 then s.atsAnswer fn 0 1 false false true false
        else if pteType e.pte ≠ 3 ∨ (s.ioLeasesOf pasid va).isEmpty then none' s
        else
          let r := pteR e.pte && s.leaseAllows pasid va false
          let w := pteW e.pte && s.leaseAllows pasid va true
          if (if write then !w else !r) then (none' s).logEvent h 0x116 pasid (BitVec.ofNat 64 va)
          else
            let first := e.vpn * pageBytes
            let whole := (List.range e.size).all (fun i => !(s.ioLeasesOf pasid (first + i * pageBytes)).isEmpty)
            let (v0, units) := if whole then (first, e.size) else (alignDown va pageBytes, 1)
            let got := (List.range units).map (fun i => (pasid, v0 / pageBytes + i))
            let s := s.updFunc fn (fun f => { f with given := f.given ++ got.filter (fun x => !f.given.contains x) })
            s.atsAnswer fn (e.pa v0) units r w false (pteG e.pte)
      | (_, s) => none' s)

/-- The words of a page request queue entry (R468). -/
def PageReq.words (q : PageReq) (clock : Nat) : List Nat :=
  let f (b : Bool) (i : Nat) : Nat := if b then 2 ^ i else 0
  [q.fn % 2 ^ 23 + q.prg % 512 * 2 ^ 32 + f q.last 41 + f q.rd 42 + f q.wr 43, q.pasid % 2 ^ 20 + 2 ^ 20, alignDown q.va pageBytes, clock]

/-- The page service is asked for an absent page of a group (R455). -/
def State.askPage (s : State) (h pasid va : Nat) : State :=
  match s.walk h pasid va with
  | .leaf e _ _ _ =>
      if pteP e then s
      else { s with
        calls := s.calls.put s.nextId { num := faultCall, hub := h, block := BitVec.ofNat 64 va, ctr := .null, ctrVa := 0, pasid := pasid
                                        team := 2 ^ 64, lin := noLin, since := s.clock }
        nextId := s.nextId + 1 }
  | .fault _ => s

/-- PAGE_REQUEST (R455, R468): answered at once outside every lease or with the queue full, or entered in the hub's queue; the
last one of a group has the page service bring the group's pages. -/
def execPageRequest (fn pasid va prg : Nat) (last rd wr : Bool) (s : State) : Out :=
  s.fromEndpoint fn (fun f =>
    let h := fnSub fn / 8 / 6
    let b := s.hub h
    let q : PageReq := { fn := fn, pasid := pasid, va := va, prg := prg % 512, last := last, rd := rd, wr := wr }
    let other (e : Nat × Nat × Nat) : Bool := !(e.1 = pasid && e.2.1 = q.prg)
    let held := ((f.groups.find? (fun e => !other e)).map (fun e => e.2.2)).getD 0
    let k := s.memWord b.prqCtr.toNat
    let drop (s : State) : State :=
      let s := s.updFunc fn (fun f => { f with groups := f.groups.filter other, pageReqs := f.pageReqs - held })
      s.putHub h { s.hub h with prq := (s.hub h).prq.filter (fun x => !(x.fn = fn && x.pasid = pasid && x.prg = q.prg)) }
    if !f.pri ∨ 64 ≤ f.pageReqs then s
    else if !f.bound pasid ∨ (s.ioLeasesOf pasid va).isEmpty then
      ((drop s).prgAnswer fn q.prg pasid 1).logEvent h 0x111 pasid (BitVec.ofNat 64 va)
    else if (k - s.memWord (b.prqCtr.toNat + 8)).toNat = 4096 then
      ((drop s).prgAnswer fn q.prg pasid 0).logEvent h 0x112 pasid (BitVec.ofNat 64 va)
    else
      let s := s.homeWrite (b.prqBase.toNat + 32 * (k.toNat % 4096)) ((q.words s.clock).flatMap (leBytes 8))
      let s := s.ctrAdd (.mem b.prqCtr.toNat) 1
      let s := s.updFunc fn (fun f => { f with groups := f.groups.filter other ++ [(pasid, q.prg, held + 1)], pageReqs := f.pageReqs + 1 })
      if !last then s.putHub h { s.hub h with prq := (s.hub h).prq ++ [q] }
      else
        let mine := ((s.hub h).prq ++ [q]).filter (fun x => x.fn = fn && x.pasid = pasid && x.prg = q.prg)
        let s := s.putHub h { s.hub h with prq := (s.hub h).prq.filter (fun x => !mine.contains x) }
        ((mine.map (fun x => alignDown x.va pageBytes)).eraseDups).foldl (fun (s : State) v => s.askPage h pasid v) s)

-- Inbound traffic (R230, R435, R454, R459, R462) -----------------------------------------------------------------------------

/-- What the TA finds for an untranslated access to a page. -/
inductive Inbound
  | mem (pa : Nat)
  | ctr (pa : Nat)
  | device (pa : Nat)
  | refuse (code : Code)
deriving DecidableEq, Repr

/-- The checks of an untranslated access (R454, R459, R462); `ep` says that an endpoint makes it, which may reach MMIO pages of
its PASID (R435). DEDUCED (log 77). -/
def State.inbound (s : State) (h pasid va : Nat) (write ep : Bool) : Inbound × State :=
  match s.xlate (.ta h) pasid va (fun _ => true) with
  | (.page e, s) =>
    let pa := e.pa va
    let right := if write then pteW e.pte else pteR e.pte
    (match pteType e.pte with
      | 1 => if pteR e.pte ∨ pteW e.pte then .ctr pa else .refuse 0x04D
      | 2 => if ep ∧ right then .device pa else .refuse 0x04D
      | 3 => if right ∧ s.leaseAllows pasid va write then .mem pa else .refuse 0x04D
      | _ => .refuse 0x04D, s)
  | (_, s) =>
    let page := alignDown va pageBytes
    match (s.quarantine.all.map (·.2)).find? (fun q => q.pasid = pasid && q.pages.any (fun x => x.1 = page)) with
    | none => (.refuse 0x04D, s)
    | some q =>
      if q.sealed then (.refuse (if write then 0x04E else 0x04D), s)
      else (match q.pages.find? (fun x => x.1 = page) with
        | some x => .mem (x.2 + va % pageBytes)
        | none => .refuse 0x04D, s)

/-- An inbound write to a COUNTER page, which adds to the counter word that contains it (R230). DEDUCED (log 117). DEDUCED (log 79). -/
def State.counterWrite (s : State) (h pasid va pa size data : Nat) : State :=
  if va % size ≠ 0 ∨ (size ≠ 4 ∧ size ≠ 8) ∨ 2 ^ 32 ≤ data then s.logEvent h 0x121 pasid (BitVec.ofNat 64 va)
  else s.emit { ctr := .mem (alignDown pa 8), act := .add (BitVec.ofNat 64 data), who := .port h false, scope := some 6, pasid := pasid
                va := BitVec.ofNat 64 va }

/-- The parts of an access that lie in one 64 KiB page each, as address and length. -/
def pageParts (va n : Nat) : List (Nat × Nat) :=
  (List.range ((va + n - 1) / pageBytes + 1 - va / pageBytes)).map (fun i =>
    let a := max va ((va / pageBytes + i) * pageBytes)
    (a, min (va + n) ((va / pageBytes + i + 1) * pageBytes) - a))

/-- All parts of an access checked, lowest first: what each finds, or the first refusal with its address. -/
def State.inboundAll (s : State) (h pasid : Nat) (write ep : Bool) : List (Nat × Nat) → Except (Code × Nat) (List (Inbound × Nat)) × State
  | [] => (.ok [], s)
  | (a, n) :: l =>
      match s.inbound h pasid a write ep with
      | (.refuse c, s) => (.error (c, a), s)
      | (x, s) =>
        match State.inboundAll s h pasid write ep l with
        | (.ok xs, s) => (.ok ((x, n) :: xs), s)
        | (.error e, s) => (.error e, s)

/-- The parts of an inbound write performed, each at its home (R250, R358). -/
def State.inboundStore (s : State) : List (Inbound × Nat) → List Byte → State
  | [], _ => s
  | (x, n) :: xs, l =>
      let b := l.take n
      let s := match x with
        | .mem pa => s.homeWrite pa b
        | .device pa => (match s.mmioRoute pa with
            | .ok (k, addr) => s.send { sub := k, addr := addr, data := some b, size := n }
            | .error _ => s.logEvent 0 0x10E 0 (BitVec.ofNat 64 pa))
        | _ => s
      State.inboundStore s xs (l.drop n)

/-- The bytes of an inbound read, with poison where some byte has it. -/
def State.inboundLoad (s : State) (l : List (Inbound × Nat)) : List Byte × Bool :=
  (l.flatMap (fun x => match x.1 with | .mem pa => s.memRead pa x.2 | .ctr pa => s.memRead pa x.2 | _ => []),
    l.any (fun x => match x.1 with | .mem pa => s.poisoned pa x.2 | _ => false))

/-- The bytes of an inbound write as places, one by one. -/
def inboundPuts : List (Inbound × Nat) → List Byte → List (At × List (Byte × Bool))
  | [], _ => []
  | (x, n) :: xs, l =>
      (match x with
        | .mem pa => ((l.take n).zipIdx).map (fun e => (.mem (pa + e.2), [(e.1, false)]))
        | _ => []) ++ inboundPuts xs (l.drop n)

/-- The bytes of an inbound read as places, one by one. -/
def inboundGets (l : List (Inbound × Nat)) : List (At × Nat) :=
  l.flatMap (fun x => match x.1 with | .mem pa => (List.range x.2).map (fun i => (.mem (pa + i), 1)) | _ => [])

/-- An untranslated access served or refused (R454, R462). -/
def State.serveInbound (s : State) (h fn pasid va : Nat) (write ep : Bool) (data : List Byte) : State :=
  let refuse (s : State) (c : Code) (a : Nat) : State :=
    (if write then s else s.send { sub := fnSub fn, addr := fn, refused := true }).logEvent h c pasid (BitVec.ofNat 64 a)
  if data.isEmpty then s
  else match s.inboundAll h pasid write ep (pageParts va data.length) with
    | (.error (c, a), s) => refuse s c a
    | (.ok l, s) =>
      if write then
        match l with
        | [(.ctr pa, _)] => s.counterWrite h pasid va pa data.length (leNat data)
        | _ => if l.any (fun x => match x.1 with | .ctr _ => true | _ => false) then s.logEvent h 0x121 pasid (BitVec.ofNat 64 va)
               else
                 match s.tears (l.all (fun x => match x.1 with | .mem _ => true | _ => false)) with
                 | (true, s) => s.tearInto { todo := putPieces (inboundPuts l data) }
                 | (false, s) => s.inboundStore l data
      else
        match l with
        | [(.device pa, n)] => (match s.mmioRoute pa with
            | .ok (k, addr) => s.send { sub := k, addr := addr, size := n }
            | .error _ => refuse s 0x04D va)
        | _ =>
          match s.tears (l.all (fun x => match x.1 with | .mem _ => true | _ => false)) with
          | (true, s) => s.tearInto { todo := getPieces (inboundGets l), next := .reply fn }
          | (false, s) =>
          let (b, bad) := s.inboundLoad l
          s.send { sub := fnSub fn, addr := fn, data := some b, size := b.length, poison := bad }

/-- INBOUND_DMA (R454): an untranslated request of an endpoint; from an NTB its address is an offset in the NTB's BAR, which
an inbound window maps (R462). Requests with a translation that ATSINV has made void are refused (R457). -/
def execInboundDma (fn pasid va : Nat) (write : Bool) (data : List Byte) (s : State) : Out :=
  s.fromEndpoint fn (fun f =>
    let h := fnSub fn / 8 / 6
    if (s.sub (fnSub fn)).mode = 1 then
      match ((s.sub (fnSub fn)).wins.all.map (·.2)).find? (fun w => w.inbound && w.off ≤ va && va < w.off + w.size) with
      | none => (if write then s else s.send { sub := fnSub fn, addr := fn, refused := true }).logEvent h 0x123 0 (BitVec.ofNat 64 va)
      | some w => s.serveInbound h fn w.pasid (w.tgt + (va - w.off)) write false data
    else if (f.refuse ∧ f.given.contains (pasid, va / pageBytes)) ∨ (!f.bound pasid ∧ !s.deadPasid pasid) then
      (if write then s else s.send { sub := fnSub fn, addr := fn, refused := true }).logEvent h 0x04D pasid (BitVec.ofNat 64 va)
    else s.serveInbound h fn pasid va write true data)

/-- INBOUND_COUNTER_WRITE (R230, R462). -/
def execInboundCounterWrite (pasid va size data : Nat) (s : State) : Out :=
  .next (
    let h := s.hubFor pasid
    match s.inbound h pasid va true false with
    | (.ctr pa, s) => s.counterWrite h pasid va pa size (data % 2 ^ (8 * size))
    | (.refuse c, s) => s.logEvent h c pasid (BitVec.ofNat 64 va)
    | (_, s) => s.logEvent h 0x04D pasid (BitVec.ofNat 64 va))

/-- The sub-link whose inbound windows serve an address of a PASID (R462). -/
def State.inboundSub (s : State) (pasid va : Nat) : Nat :=
  ((s.subs.all.find? (fun e => e.2.wins.all.any (fun w => w.2.inbound && w.2.pasid = pasid && w.2.tgt ≤ va && va < w.2.tgt + w.2.size))).map
    (fun (e : Nat × Sub) => e.1)).getD 0

/-- INBOUND_FETCHADD (R230): an AtomicOp to a COUNTER page. DEDUCED (log 79). -/
def execInboundFetchadd (pasid va size data : Nat) (fetchAdd : Bool) (s : State) : Out :=
  .next (
    let h := s.hubFor pasid
    let k := s.inboundSub pasid va
    let refuse (s : State) (c : Code) : State := (s.send { sub := k, addr := va, refused := true }).logEvent h c pasid (BitVec.ofNat 64 va)
    match s.inbound h pasid va true false with
    | (.ctr pa, s) =>
      if !fetchAdd ∨ size ≠ 8 ∨ 2 ^ 32 ≤ data ∨ va % 8 ≠ 0 then refuse s 0x120
      else s.emit { ctr := .mem pa, act := .add (BitVec.ofNat 64 data), who := .port h true, scope := some 6, pasid := pasid
                    va := BitVec.ofNat 64 va, reg := k }
    | (.refuse c, s) => refuse s c
    | (_, s) => refuse s 0x04D)

-- Completions and timeouts of the device's own requests (R437, R457, R463, R465) ------------------------------------------------

/-- PEER_FETCHADD_COMPLETION (R230, R463): the old value, or an error: a peer's translation failure is 0x126. -/
def execPeerFetchaddCompletion (op : Nat) (err : Option (Fin 8)) (old : BitVec 64) (s : State) : Out :=
  .next (match s.reqs.find op with
    | none => s
    | some r =>
      match r.kind with
      | .fetchAdd o =>
          match err with
          | none => ({ s with reqs := s.reqs.del op } : State).answer o (.value old)
          | some k => s.failReq op r (if k.val = 6 then 0x126 else 0x122)
      | _ => s)

/-- CONFIGURATION_WRITE_COMPLETION (R465). -/
def execConfigurationWriteCompletion (req : Nat) (err : Option (Fin 8)) (s : State) : Out :=
  .next (match s.reqs.find req with
    | none => s
    | some r =>
      match r.kind with
      | .cfgWrite g slot =>
          match err with
          | none => ({ s with reqs := s.reqs.del req } : State).wakes ⟨g, slot⟩
          | some k => s.failReq req r (codeOf 4 1 k.val)
      | _ => s)

/-- The timeout of a request in microseconds, and its code (R437). DESIGN CHOICE (log 63). -/
def ReqKind.limit : ReqKind → Nat × Code
  | .iold _ _ _ _ _ cfg => (50000, if cfg then 0x131 else 0x130)
  | .cfgWrite _ _ => (50000, 0x132)
  | .fetchAdd _ => (50000, 0x133)
  | .atsInv _ _ _ => (10000, 0x113)
  | .driver _ k _ => (if k = 0x137 then 2000000 else if k = 0x136 then 1000000 else 30000000, BitVec.ofNat 9 k)

/-- REQUEST_TIMEOUT (R437): a request ends with its code; an abort that times out resets the function, with 0x056 for each lease
of its context (R459). -/
def execRequestTimeout (req : Nat) (s : State) : Out :=
  .next (match s.reqs.find req with
    | none => s
    | some r =>
      let (us, code) := r.kind.limit
      if s.clock < r.since + us * ckUs then s
      else match r.kind with
        | .driver fn _ none =>
            let h := fnSub fn / 8 / 6
            let s := ({ s with reqs := s.reqs.del req } : State).resetFunc h fn
            match s.quarantine.find r.addr with
            | some q => q.leases.foldl (fun (s : State) va => s.logEvent h 0x056 q.pasid (BitVec.ofNat 64 va)) s
            | none => s
        | _ => s.failReq req r code)

/-- ATS_INVALIDATE_COMPLETION (R457). -/
def execAtsInvalidateCompletion (req : Nat) (s : State) : Out :=
  .next (match s.reqs.find req with
    | none => s
    | some r =>
      match r.kind with
      | .atsInv who _ call =>
          let s : State := { s with reqs := s.reqs.del req }
          match who, call with
          | some c, _ => s.wakes c
          | none, none => s.endMigrations
          | none, some _ => s
      | _ => s)

-- Links and peers (R437, R461, R463) -----------------------------------------------------------------------------------------------

/-- LINK_DOWN (R437). -/
def execLinkDown (sub : Nat) (s : State) : Out :=
  .next (if (s.subs.find sub).isSome ∧ (s.sub sub).up then s.subDown sub else s)

/-- LINK_RETRAINED (R437). -/
def execLinkRetrained (sub : Nat) (s : State) : Out :=
  .next (if (s.subs.find sub).isSome ∧ !(s.sub sub).up then s.subUp sub else s)

/-- PEER_RESET (R463): requests to the peer end with 0x125, or 0x124 when its link goes down, and its inbound windows are
closed. -/
def execPeerReset (peer : Nat) (linkLost : Bool) (s : State) : Out :=
  .next (match s.peers.find peer with
    | none => s
    | some k =>
      let s := s.failSub k (fun _ => if linkLost then 0x124 else 0x125)
      s.updSub k (fun u => { u with up := u.up && !linkLost, wins := u.wins.filter (fun e => !(e.2.any (·.inbound))) }))

/-- IDE_INTEGRITY_FAILURE (R461): the stream becomes insecure, and the functions behind it are reset. -/
def execIdeIntegrityFailure (sub stream : Nat) (sequence : Bool) (s : State) : Out :=
  .next (match (s.sub sub).streams.find stream with
    | none => s
    | some x =>
      if !x.keyed ∨ x.insecure then s
      else
        let h := sub / 8 / 6
        let s := (s.updSub sub (fun u => { u with streams := u.streams.put stream { x with insecure := true, refreshing := none } })).logEvent h
          (if sequence then 0x119 else 0x118)
        (s.funcs.keys.filter (fun fn => fnSub fn = sub && (((s.funcs.find fn).bind (·.stream)).getD 64) = stream)).foldl
          (fun (s : State) fn => s.resetFunc h fn) s)

/-- IDE_REFRESH_TIMEOUT (R461): after 10 ms the old key set is retired anyway. -/
def execIdeRefreshTimeout (sub stream : Nat) (s : State) : Out :=
  .next (match (s.sub sub).streams.find stream with
    | none => s
    | some x =>
      match x.refreshing with
      | none => s
      | some t =>
        if s.clock < t + 10000 * ckUs then s
        else (s.updSub sub (fun u => { u with streams := u.streams.put stream { x with refreshing := none } })).logEvent (sub / 8 / 6) 0x11A)

-- Quarantine (R459) ---------------------------------------------------------------------------------------------------------------

/-- QUARANTINE_SEAL (R459 step 4): with every ATS invalidation completed, and the commands of the context as the drivers count
them, its pages are sealed, cleared and freed. -/
def execQuarantineSeal (ctx : Nat) (s : State) : Out :=
  .next (match s.quarantine.find ctx with
    | none => s
    | some q =>
      if q.sealed ∨ s.invalOpen none then s
      else
        let s : State := { s with
          quarantine := s.quarantine.put ctx { q with sealed := true }
          reqs := s.reqs.filter (fun e => !(e.2.any (fun r => match r.kind with | .driver _ _ none => r.addr = ctx | _ => false))) }
        q.pages.foldl (fun (s : State) p => s.clearFrames (s.hubFor q.pasid) q.pasid (BitVec.ofNat 64 p.1) p.2 pageBytes) s)

end Sys2Proof.Machine
end

