-- ==== Sys2Proof/Machine/Power.lean ====
section
/-! DEFINITION. The power alarm, retention, reset and the life cycle (R472 to R479, R481). -/

namespace Sys2Proof.Machine

-- The power alarm (R473) ----------------------------------------------------------------------------------------------

/-- POWER_ALARM_RAISE (R473): a current strictly above the threshold. -/
def execPowerAlarmRaise (amps : Nat) (s : State) : Out :=
  .next (if s.alarmAt < amps then { s with alarm := true } else s)

/-- POWER_ALARM_LOWER (R473): the engines run in full from their next step on, and the next rise is logged anew. DEDUCED (log 92). -/
def execPowerAlarmLower (s : State) : Out :=
  .next { s with alarm := false, cores := s.cores.map (fun e => (e.1, e.2.map (fun (c : Core) => { c with narrow := false }))) }

-- Retention entry (R474) ------------------------------------------------------------------------------------------------

/-- The compute teams on cores, which retention entry pre-empts. -/
def State.awakeTeams (s : State) : List (Nat × Team) := s.teams.all.filter (fun e => e.2.kind = .compute && e.2.onCore)

/-- Every resident team is pre-empted with the cause of the entry; one that a trap has stopped and that found no room is saved now (R474
step 2). -/
def State.preemptAll (s : State) (cause : Code) : State :=
  let (stopped, going) := s.awakeTeams.partition (fun e => e.2.run = .trapped)
  (stopped.foldl (fun (s : State) (e : Nat × Team) => s.stopSave e.1) s).preemptTeams (going.map (·.1)) cause

/-- Every dirty byte is written back, and what loses power is lost: L1, read-only sectors, translations and latches (R474 steps 4
and 6). -/
def State.powerDown (s : State) : State :=
  let s := s.cores.keys.foldl (fun (s : State) k => s.writeBackAll k) s
  { s with
    cores := s.cores.map (fun e => (e.1, e.2.map (fun (c : Core) => { c with l1 := [], ro := [], lines := [], tlb := [], latches := [] })))
    fieldTlb := [], tte := [], ta := [], power := .retention }

/-- Retention entry goes on: it ends once no compute team is on a core, no prologue runs and no migration is past its step 3
(R357, R474). DEDUCED (log 80). -/
def State.entryStep (s : State) : State :=
  match s.power with
  | .entering cause =>
      if s.awakeTeams ≠ [] then s.preemptAll cause
      else if s.teams.all.any (fun e => e.2.kind = .prologue) ∨ s.migrations ≠ [] then s
      else s.powerDown
  | _ => s

/-- The step does not go on with a resume (R477). -/
def notResume : Event → Bool
  | .resume _ _ => false
  | _ => true

/-- RETENTION_ENTRY (R474, R477): PFWARN_N, the RETENTION service or a thermal limit. A cause that comes during entry or
retention is only logged. DEDUCED (log 80). -/
def execRetentionEntry (cause : Fin 3) (s : State) : Out :=
  let code := codeOf 5 2 cause.val
  .next (match s.power with
    | .off => s
    | .running => ({ s.logEvent 0 code with power := .entering code } : State).entryStep
    | .entering _ => s.logEvent 0 code
    | .retention => s.logEvent 0 code
    | .resuming _ =>
        { s.logEvent 0 code with power := .retention, agenda := s.agenda.filter notResume, again := s.again.filter notResume })

-- Reset (R478, R481) -------------------------------------------------------------------------------------------------------

/-- A sub-link after hot reset: the image's port entry, and nothing else (R434, R478). DEDUCED (log 81). -/
def Sub.hotReset (u : Sub) : Sub :=
  { mode := u.mode, width := u.width, parts := u.parts, speed := u.speed, ide := u.ide, reported := u.reported
    streams := u.streams.map (fun e => (e.1, e.2.map (fun _ => ({} : Stream)))) }

/-- A function after hot reset: to be bound anew when its link is trained (R436, R478). -/
def Func.hotReset (f : Func) : Func :=
  { f with state := if f.state = 0 then 0 else 3, ats := false, pri := false, refuse := false, pasids := [], queues := [], filters := []
           groups := [], pageReqs := 0, given := [] }

/-- The codes of where the image came from (R481). -/
def bootCodes : BootSource → List Code
  | .flash => []
  | .nvme => [0x173, 0x176]
  | .ntb => [0x173, 0x176, 0x177]

/-- The device after a reset: the contexts' end goes to the event record of the security block, which survives with the fuses and
flash; everything else is as at power-on (R361, R478). DEDUCED (log 81). -/
def State.afterReset (s : State) (cause : ResetCause) (boot : BootSource) : State :=
  { State.reset with
    life := s.life
    fwVersion := s.fwVersion
    fwMinimum := s.fwMinimum
    fresh := s.fresh
    events := s.events ++ (if cause = .lifeCycle then 0x17C else 0x17D) :: bootCodes boot
    subs := s.subs.map (fun e => (e.1, e.2.map Sub.hotReset))
    funcs := s.funcs.map (fun e => (e.1, e.2.map Func.hotReset))
    again := if boot = .flash then [] else [.reset .recoveryBoot .flash] }

/-- RESET (R478, R481). An image that was fetched is written to flash, and a recovery boot follows. A device without supplies takes
no reset but that of power-on. -/
def execReset (cause : ResetCause) (boot : BootSource) (s : State) : Out :=
  .next (if s.power = .off ∧ cause ≠ .powerOn then s else s.afterReset cause boot)

-- Resume (R476, R477) -----------------------------------------------------------------------------------------------------------

/-- Step 3 of resume: an endpoint that lost its state is reinitialised (0x154). Which endpoint did is outside the device. -/
def State.checkEndpoints (s : State) : State :=
  s.funcs.keys.foldl (fun (s : State) fn =>
    let lost := bit (Config.freeWord s.fresh) 0
    let s : State := { s with fresh := s.fresh + 1 }
    if lost ∧ (s.funcs.find fn).any (fun f => f.state = 1) then
      ({ s with funcs := s.funcs.upd fn (fun f => { f with given := [], groups := [], pageReqs := 0 }) } : State).logEvent (fnSub fn / 8 / 6) 0x154
    else s) s

/-- RESUME (R476, R477): each step of a resume makes the next one due. Memory that does not leave self-refresh ends in a reset;
a CXL device that is lost takes its pages away. -/
def execResume (lostCxl : List Nat) (refreshFailed : Bool) (s : State) : Out :=
  let go (s : State) (n : Nat) : State := { s with power := .resuming n, again := s.again ++ [.resume lostCxl refreshFailed] }
  .next (match s.power with
    | .retention =>
        if refreshFailed then
          let s' := s.afterReset .resumeAbandoned .flash
          { s' with events := s.events ++ [0x156, 0x157, 0x17D] }
        else go s 1
    | .resuming 1 =>
        let lost := lostCxl.filter (fun k => (s.sub k).mode = 2 ∧ (s.sub k).up)
        go (lost.foldl (fun (s : State) k => (s.updSub k (fun u => { u with up := false })).logEvent (k / 8 / 6) 0x155) s) 2
    | .resuming 2 => go s.checkEndpoints 3
    | .resuming _ => { s with power := .running }.logEvent 0 0x153
    | _ => s)

-- Thermal trip, supplies and the life cycle (R472, R479) ---------------------------------------------------------------------------

/-- THERMAL_TRIP (R472): THERMTRIP_N is driven low. -/
def execThermalTrip (die : Nat) (s : State) : Out := .next (if die < 10 then { s with thermtrip := false } else s)

/-- SUPPLY_REMOVAL (R472): all volatile state is lost; fuses, flash and the security block's record stay. -/
def execSupplyRemoval (s : State) : Out :=
  .next { State.reset with
    life := s.life, fwVersion := s.fwVersion, fwMinimum := s.fwMinimum, fresh := s.fresh, events := s.events, thermtrip := s.thermtrip
    subs := s.subs.map (fun e => (e.1, e.2.map Sub.hotReset)), funcs := s.funcs.map (fun e => (e.1, e.2.map Func.hotReset)), power := .off }

/-- The changes of life-cycle state that exist (R479). -/
def lifeNext : LifeCycle → LifeCycle
  | .manufacture => .provisioned
  | .provisioned => .deployed
  | .deployed => .retired
  | .retired => .provisioned

/-- LIFE_CYCLE_CHANGE (R479): a signed command for the next state takes effect and resets the device; no other does anything. -/
def execLifeCycleChange (tgt : LifeCycle) (signed : Bool) (s : State) : Out :=
  .next (if signed ∧ lifeNext s.life = tgt ∧ s.power ≠ .off then ({ s with life := tgt } : State).afterReset .lifeCycle .flash else s)

end Sys2Proof.Machine
end

