-- ==== Sys2Proof/Machine/Scalar.lean ====
section
/-! DEFINITION. FORM 0x0 SCALAR: 64-bit integer instructions (R87 to R98). -/

namespace Sys2Proof.Machine

/-- A scalar result computed from the group (R90). -/
def State.scalar (s : State) (d : SReg) (h : Group → Word) (size : Nat := 8) (lat : Nat := 2) : Out :=
  s.word .any (fun n => s.write n [.s d.val (h n.g)] lat 0 false size)

/-- SADD (R90). -/
def execSadd (d a b : SReg) (s : State) : Out := s.scalar d (fun g => g.sget a.val + g.sget b.val)
/-- SSUB (R90). -/
def execSsub (d a b : SReg) (s : State) : Out := s.scalar d (fun g => g.sget a.val - g.sget b.val)
/-- SMUL (R90). -/
def execSmul (d a b : SReg) (s : State) : Out := s.scalar d (fun g => g.sget a.val * g.sget b.val) 8 4
/-- SMULH (R90). -/
def execSmulh (n : Sgn) (d a b : SReg) (s : State) : Out := s.scalar d (fun g => mulHigh n (g.sget a.val) (g.sget b.val)) 8 4
/-- SDIV (R91, R56). -/
def execSdiv (n : Sgn) (la : La) (d a b : SReg) (s : State) : Out :=
  s.word .any (fun w => s.writeLater w 36 la [.s d.val] [.s d.val (divOf n (w.g.sget a.val) (w.g.sget b.val))])
/-- SREM (R91, R56). -/
def execSrem (n : Sgn) (la : La) (d a b : SReg) (s : State) : Out :=
  s.word .any (fun w => s.writeLater w 36 la [.s d.val] [.s d.val (remOf n (w.g.sget a.val) (w.g.sget b.val))])
/-- SAND (R90). -/
def execSand (d a b : SReg) (s : State) : Out := s.scalar d (fun g => g.sget a.val &&& g.sget b.val)
/-- SOR (R90). -/
def execSor (d a b : SReg) (s : State) : Out := s.scalar d (fun g => g.sget a.val ||| g.sget b.val)
/-- SXOR (R90). -/
def execSxor (d a b : SReg) (s : State) : Out := s.scalar d (fun g => g.sget a.val ^^^ g.sget b.val)
/-- SSHL (R92). -/
def execSshl (d a : SReg) (b : ShAmt) (s : State) : Out := s.scalar d (fun g => shl (g.sget a.val) (g.amount b))
/-- SSHR (R92). -/
def execSshr (d a : SReg) (b : ShAmt) (s : State) : Out := s.scalar d (fun g => shr (g.sget a.val) (g.amount b))
/-- SSRA (R92). -/
def execSsra (d a : SReg) (b : ShAmt) (s : State) : Out := s.scalar d (fun g => sra (g.sget a.val) (g.amount b))
/-- SMIN (R90). -/
def execSmin (n : Sgn) (d a b : SReg) (s : State) : Out := s.scalar d (fun g => minOf n (g.sget a.val) (g.sget b.val))
/-- SMAX (R90). -/
def execSmax (n : Sgn) (d a b : SReg) (s : State) : Out := s.scalar d (fun g => maxOf n (g.sget a.val) (g.sget b.val))
/-- SCLZ (R93). -/
def execSclz (d a : SReg) (s : State) : Out := s.scalar d (fun g => BitVec.ofNat 64 (clz (g.sget a.val)))
/-- SPOPC (R93). -/
def execSpopc (d a : SReg) (s : State) : Out := s.scalar d (fun g => BitVec.ofNat 64 (popcount (g.sget a.val)))
/-- SBFX (R94). -/
def execSbfx (sx : Bool) (d a : SReg) (pos : Fin 64) (len : BitVec 7) (s : State) : Out :=
  s.scalar d (fun g => bfx sx (g.sget a.val) pos.val len.toNat)
/-- SBFI (R94). -/
def execSbfi (d a : SReg) (pos : Fin 64) (len : BitVec 7) (s : State) : Out :=
  s.scalar d (fun g => bfi (g.sget d.val) (g.sget a.val) pos.val len.toNat)
/-- SCMP (R95): bit i of pd for each lane of em. -/
def execScmp (cc : Cc) (n : Sgn) (d : PReg) (a b : SReg) (s : State) : Out :=
  s.word .any (fun w =>
    s.write w [.p d.val w.f.em (if Cc.holds cc n (w.g.sget a.val) (w.g.sget b.val) then BitVec.allOnes 32 else 0)] 2)
/-- SSEL (R96). -/
def execSsel (g : Guard) (d a b : SReg) (sel : Guard) (s : State) : Out :=
  s.word .any (fun w =>
    if guardTrue w.f w.g g then s.write w [.s d.val (if guardTrue w.f w.g sel then w.g.sget a.val else w.g.sget b.val)] 2
    else s.write w [] 2)
/-- SMOV (R97). -/
def execSmov (d a : SReg) (s : State) : Out := s.scalar d (fun g => g.sget a.val)
/-- SADDI (R97). -/
def execSaddi (d a : SReg) (imm : BitVec 30) (s : State) : Out := s.scalar d (fun g => g.sget a.val + imm.signExtend 64)
/-- SMOVI (R97). -/
def execSmovi (d : SReg) (imm : BitVec 30) (s : State) : Out := s.scalar d (fun _ => imm.signExtend 64)
/-- SMOVI.l (R97, R39). -/
def execSmoviL (d : SReg) (lit : BitVec 64) (s : State) : Out := s.scalar d (fun _ => lit) 16
/-- SLIT (R97, R39): PC + L. -/
def execSlit (d : SReg) (lit : BitVec 64) (s : State) : Out :=
  s.word .any (fun w => s.write w [.s d.val (w.f.pc + lit)] 2 0 false 16)
/-- SADDR (R98). -/
def execSaddr (d a b : SReg) (sc : Fin 8) (disp : BitVec 19) (s : State) : Out :=
  s.scalar d (fun g => g.sget a.val + (g.sget b.val <<< sc.val) + disp.signExtend 64)

end Sys2Proof.Machine
end

