-- ==== Sys2Proof/Machine/Vint.lean ====
section
/-! DEFINITION. FORM 0x1 VINT: 32-bit lane integer instructions (R99 to R109). -/

namespace Sys2Proof.Machine

/-- A result in each active lane, computed from the group and the lane (R99). -/
def State.lanes (s : State) (d : VReg) (h : Group → Nat → Lane) (size : Nat := 8) (lat : Nat := 4) : Out :=
  s.word .cores (fun n => s.write n (laneVals n.f.em (fun i => [.v d.val i (h n.g i)])) lat 0 false size)

/-- D[i] := A[i] op B[i] (R100). -/
def State.vop (s : State) (d a : VReg) (b : VSrc) (h : Lane → Lane → Lane) (lat : Nat := 4) : Out :=
  s.lanes d (fun g i => h (g.vget a.val i) (g.src b i)) 8 lat

/-- VADD (R100). -/
def execVadd (d a : VReg) (b : VSrc) (s : State) : Out := s.vop d a b (· + ·)
/-- VSUB (R100). -/
def execVsub (d a : VReg) (b : VSrc) (s : State) : Out := s.vop d a b (· - ·)
/-- VMUL (R100). -/
def execVmul (d a : VReg) (b : VSrc) (s : State) : Out := s.vop d a b (· * ·) 6
/-- VMULH (R100). -/
def execVmulh (n : Sgn) (d a : VReg) (b : VSrc) (s : State) : Out := s.vop d a b (mulHigh n) 6
/-- VMAD (R100). -/
def execVmad (d a : VReg) (b : VSrc) (s : State) : Out :=
  s.lanes d (fun g i => g.vget d.val i + g.vget a.val i * g.src b i) 8 6
/-- VADDS (R101). -/
def execVadds (n : Sgn) (d a : VReg) (b : VSrc) (s : State) : Out := s.vop d a b (fun x y => clamp 32 n (n.val x + n.val y))
/-- VSUBS (R101). -/
def execVsubs (n : Sgn) (d a : VReg) (b : VSrc) (s : State) : Out := s.vop d a b (fun x y => clamp 32 n (n.val x - n.val y))
/-- VAND (R100). -/
def execVand (d a : VReg) (b : VSrc) (s : State) : Out := s.vop d a b (· &&& ·)
/-- VOR (R100). -/
def execVor (d a : VReg) (b : VSrc) (s : State) : Out := s.vop d a b (· ||| ·)
/-- VXOR (R100). -/
def execVxor (d a : VReg) (b : VSrc) (s : State) : Out := s.vop d a b (· ^^^ ·)
/-- VSHL (R102). -/
def execVshl (d a : VReg) (b : VShAmt) (s : State) : Out := s.lanes d (fun g i => shl (g.vget a.val i) (g.vamount b i))
/-- VSHR (R102). -/
def execVshr (d a : VReg) (b : VShAmt) (s : State) : Out := s.lanes d (fun g i => shr (g.vget a.val i) (g.vamount b i))
/-- VSRA (R102). -/
def execVsra (d a : VReg) (b : VShAmt) (s : State) : Out := s.lanes d (fun g i => sra (g.vget a.val i) (g.vamount b i))
/-- VMIN (R100). -/
def execVmin (n : Sgn) (d a : VReg) (b : VSrc) (s : State) : Out := s.vop d a b (minOf n)
/-- VMAX (R100). -/
def execVmax (n : Sgn) (d a : VReg) (b : VSrc) (s : State) : Out := s.vop d a b (maxOf n)
/-- VABS (R103). -/
def execVabs (sat : Bool) (d a : VReg) (s : State) : Out := s.lanes d (fun g i => absOf sat (g.vget a.val i))
/-- VCLZ (R103). -/
def execVclz (d a : VReg) (s : State) : Out := s.lanes d (fun g i => BitVec.ofNat 32 (clz (g.vget a.val i)))
/-- VPOPC (R103). -/
def execVpopc (d a : VReg) (s : State) : Out := s.lanes d (fun g i => BitVec.ofNat 32 (popcount (g.vget a.val i)))
/-- VBFX (R104). -/
def execVbfx (sx : Bool) (d a : VReg) (pos : Fin 64) (len : BitVec 7) (s : State) : Out :=
  s.lanes d (fun g i => bfx sx (g.vget a.val i) pos.val len.toNat)
/-- VBFI (R104). -/
def execVbfi (d a : VReg) (pos : Fin 64) (len : BitVec 7) (s : State) : Out :=
  s.lanes d (fun g i => bfi (g.vget d.val i) (g.vget a.val i) pos.val len.toNat)
/-- VCMP (R105): bit i of pd for each active lane. -/
def execVcmp (cc : Cc) (n : Sgn) (d : PReg) (a : VReg) (b : VSrc) (s : State) : Out :=
  s.word .cores (fun w =>
    let x := (lanesOf w.f.em).foldl (fun (m : Mask) i =>
      if Cc.holds cc n (w.g.vget a.val i) (w.g.src b i) then m ||| laneBit i else m) 0
    s.write w [.p d.val w.f.em x] 4)
/-- VSEL (R106): the guard says which lanes are written, the selector what each receives. -/
def execVsel (g : Guard) (d a : VReg) (b : VSrc) (sel : Guard) (s : State) : Out :=
  s.word .cores (fun w =>
    s.write w (laneVals (activeLanes w.f w.g g) (fun i =>
      [.v d.val i (if bit (w.g.guard sel) i then w.g.vget a.val i else w.g.src b i)])) 4)
/-- VMOV (R107). -/
def execVmov (d a : VReg) (s : State) : Out := s.lanes d (fun g i => g.vget a.val i)
/-- VMOVI (R107). -/
def execVmovi (d : VReg) (imm : BitVec 30) (s : State) : Out := s.lanes d (fun _ _ => imm.signExtend 32)
/-- VMOVI.l (R107, R39). -/
def execVmoviL (d : VReg) (lit : BitVec 32) (s : State) : Out := s.lanes d (fun _ _ => lit) 16
/-- VADDI (R107). -/
def execVaddi (d a : VReg) (imm : BitVec 30) (s : State) : Out := s.lanes d (fun g i => g.vget a.val i + imm.signExtend 32)
/-- VBCAST (R107). -/
def execVbcast (hi : Bool) (d : VReg) (a : SReg) (s : State) : Out :=
  s.lanes d (fun g _ => (g.sget a.val).extractLsb' (if hi then 32 else 0) 32)
/-- VADDR (R108): 64-bit lane addresses. -/
def execVaddr (n : Sgn) (d a b : VReg) (sc : Fin 8) (disp : BitVec 19) (s : State) : Out :=
  s.word .cores (fun w =>
    s.write w (laneVals w.f.em (fun i =>
      let x := w.g.vget b.val i
      let idx : Word := match n with
        | .un => x.setWidth 64
        | .sg => x.signExtend 64
      pairVals d.val i (w.g.pairGet a.val i + (idx <<< sc.val) + disp.signExtend 64))) 4)
/-- VDP4 (R109). -/
def execVdp4 (na nb : Sgn) (d a : VReg) (b : VSrc) (s : State) : Out :=
  s.lanes d (fun g i => dp4 na nb (g.vget d.val i) (g.vget a.val i) (g.src b i)) 8 6

end Sys2Proof.Machine
end

