-- ==== Sys2Proof/Machine/Xlane.lean ====
section
/-! DEFINITION. FORM 0x3 XLANE: conversion, packing, lane movement, reductions, votes, predicates and the execution
mask (R126 to R138). -/

namespace Sys2Proof.Machine

/-- VCVT of one lane: the result in its half of D, the other half kept (R126). DEDUCED (log 29). -/
def cvtLane (dt st : CvtTy) (rm : Rm) (dhi shi : Bool) (d a : Lane) : FRes :=
  let r := cvtOf dt st rm (if cvtHalf st then halfOf a shi else a.toNat)
  if cvtHalf dt then
    (if dhi then r.1 * 2 ^ 16 + d.toNat % 2 ^ 16 else d.toNat / 2 ^ 16 * 2 ^ 16 + r.1, r.2)
  else r

/-- VCVT (R126). DEDUCED (log 29). -/
def execVcvt (dt st : CvtTy) (rm : Rm) (dhi shi : Bool) (d a : VReg) (s : State) : Out :=
  s.flt d (fun g i => cvtLane dt st rm dhi shi (g.vget d.val i) (g.vget a.val i))

/-- The 32 lane values that VNPK writes, with its flags; inactive lanes are read as +0 (R127). -/
def npkLanes (bl : Bl) (m : Mask) (g : Group) (a : Nat) : List Nat × BitVec 5 :=
  let x := (List.range 32).map (fun i => if bit m i then (g.vget a i).toNat else 0)
  let bytes (q : List (BitVec 8)) : List Nat := (List.range 8).map (fun k =>
    (List.range 4).foldl (fun a j => a + (q.getD (4 * k + j) 0).toNat * 2 ^ (8 * j)) 0)
  let pad (l : List Nat) : List Nat := l ++ List.replicate (32 - l.length) 0
  match bl with
  | .b16 =>
      let (q0, e0, m0, f0) := npPack (x.take 16)
      let (q1, e1, m1, f1) := npPack (x.drop 16)
      (pad (bytes (q0 ++ q1) ++ [m0 * 256 + e0, m1 * 256 + e1]), f0 ||| f1)
  | .b32 =>
      let (q, e, m, f) := npPack x
      (pad (bytes q ++ [m * 256 + e]), f)

/-- VNPK (R127). -/
def execVnpk (bl : Bl) (d a : VReg) (s : State) : Out :=
  s.word .cores (fun n =>
    let r := npkLanes bl n.f.em n.g a.val
    s.write n (laneVals n.f.em (fun i => [.v d.val i (BitVec.ofNat 32 (r.1.getD i 0))])) 8 r.2 true)

/-- Element i of the packed lanes of va (R127, R128). -/
def nupkElem (bl : Bl) (p : Nat) (mid : Bool) (g : Group) (a i : Nat) : FRes :=
  let q := (g.vget a (i / 4)).extractLsb' (8 * (i % 4)) 8
  let ent := (g.vget a (match bl with | .b16 => 8 + i / 16 | .b32 => 8)).toNat
  match bl with
  | .b16 => npElem p mid q (ent % 256) (ent / 256 % 256) (i % 16)
  | .b32 => npElem p mid q (ent % 256) (ent / 256 % 2 ^ 16) i

/-- VNUPK (R128). -/
def execVnupk (bl : Bl) (p : Fin 16) (mid : Bool) (d a : VReg) (s : State) : Out :=
  s.flt d (fun g i => nupkElem bl p.val mid g a.val i)

/-- VSHUF (R130). -/
def execVshuf (d a b : VReg) (s : State) : Out :=
  s.word .cores (fun n => s.write n (laneVals n.f.em (fun i => [.v d.val i (n.g.vget a.val ((n.g.vget b.val i).toNat % 32))])) 4)
/-- VROT (R131). -/
def execVrot (d a : VReg) (k : LaneSel) (s : State) : Out :=
  s.word .cores (fun n => s.write n (laneVals n.f.em (fun i => [.v d.val i (n.g.vget a.val ((i + n.g.laneSel k) % 32))])) 4)

/-- One node of a reduction tree (R132). -/
def redNode (op : RedOp) (rm : Rm) (x y : FRes) : FRes :=
  let a : Lane := BitVec.ofNat 32 x.1
  let b : Lane := BitVec.ofNat 32 y.1
  let fl := x.2 ||| y.2
  let int (v : Lane) : FRes := (v.toNat, fl)
  match op with
  | .add => int (a + b)
  | .minS => int (minOf .sg a b)
  | .maxS => int (maxOf .sg a b)
  | .minN => int (minOf .un a b)
  | .maxN => int (maxOf .un a b)
  | .and => int (a &&& b)
  | .or => int (a ||| b)
  | .xor => int (a ^^^ b)
  | .fadd => let r := fmtF32.add rm x.1 y.1; (r.1, r.2 ||| fl)
  | .fmin => let r := minmaxF false x.1 y.1; (r.1, r.2 ||| fl)
  | .fmax => let r := minmaxF true x.1 y.1; (r.1, r.2 ||| fl)

/-- The value when no lane is active (R132). -/
def redEmpty : RedOp → Nat
  | .add => 0
  | .minS => 0x7FFFFFFF
  | .maxS => 0x80000000
  | .minN => 0xFFFFFFFF
  | .maxN => 0
  | .and => 0xFFFFFFFF
  | .or => 0
  | .xor => 0
  | .fadd => 0
  | .fmin => 0x7F800000
  | .fmax => 0xFF800000

/-- The operation computes on floating-point values (R132). -/
def floatOp : RedOp → Bool
  | .fadd => true
  | .fmin => true
  | .fmax => true
  | _ => false

/-- A lane as a leaf: a signalling NaN that enters a floating-point reduction sets NV (R59). -/
def redLeaf (op : RedOp) (x : Lane) : FRes :=
  (x.toNat, if floatOp op ∧ (fmtF32.unpack x.toNat).isSnan then fNV else 0)

/-- A floating-point reduction returns no NaN but the canonical one, also where a lone lane passes up the tree unchanged (R59, R76).
DEDUCED (log 108). -/
def redResult (op : RedOp) (r : FRes) : FRes :=
  if floatOp op ∧ (fmtF32.unpack r.1).isNan then (fmtF32.nan, r.2) else r

/-- The tree of R76 over the lanes of a mask. -/
def redTree (op : RedOp) (rm : Rm) (m : Mask) (g : Group) (a : Nat) : FRes :=
  redResult op ((tree (redNode op rm) ((List.range 32).map (fun i => if bit m i then some (redLeaf op (g.vget a i)) else none))).getD
    (redEmpty op, 0))

/-- VRED (R132). -/
def execVred (la : La) (op : RedOp) (rm : Rm) (d : SReg) (a : VReg) (s : State) : Out :=
  s.word .cores (fun n =>
    let r := redTree op rm n.f.em n.g a.val
    s.writeLater n 12 la [.s d.val] [.s d.val (BitVec.ofNat 64 r.1)] r.2 (floatOp op))
/-- VSCAN (R132): lane i takes the tree with every lane above i absent. -/
def execVscan (la : La) (op : RedOp) (rm : Rm) (d a : VReg) (s : State) : Out :=
  s.word .cores (fun n =>
    let r := laneFloats n.f.em d.val (fun i => redTree op rm (n.f.em &&& BitVec.ofNat 32 (2 ^ (i + 1) - 1)) n.g a.val)
    s.writeLater n 12 la [.v d.val] r.1 r.2 (floatOp op))

/-- VVOTE (R133). -/
def execVvote (v : Vote) (a : PReg) (s : State) : Out :=
  s.word .cores (fun n =>
    let x := n.g.pget a.val &&& n.f.em
    let all (b : Bool) : Mask := if b then BitVec.allOnes 32 else 0
    s.write n (match v with
      | .any d => [.p d.val n.f.em (all (x != 0))]
      | .all d => [.p d.val n.f.em (all (x == n.f.em))]
      | .uni d => [.p d.val n.f.em (all (x == 0 || x == n.f.em))]
      | .ballot d => [.s d.val (x.setWidth 64)]) 4)

/-- VEXT (R131). -/
def execVext (sx : Bool) (d : SReg) (a : VReg) (k : LaneSel) (s : State) : Out :=
  s.word .cores (fun n =>
    let x := n.g.vget a.val (n.g.laneSel k)
    s.write n [.s d.val (if sx then x.signExtend 64 else x.setWidth 64)] 4)
/-- VINS (R131). -/
def execVins (d : VReg) (a : SReg) (k : LaneSel) (s : State) : Out :=
  s.word .cores (fun n =>
    let i := n.g.laneSel k
    s.write n (if bit n.f.em i then [.v d.val i ((n.g.sget a.val).setWidth 32)] else []) 4)
/-- VLANE (R134). -/
def execVlane (le : Bool) (d : VReg) (a : PReg) (s : State) : Out :=
  s.word .cores (fun n =>
    s.write n (laneVals n.f.em (fun i =>
      let below : Mask := BitVec.ofNat 32 (2 ^ (if le then i + 1 else i) - 1)
      [.v d.val i (BitVec.ofNat 32 (popcount (n.g.pget a.val &&& n.f.em &&& below)))])) 4)
/-- PLOG (R135): bit i of pd is TT[2 × a_i + b_i]. -/
def execPlog (tt : BitVec 4) (d a b : PReg) (s : State) : Out :=
  s.word .cores (fun n =>
    let x := n.g.pget a.val
    let y := n.g.pget b.val
    let pick (k : Nat) (m : Mask) : Mask := if bit tt k then m else 0
    s.write n [.p d.val n.f.em
      (pick 3 (x &&& y) ||| pick 2 (x &&& ~~~y) ||| pick 1 (~~~x &&& y) ||| pick 0 (~~~x &&& ~~~y))] 2)
/-- PSET (R136). -/
def execPset (d : PReg) (a : SReg) (s : State) : Out :=
  s.word .cores (fun n => s.write n [.p d.val n.f.em ((n.g.sget a.val).setWidth 32)] 2)
/-- PGET (R136). -/
def execPget (d : SReg) (a : PReg) (s : State) : Out :=
  s.word .cores (fun n => s.write n [.s d.val ((n.g.pget a.val).setWidth 64)] 2)
/-- EMRD (R137). -/
def execEmrd (d : SReg) (s : State) : Out :=
  s.word .cores (fun n => s.write n [.s d.val (n.f.em.setWidth 64)] 2)
/-- EMWR (R138, R174): a value of zero is STOP; the next word issues after EMWR's latency (R110). -/
def execEmwr (a : SReg) (s : State) : Out :=
  s.word .cores (fun n =>
    let v : Mask := (n.g.sget a.val).setWidth 32
    if v &&& ~~~n.f.em ≠ 0 then s.trapNow n { code := 0x022 }
    else if v = 0 then s.endFrag s.cur
    else
      let s := s.done { n with f := { n.f with em := v } } 8 2
      s.leaveAll s.cur.gid (n.g.chain n.f.rcd) (n.f.em &&& ~~~v))

end Sys2Proof.Machine
end

