-- ==== Sys2Proof/Machine/Dispatch.lean ====
section
/-! DEFINITION. The one dispatch from a transition to its meaning. -/

namespace Sys2Proof.Machine

/-- Performs one transition: a Halpi word for the fragment s.cur, or a step of the device. -/
def exec (i : Instr) (s : State) : Host.Outcome State Fault Refusal :=
  match i with
  | .sadd d a b => Sys2Proof.Machine.execSadd d a b s
  | .ssub d a b => Sys2Proof.Machine.execSsub d a b s
  | .smul d a b => Sys2Proof.Machine.execSmul d a b s
  | .smulh n d a b => Sys2Proof.Machine.execSmulh n d a b s
  | .sdiv n la d a b => Sys2Proof.Machine.execSdiv n la d a b s
  | .srem n la d a b => Sys2Proof.Machine.execSrem n la d a b s
  | .sand d a b => Sys2Proof.Machine.execSand d a b s
  | .sor d a b => Sys2Proof.Machine.execSor d a b s
  | .sxor d a b => Sys2Proof.Machine.execSxor d a b s
  | .sshl d a b => Sys2Proof.Machine.execSshl d a b s
  | .sshr d a b => Sys2Proof.Machine.execSshr d a b s
  | .ssra d a b => Sys2Proof.Machine.execSsra d a b s
  | .smin n d a b => Sys2Proof.Machine.execSmin n d a b s
  | .smax n d a b => Sys2Proof.Machine.execSmax n d a b s
  | .sclz d a => Sys2Proof.Machine.execSclz d a s
  | .spopc d a => Sys2Proof.Machine.execSpopc d a s
  | .sbfx sx d a pos len => Sys2Proof.Machine.execSbfx sx d a pos len s
  | .sbfi d a pos len => Sys2Proof.Machine.execSbfi d a pos len s
  | .scmp cc n d a b => Sys2Proof.Machine.execScmp cc n d a b s
  | .ssel g d a b sel => Sys2Proof.Machine.execSsel g d a b sel s
  | .smov d a => Sys2Proof.Machine.execSmov d a s
  | .saddi d a imm => Sys2Proof.Machine.execSaddi d a imm s
  | .smovi d imm => Sys2Proof.Machine.execSmovi d imm s
  | .smoviL d lit => Sys2Proof.Machine.execSmoviL d lit s
  | .slit d lit => Sys2Proof.Machine.execSlit d lit s
  | .saddr d a b sc disp => Sys2Proof.Machine.execSaddr d a b sc disp s
  | .vadd d a b => Sys2Proof.Machine.execVadd d a b s
  | .vsub d a b => Sys2Proof.Machine.execVsub d a b s
  | .vmul d a b => Sys2Proof.Machine.execVmul d a b s
  | .vmulh n d a b => Sys2Proof.Machine.execVmulh n d a b s
  | .vmad d a b => Sys2Proof.Machine.execVmad d a b s
  | .vadds n d a b => Sys2Proof.Machine.execVadds n d a b s
  | .vsubs n d a b => Sys2Proof.Machine.execVsubs n d a b s
  | .vand d a b => Sys2Proof.Machine.execVand d a b s
  | .vor d a b => Sys2Proof.Machine.execVor d a b s
  | .vxor d a b => Sys2Proof.Machine.execVxor d a b s
  | .vshl d a b => Sys2Proof.Machine.execVshl d a b s
  | .vshr d a b => Sys2Proof.Machine.execVshr d a b s
  | .vsra d a b => Sys2Proof.Machine.execVsra d a b s
  | .vmin n d a b => Sys2Proof.Machine.execVmin n d a b s
  | .vmax n d a b => Sys2Proof.Machine.execVmax n d a b s
  | .vabs sat d a => Sys2Proof.Machine.execVabs sat d a s
  | .vclz d a => Sys2Proof.Machine.execVclz d a s
  | .vpopc d a => Sys2Proof.Machine.execVpopc d a s
  | .vbfx sx d a pos len => Sys2Proof.Machine.execVbfx sx d a pos len s
  | .vbfi d a pos len => Sys2Proof.Machine.execVbfi d a pos len s
  | .vcmp cc n d a b => Sys2Proof.Machine.execVcmp cc n d a b s
  | .vsel g d a b sel => Sys2Proof.Machine.execVsel g d a b sel s
  | .vmov d a => Sys2Proof.Machine.execVmov d a s
  | .vmovi d imm => Sys2Proof.Machine.execVmovi d imm s
  | .vmoviL d lit => Sys2Proof.Machine.execVmoviL d lit s
  | .vaddi d a imm => Sys2Proof.Machine.execVaddi d a imm s
  | .vbcast hi d a => Sys2Proof.Machine.execVbcast hi d a s
  | .vaddr n d a b sc disp => Sys2Proof.Machine.execVaddr n d a b sc disp s
  | .vdp4 na nb d a b => Sys2Proof.Machine.execVdp4 na nb d a b s
  | .vfadd rm d a b => Sys2Proof.Machine.execVfadd rm d a b s
  | .vfsub rm d a b => Sys2Proof.Machine.execVfsub rm d a b s
  | .vfmul rm d a b => Sys2Proof.Machine.execVfmul rm d a b s
  | .vfma rm d a b => Sys2Proof.Machine.execVfma rm d a b s
  | .vfnma rm d a b => Sys2Proof.Machine.execVfnma rm d a b s
  | .vfmin d a b => Sys2Proof.Machine.execVfmin d a b s
  | .vfmax d a b => Sys2Proof.Machine.execVfmax d a b s
  | .vfabs d a => Sys2Proof.Machine.execVfabs d a s
  | .vfneg d a => Sys2Proof.Machine.execVfneg d a s
  | .vfcmp cc d a b => Sys2Proof.Machine.execVfcmp cc d a b s
  | .vfclass d a => Sys2Proof.Machine.execVfclass d a s
  | .vfrcp la d a => Sys2Proof.Machine.execVfrcp la d a s
  | .vfrsq la d a => Sys2Proof.Machine.execVfrsq la d a s
  | .vfdiv la rm d a b => Sys2Proof.Machine.execVfdiv la rm d a b s
  | .vfsqrt la rm d a => Sys2Proof.Machine.execVfsqrt la rm d a s
  | .vfexp2 la d a => Sys2Proof.Machine.execVfexp2 la d a s
  | .vflog2 la d a => Sys2Proof.Machine.execVflog2 la d a s
  | .vfrnd rm d a => Sys2Proof.Machine.execVfrnd rm d a s
  | .vhadd hf rm d a b => Sys2Proof.Machine.execVhadd hf rm d a b s
  | .vhmul hf rm d a b => Sys2Proof.Machine.execVhmul hf rm d a b s
  | .vhfma hf rm d a b => Sys2Proof.Machine.execVhfma hf rm d a b s
  | .vfdot2 hf rm d a b => Sys2Proof.Machine.execVfdot2 hf rm d a b s
  | .vcvt dt st rm dhi shi d a => Sys2Proof.Machine.execVcvt dt st rm dhi shi d a s
  | .vnpk bl d a => Sys2Proof.Machine.execVnpk bl d a s
  | .vnupk bl p mid d a => Sys2Proof.Machine.execVnupk bl p mid d a s
  | .vshuf d a b => Sys2Proof.Machine.execVshuf d a b s
  | .vrot d a k => Sys2Proof.Machine.execVrot d a k s
  | .vred la op rm d a => Sys2Proof.Machine.execVred la op rm d a s
  | .vscan la op rm d a => Sys2Proof.Machine.execVscan la op rm d a s
  | .vvote v a => Sys2Proof.Machine.execVvote v a s
  | .vext sx d a k => Sys2Proof.Machine.execVext sx d a k s
  | .vins d a k => Sys2Proof.Machine.execVins d a k s
  | .vlane le d a => Sys2Proof.Machine.execVlane le d a s
  | .plog tt d a b => Sys2Proof.Machine.execPlog tt d a b s
  | .pset d a => Sys2Proof.Machine.execPset d a s
  | .pget d a => Sys2Proof.Machine.execPget d a s
  | .emrd d => Sys2Proof.Machine.execEmrd d s
  | .emwr a => Sys2Proof.Machine.execEmwr a s
  | .pairVadd d a h1 => Sys2Proof.Machine.execPairVadd d a h1 s
  | .pairVsub d a h1 => Sys2Proof.Machine.execPairVsub d a h1 s
  | .pairVmul d a h1 => Sys2Proof.Machine.execPairVmul d a h1 s
  | .pairVand d a h1 => Sys2Proof.Machine.execPairVand d a h1 s
  | .pairVor d a h1 => Sys2Proof.Machine.execPairVor d a h1 s
  | .pairVxor d a h1 => Sys2Proof.Machine.execPairVxor d a h1 s
  | .pairVshl d a h1 => Sys2Proof.Machine.execPairVshl d a h1 s
  | .pairVshr d a h1 => Sys2Proof.Machine.execPairVshr d a h1 s
  | .pairVsra d a h1 => Sys2Proof.Machine.execPairVsra d a h1 s
  | .pairVmin n d a h1 => Sys2Proof.Machine.execPairVmin n d a h1 s
  | .pairVmax n d a h1 => Sys2Proof.Machine.execPairVmax n d a h1 s
  | .pairVmov d a h1 => Sys2Proof.Machine.execPairVmov d a h1 s
  | .pairVaddi d a x h1 => Sys2Proof.Machine.execPairVaddi d a x h1 s
  | .pairVmovi d x h1 => Sys2Proof.Machine.execPairVmovi d x h1 s
  | .pairVfadd rm d a h1 => Sys2Proof.Machine.execPairVfadd rm d a h1 s
  | .pairVfsub rm d a h1 => Sys2Proof.Machine.execPairVfsub rm d a h1 s
  | .pairVfmul rm d a h1 => Sys2Proof.Machine.execPairVfmul rm d a h1 s
  | .pairVfmin d a h1 => Sys2Proof.Machine.execPairVfmin d a h1 s
  | .pairVfmax d a h1 => Sys2Proof.Machine.execPairVfmax d a h1 s
  | .pairVhadd rm d a h1 => Sys2Proof.Machine.execPairVhadd rm d a h1 s
  | .pairVhmul rm d a h1 => Sys2Proof.Machine.execPairVhmul rm d a h1 s
  | .pairSadd d a h1 => Sys2Proof.Machine.execPairSadd d a h1 s
  | .pairSsub d a h1 => Sys2Proof.Machine.execPairSsub d a h1 s
  | .pairSand d a h1 => Sys2Proof.Machine.execPairSand d a h1 s
  | .pairSor d a h1 => Sys2Proof.Machine.execPairSor d a h1 s
  | .pairSxor d a h1 => Sys2Proof.Machine.execPairSxor d a h1 s
  | .pairSshl d a h1 => Sys2Proof.Machine.execPairSshl d a h1 s
  | .pairSshr d a h1 => Sys2Proof.Machine.execPairSshr d a h1 s
  | .pairSmov d a h1 => Sys2Proof.Machine.execPairSmov d a h1 s
  | .pairSaddi d a x h1 => Sys2Proof.Machine.execPairSaddi d a x h1 s
  | .pairSmovi d x h1 => Sys2Proof.Machine.execPairSmovi d x h1 s
  | .ext payload => Sys2Proof.Machine.execExt payload s
  | .ld wt la sz n d a disp => Sys2Proof.Machine.execLd wt la sz n d a disp s
  | .st g wt sz d a disp => Sys2Proof.Machine.execSt g wt sz d a disp s
  | .lds wt la sz n d a disp => Sys2Proof.Machine.execLds wt la sz n d a disp s
  | .sts g wt sz d a disp => Sys2Proof.Machine.execSts g wt sz d a disp s
  | .ldro wt la sz n d a disp => Sys2Proof.Machine.execLdro wt la sz n d a disp s
  | .sld wt la sz n sp d a disp => Sys2Proof.Machine.execSld wt la sz n sp d a disp s
  | .sst g wt sz sp d a disp => Sys2Proof.Machine.execSst g wt sz sp d a disp s
  | .red g wt la wide op sc ret a b => Sys2Proof.Machine.execRed g wt la wide op sc ret a b s
  | .roinv wt => Sys2Proof.Machine.execRoinv wt s
  | .pref wt l2 a disp => Sys2Proof.Machine.execPref wt l2 a disp s
  | .cadd la ret a v rel => Sys2Proof.Machine.execCadd la ret a v rel s
  | .caddv g la ret a b rel => Sys2Proof.Machine.execCaddv g la ret a b rel s
  | .cwait a b acq => Sys2Proof.Machine.execCwait a b acq s
  | .cwaita d a cnt acq => Sys2Proof.Machine.execCwaita d a cnt acq s
  | .cread la d a acq => Sys2Proof.Machine.execCread la d a acq s
  | .ctest d a b acq => Sys2Proof.Machine.execCtest d a b acq s
  | .cset a b => Sys2Proof.Machine.execCset a b s
  | .qpush g q a x => Sys2Proof.Machine.execQpush g q a x s
  | .qpop la acq q d p x => Sys2Proof.Machine.execQpop la acq q d p x s
  | .qinfo la q d x => Sys2Proof.Machine.execQinfo la q d x s
  | .bra disp => Sys2Proof.Machine.execBra disp s
  | .braL target => Sys2Proof.Machine.execBraL target s
  | .brc g disp => Sys2Proof.Machine.execBrc g disp s
  | .brd g tok disp => Sys2Proof.Machine.execBrd g tok disp s
  | .join tok => Sys2Proof.Machine.execJoin tok s
  | .call link disp => Sys2Proof.Machine.execCall link disp s
  | .callL link target => Sys2Proof.Machine.execCallL link target s
  | .ret link => Sys2Proof.Machine.execRet link s
  | .jmpi link b => Sys2Proof.Machine.execJmpi link b s
  | .sdbnz d disp => Sys2Proof.Machine.execSdbnz d disp s
  | .yieldW wt disp => Sys2Proof.Machine.execYieldW wt disp s
  | .waitt wt => Sys2Proof.Machine.execWaitt wt s
  | .stop => Sys2Proof.Machine.execStop s
  | .trap n payload => Sys2Proof.Machine.execTrap n payload s
  | .nop => Sys2Proof.Machine.execNop s
  | .cpy wt tok ds ss sz d a ca => Sys2Proof.Machine.execCpy wt tok ds ss sz d a ca s
  | .cpyt wt tok ps st d a ca => Sys2Proof.Machine.execCpyt wt tok ps st d a ca s
  | .cpyf wt tok ds sz d a ca => Sys2Proof.Machine.execCpyf wt tok ds sz d a ca s
  | .cpyq wt la tok d => Sys2Proof.Machine.execCpyq wt la tok d s
  | .cpyx wt tok => Sys2Proof.Machine.execCpyx wt tok s
  | .baton wt => Sys2Proof.Machine.execBaton wt s
  | .bpass wt a => Sys2Proof.Machine.execBpass wt a s
  | .mbq wt c q a => Sys2Proof.Machine.execMbq wt c q a s
  | .mbqs wt tok c q a => Sys2Proof.Machine.execMbqs wt tok c q a s
  | .mma wt tok rep fs d a b => Sys2Proof.Machine.execMma wt tok rep fs d a b s
  | .mzero wt d cnt => Sys2Proof.Machine.execMzero wt d cnt s
  | .mloada wt d a => Sys2Proof.Machine.execMloada wt d a s
  | .mdrain wt la dst a rg nrg dt ty rm bl => Sys2Proof.Machine.execMdrain wt la dst a rg nrg dt ty rm bl s
  | .mcmpr wt fmt bl d a b => Sys2Proof.Machine.execMcmpr wt fmt bl d a b s
  | .mstat wt la tok clr d => Sys2Proof.Machine.execMstat wt la tok clr d s
  | .dbw a b => Sys2Proof.Machine.execDbw a b s
  | .iold la cfg sz d a disp => Sys2Proof.Machine.execIold la cfg sz d a disp s
  | .iost cfg sz a b disp => Sys2Proof.Machine.execIost cfg sz a b disp s
  | .srd la num d => Sys2Proof.Machine.execSrd la num d s
  | .swr num a => Sys2Proof.Machine.execSwr num a s
  | .fpflagsWrite a => Sys2Proof.Machine.execFpflagsWrite a s
  | .stageqWrite a => Sys2Proof.Machine.execStageqWrite a s
  | .eret => Sys2Proof.Machine.execEret s
  | .tlbi kind g a => Sys2Proof.Machine.execTlbi kind g a s
  | .pgharv clr d a => Sys2Proof.Machine.execPgharv clr d a s
  | .cscope a e => Sys2Proof.Machine.execCscope a e s
  | .bmode tr q => Sys2Proof.Machine.execBmode tr q s
  | .msib mode a => Sys2Proof.Machine.execMsib mode a s
  | .atsinv all a => Sys2Proof.Machine.execAtsinv all a s
  | .prgr rc a => Sys2Proof.Machine.execPrgr rc a s
  | .svcall a n => Sys2Proof.Machine.execSvcall a n s
  | .park a b acq => Sys2Proof.Machine.execPark a b acq s
  | .plaunch a => Sys2Proof.Machine.execPlaunch a s
  | .pcancel => Sys2Proof.Machine.execPcancel s
  | .prepeat a n => Sys2Proof.Machine.execPrepeat a n s
  | .halt a => Sys2Proof.Machine.execHalt a s
  | .haltWake gid slot => Sys2Proof.Machine.execHaltWake gid slot s
  | .resultWrite gid slot pid part => Sys2Proof.Machine.execResultWrite gid slot pid part s
  | .issueCycle core => Sys2Proof.Machine.execIssueCycle core s
  | .swapExchange core => Sys2Proof.Machine.execSwapExchange core s
  | .pendingAgeExpiry core => Sys2Proof.Machine.execPendingAgeExpiry core s
  | .homeCounterOp op => Sys2Proof.Machine.execHomeCounterOp op s
  | .coldMoveTick home => Sys2Proof.Machine.execColdMoveTick home s
  | .counterAnswer ans => Sys2Proof.Machine.execCounterAnswer ans s
  | .waiterRefusalLimit op => Sys2Proof.Machine.execWaiterRefusalLimit op s
  | .writebackTimer core sector evict => Sys2Proof.Machine.execWritebackTimer core sector evict s
  | .pageWalk core pasid va => Sys2Proof.Machine.execPageWalk core pasid va s
  | .parkThreshold team => Sys2Proof.Machine.execParkThreshold team s
  | .parkSave team => Sys2Proof.Machine.execParkSave team s
  | .teamRelaunch team core => Sys2Proof.Machine.execTeamRelaunch team core s
  | .watchdogExpiry ctx => Sys2Proof.Machine.execWatchdogExpiry ctx s
  | .copyEngineStart die => Sys2Proof.Machine.execCopyEngineStart die s
  | .copyChunk copy => Sys2Proof.Machine.execCopyChunk copy s
  | .cpyComplete copy => Sys2Proof.Machine.execCpyComplete copy s
  | .engineOpPerform core => Sys2Proof.Machine.execEngineOpPerform core s
  | .mmaStep core => Sys2Proof.Machine.execMmaStep core s
  | .batonGrant core => Sys2Proof.Machine.execBatonGrant core s
  | .ringPublish team ring => Sys2Proof.Machine.execRingPublish team ring s
  | .ringRefill team ring => Sys2Proof.Machine.execRingRefill team ring s
  | .teamEnd team => Sys2Proof.Machine.execTeamEnd team s
  | .teamStop team => Sys2Proof.Machine.execTeamStop team s
  | .faultLogFullTimeout hub => Sys2Proof.Machine.execFaultLogFullTimeout hub s
  | .debugBudgetExpiry team => Sys2Proof.Machine.execDebugBudgetExpiry team s
  | .sramEccError site double => Sys2Proof.Machine.execSramEccError site double s
  | .qcbReread queue => Sys2Proof.Machine.execQcbReread queue s
  | .packetTake queue => Sys2Proof.Machine.execPacketTake queue s
  | .launch queue => Sys2Proof.Machine.execLaunch queue s
  | .copyPacket queue => Sys2Proof.Machine.execCopyPacket queue s
  | .caddPacket queue => Sys2Proof.Machine.execCaddPacket queue s
  | .cwaitPacket queue => Sys2Proof.Machine.execCwaitPacket queue s
  | .write queue => Sys2Proof.Machine.execWrite queue s
  | .wrsig queue => Sys2Proof.Machine.execWrsig queue s
  | .graph queue => Sys2Proof.Machine.execGraph queue s
  | .marker queue => Sys2Proof.Machine.execMarker queue s
  | .prologueRun launch => Sys2Proof.Machine.execPrologueRun launch s
  | .prologueTimeout team => Sys2Proof.Machine.execPrologueTimeout team s
  | .admission launch => Sys2Proof.Machine.execAdmission launch s
  | .teamDispatch launch core => Sys2Proof.Machine.execTeamDispatch launch core s
  | .launchEnd launch => Sys2Proof.Machine.execLaunchEnd launch s
  | .timeSliceExpiry queue => Sys2Proof.Machine.execTimeSliceExpiry queue s
  | .preempt team cause => Sys2Proof.Machine.execPreempt team cause s
  | .staging launch lin => Sys2Proof.Machine.execStaging launch lin s
  | .arbiterAging arb => Sys2Proof.Machine.execArbiterAging arb s
  | .kernelNode graph node => Sys2Proof.Machine.execKernelNode graph node s
  | .copyNode graph node => Sys2Proof.Machine.execCopyNode graph node s
  | .caddNode graph node => Sys2Proof.Machine.execCaddNode graph node s
  | .cwaitNode graph node => Sys2Proof.Machine.execCwaitNode graph node s
  | .condNode graph node => Sys2Proof.Machine.execCondNode graph node s
  | .loopNode graph node => Sys2Proof.Machine.execLoopNode graph node s
  | .switchNode graph node => Sys2Proof.Machine.execSwitchNode graph node s
  | .endNode graph node => Sys2Proof.Machine.execEndNode graph node s
  | .graphEnd graph => Sys2Proof.Machine.execGraphEnd graph s
  | .graphWatchdog graph => Sys2Proof.Machine.execGraphWatchdog graph s
  | .tmeMigration pasid va frame tier => Sys2Proof.Machine.execTmeMigration pasid va frame tier s
  | .pageClear pa => Sys2Proof.Machine.execPageClear pa s
  | .wipeRegionClear region => Sys2Proof.Machine.execWipeRegionClear region s
  | .serviceOverrun call => Sys2Proof.Machine.execServiceOverrun call s
  | .echo call => Sys2Proof.Machine.execEcho call s
  | .qattach call => Sys2Proof.Machine.execQattach call s
  | .qdetach call => Sys2Proof.Machine.execQdetach call s
  | .ctxcreate call => Sys2Proof.Machine.execCtxcreate call s
  | .ctxkill call => Sys2Proof.Machine.execCtxkill call s
  | .ctxresume call => Sys2Proof.Machine.execCtxresume call s
  | .ctxsuspend call => Sys2Proof.Machine.execCtxsuspend call s
  | .pagereq call frame => Sys2Proof.Machine.execPagereq call frame s
  | .pageout call => Sys2Proof.Machine.execPageout call s
  | .map call frame => Sys2Proof.Machine.execMap call frame s
  | .unmap call => Sys2Proof.Machine.execUnmap call s
  | .protect call => Sys2Proof.Machine.execProtect call s
  | .migrate call frame => Sys2Proof.Machine.execMigrate call frame s
  | .harvest call => Sys2Proof.Machine.execHarvest call s
  | .scopeset call => Sys2Proof.Machine.execScopeset call s
  | .iolease call => Sys2Proof.Machine.execIolease call s
  | .iorelease call => Sys2Proof.Machine.execIorelease call s
  | .dbbind call => Sys2Proof.Machine.execDbbind call s
  | .dbunbind call => Sys2Proof.Machine.execDbunbind call s
  | .msibind call => Sys2Proof.Machine.execMsibind call s
  | .msiunbind call => Sys2Proof.Machine.execMsiunbind call s
  | .nvmeadmin call ans => Sys2Proof.Machine.execNvmeadmin call ans s
  | .nvmeqpair call ans => Sys2Proof.Machine.execNvmeqpair call ans s
  | .nvmeqdel call ans => Sys2Proof.Machine.execNvmeqdel call ans s
  | .nicqcreate call ans => Sys2Proof.Machine.execNicqcreate call ans s
  | .nicqdelete call ans => Sys2Proof.Machine.execNicqdelete call ans s
  | .nicfilter call ans => Sys2Proof.Machine.execNicfilter call ans s
  | .atsctl call => Sys2Proof.Machine.execAtsctl call s
  | .atsinval call => Sys2Proof.Machine.execAtsinval call s
  | .funcinfo call => Sys2Proof.Machine.execFuncinfo call s
  | .ntbwindow call => Sys2Proof.Machine.execNtbwindow call s
  | .peerattach call ans => Sys2Proof.Machine.execPeerattach call ans s
  | .peerdetach call ans => Sys2Proof.Machine.execPeerdetach call ans s
  | .iderefresh call ans => Sys2Proof.Machine.execIderefresh call ans s
  | .spdmmeasure call ans => Sys2Proof.Machine.execSpdmmeasure call ans s
  | .attest call => Sys2Proof.Machine.execAttest call s
  | .cxlonline call ans => Sys2Proof.Machine.execCxlonline call ans s
  | .cxloffline call frame ans => Sys2Proof.Machine.execCxloffline call frame ans s
  | .portreset call ans => Sys2Proof.Machine.execPortreset call ans s
  | .flr call ans => Sys2Proof.Machine.execFlr call ans s
  | .retention call => Sys2Proof.Machine.execRetention call s
  | .poweralarm call => Sys2Proof.Machine.execPoweralarm call s
  | .fwupdate call ans => Sys2Proof.Machine.execFwupdate call ans s
  | .faultinject call => Sys2Proof.Machine.execFaultinject call s
  | .svcDebug call => Sys2Proof.Machine.execSvcDebug call s
  | .logread call => Sys2Proof.Machine.execLogread call s
  | .clocksync call ans => Sys2Proof.Machine.execClocksync call ans s
  | .serviceinfo call => Sys2Proof.Machine.execServiceinfo call s
  | .doorbellWrite dw => Sys2Proof.Machine.execDoorbellWrite dw s
  | .dbpFollow binding => Sys2Proof.Machine.execDbpFollow binding s
  | .msiWrite addr size data => Sys2Proof.Machine.execMsiWrite addr size data s
  | .atsTranslationRequest fn pasid va write => Sys2Proof.Machine.execAtsTranslationRequest fn pasid va write s
  | .pageRequest fn pasid va prg last rd wr => Sys2Proof.Machine.execPageRequest fn pasid va prg last rd wr s
  | .inboundDma fn pasid va write data => Sys2Proof.Machine.execInboundDma fn pasid va write data s
  | .inboundCounterWrite pasid va size data => Sys2Proof.Machine.execInboundCounterWrite pasid va size data s
  | .inboundFetchadd pasid va size data fetchAdd => Sys2Proof.Machine.execInboundFetchadd pasid va size data fetchAdd s
  | .peerFetchaddCompletion op err old => Sys2Proof.Machine.execPeerFetchaddCompletion op err old s
  | .requestTimeout req => Sys2Proof.Machine.execRequestTimeout req s
  | .linkDown sub => Sys2Proof.Machine.execLinkDown sub s
  | .peerReset peer linkLost => Sys2Proof.Machine.execPeerReset peer linkLost s
  | .ideIntegrityFailure sub stream sequence => Sys2Proof.Machine.execIdeIntegrityFailure sub stream sequence s
  | .ideRefreshTimeout sub stream => Sys2Proof.Machine.execIdeRefreshTimeout sub stream s
  | .quarantineSeal ctx => Sys2Proof.Machine.execQuarantineSeal ctx s
  | .powerAlarmRaise amps => Sys2Proof.Machine.execPowerAlarmRaise amps s
  | .powerAlarmLower => Sys2Proof.Machine.execPowerAlarmLower s
  | .retentionEntry cause => Sys2Proof.Machine.execRetentionEntry cause s
  | .resume lostCxl refreshFailed => Sys2Proof.Machine.execResume lostCxl refreshFailed s
  | .thermalTrip die => Sys2Proof.Machine.execThermalTrip die s
  | .reset cause boot => Sys2Proof.Machine.execReset cause boot s
  | .lifeCycleChange tgt signed => Sys2Proof.Machine.execLifeCycleChange tgt signed s
  | .logicalTimeTick core => Sys2Proof.Machine.execLogicalTimeTick core s
  | .aerErrorReport dw => Sys2Proof.Machine.execAerErrorReport dw s
  | .atsInvalidateCompletion req => Sys2Proof.Machine.execAtsInvalidateCompletion req s
  | .linkRetrained sub => Sys2Proof.Machine.execLinkRetrained sub s
  | .svcallQueueTimeout gid slot => Sys2Proof.Machine.execSvcallQueueTimeout gid slot s
  | .configurationWriteCompletion req err => Sys2Proof.Machine.execConfigurationWriteCompletion req err s
  | .supplyRemoval => Sys2Proof.Machine.execSupplyRemoval s

end Sys2Proof.Machine
end

