-- ==== Sys2Proof/Machine/Tear.lean ====
section
/-! DEFINITION. Accesses performed piece by piece: pieces of one access, and lanes of one instruction, are not atomic together, a copy's and an
endpoint's accesses go granule by granule, and a RED at the L2 home reads before it writes (R200, R246, R253, R260; log 129). -/

namespace Sys2Proof.Machine

/-- What a piece writes: places, each with its length. -/
def Piece.writes : Piece → List (At × Nat)
  | .store pa l => [(.mem pa, l.length)]
  | .put l => l.map (fun e => (e.1, e.2.length))
  | .red _ pa n _ _ => [(.mem pa, n)]
  | .redPut pa l => [(.mem pa, l.length)]
  | _ => []

/-- Two runs of bytes share one. -/
def overlaps (a b : At × Nat) : Bool :=
  let meet (x y : Nat) : Bool := x < y + b.2 && y < x + a.2
  match a.1, b.1 with
  | .mem x, .mem y => meet x y
  | .scr t x, .scr u y => t = u && meet x y
  | .pad k x, .pad m y => k = m && meet x y
  | _, _ => false

/-- Two pieces write a common byte. -/
def Piece.clashes (p q : Piece) : Bool := p.writes.any (fun a => q.writes.any (overlaps a))

/-- What a piece has done: what it read, by number, poison that it met, and the write that is still to follow. -/
structure PieceDone where
  got : List (Nat × List (Byte × Bool)) := []
  bad : Option (Nat × Bad) := none
  more : Option Piece := none

/-- Bytes without a poison mark. -/
def unmarked (l : List Byte) : List (Byte × Bool) := l.map (fun b => (b, false))

/-- The party whose L1, if any, an access uses. -/
def l1Party (core : Option Nat) : Party := { place := match core with | some k => .core k | none => .hub 0, pasid := 0 }

/-- One piece performed (R200). -/
def State.pieceActs (s : State) (core : Option Nat) : Piece → PieceDone × State
  | .load k pa type n va =>
      let p := l1Party core
      let bad := if s.loadPoison p pa n then some (k, (poisonCode pa, va)) else none
      let (l, s) := s.loadBytes p pa type n
      ({ got := [(k, unmarked l)], bad := bad }, s)
  | .ro k launch pa n va =>
      let bad := if s.loadPoison (l1Party none) pa n then some (k, (poisonCode pa, va)) else none
      let (l, s) := s.roRead (core.getD 0) launch pa n
      ({ got := [(k, unmarked l)], bad := bad }, s)
  | .scr k x n => ({ got := [(k, unmarked (s.scrRead x n))] }, s)
  | .store pa l => ({}, s.storeBytes (l1Party core) pa l)
  | .get l => ({ got := l.map (fun e => (e.1, s.atReadMarked e.2.1 e.2.2)) }, s)
  | .put l => ({}, l.foldl (fun s e => s.atWriteMarked core e.1 e.2) s)
  | .red k pa n op b =>
      let (x, s) := s.loadBytes (l1Party core) pa 0 n
      let new := leBytes n (memRedOf (8 * n) op (BitVec.ofNat (8 * n) (leNat x)) (BitVec.ofNat (8 * n) b)).toNat
      if core.isSome then ({ got := [(k, unmarked x)] }, s.storeBytes (l1Party core) pa new)
      else ({ got := [(k, unmarked x)], more := some (.redPut pa new) }, s)
  | .redPut pa l => ({}, s.homeWrite pa l)

/-- Piece i of an access performed; the write of a RED's lane is a step of its own (R260). -/
def State.pieceOne (s : State) (id i : Nat) : State :=
  match s.torn.find id with
  | none => s
  | some x =>
    match x.todo.find i with
    | none => s
    | some p =>
      let (r, s) := s.pieceActs x.core p
      let x := { x with
        todo := (match r.more with | some q => x.todo.put i q | none => x.todo.del i)
        got := r.got.foldl (fun (t : Tab (List (Byte × Bool))) e => t.put e.1 e.2) x.got
        bad := (match r.bad with | some b => x.bad.put b.1 b.2 | none => x.bad) }
      { s with torn := s.torn.put id x, agenda := if r.more.isSome then s.agenda ++ [.piece id i] else s.agenda }

/-- Writes of other REDs at the home to a word that a RED reads: they are made first, so that REDs are atomic against each other (R243). -/
def State.closeReds (s : State) (p : Piece) : State :=
  match p with
  | .red _ _ _ _ _ =>
      s.torn.all.foldl (fun s e => (e.2.todo.all.filter (fun q => match q.2 with | .redPut _ _ => q.2.clashes p | _ => false)).foldl
        (fun s q => s.pieceOne e.1 q.1) s) s
  | _ => s

/-- Piece i of an access: first the earlier pieces that write a byte of it, so that the higher lane's bytes stand (R207). -/
def State.pieceAt (s : State) (id i : Nat) : State :=
  match (s.torn.find id).bind (fun x => (x.todo.find i).map (fun p => (x, p))) with
  | none => s
  | some (x, p) =>
    let s := (x.todo.all.filter (fun e => e.1 < i && e.2.clashes p)).foldl (fun s e => (s.pieceOne id e.1).pieceOne id e.1) s
    (s.closeReds p).pieceOne id i

/-- What the pieces of each lane read, put together. -/
def regroup : List (Nat × Nat) → List (List Byte) → List (Nat × List Byte)
  | [], _ => []
  | (i, n) :: r, l => (i, (l.take n).flatten) :: regroup r (l.drop n)

/-- Every piece of an access has been performed: its result has its value, its copy goes on, its endpoint is answered. -/
def State.tornEnds (s : State) (id : Nat) (x : Torn) : State :=
  let s : State := { s with torn := s.torn.del id }
  let marked := x.got.all.map (·.2)
  let got := marked.map (fun l => l.map (·.1))
  match x.next with
  | .nothing => s
  | .load gid pid vec sz n d lanes =>
      let vals := (regroup lanes got).flatMap (fun e => if vec then vecLoad sz n d e.1 e.2 else scaLoad sz n d e.2)
      s.setPend gid pid (fun p => p.map (fun p => { p with vals := some vals, bad := poisonFail (x.bad.all.head?.map (·.2)) }))
  | .red gid pid wide d lanes =>
      s.setPend gid pid (fun p => p.map (fun p => { p with vals := some (redVals wide d (lanes.zip (got.map leNat))) }))
  | .chunk copy lo hi dst =>
      match s.copies.find copy with
      | none => s
      | some c => s.tearInto { core := x.core, todo := putPieces ((dst.zip (c.kind.moves lo hi got)).map (fun e => (e.1, unmarked e.2)))
                               next := .chunkEnds copy hi }
  | .chunkEnds copy hi => (match s.copies.find copy with | none => s | some c => s.chunkDone copy c hi)
  | .lanes copy =>
      match s.laneCopies.find copy with
      | none => s
      | some c => s.tearInto { core := x.core, todo := numbered ((c.lanes.zip marked).map (fun e => .put [(e.1.2, e.2)])), next := .laneEnds copy }
  | .laneEnds copy => (match s.laneCopies.find copy with | none => s | some c => s.copyEnds copy c.gid c.tok c.ctr c.pasid c.pc)
  | .reply fn =>
      s.send { sub := fnSub fn, addr := fn, data := some got.flatten, size := got.length, poison := marked.any (fun l => l.any (·.2)) }

/-- The step of a piece; after the last one the access ends. -/
def State.pieceStep (s : State) (id i : Nat) : State :=
  let s := s.pieceAt id i
  match s.torn.find id with
  | some x => if x.todo = [] then s.tornEnds id x else s
  | none => s

end Sys2Proof.Machine
end

