-- ==== Sys2Proof/Machine/Agenda.lean ====
section
/-! DEFINITION. The steps that are due, performed: each event has the meaning of its constructor of Instr; bankSwitch is the progress of a
BMODE (R430), scratchStage the staging of a placed team (R389), piece a piece of
an access (R200). -/

namespace Sys2Proof.Machine

/-- The meaning of an event. -/
def runEvent (e : Event) (s : State) : Out :=
  match e with
  | .haltWake gid slot => execHaltWake gid slot s
  | .resultWrite gid slot pid part => execResultWrite gid slot pid part s
  | .issueCycle core => execIssueCycle core s
  | .swapExchange core => execSwapExchange core s
  | .pendingAgeExpiry core => execPendingAgeExpiry core s
  | .homeCounterOp op => execHomeCounterOp op s
  | .coldMoveTick home => execColdMoveTick home s
  | .counterAnswer ans => execCounterAnswer ans s
  | .waiterRefusalLimit op => execWaiterRefusalLimit op s
  | .writebackTimer core sector evict => execWritebackTimer core sector evict s
  | .pageWalk core pasid va => execPageWalk core pasid va s
  | .parkThreshold team => execParkThreshold team s
  | .parkSave team => execParkSave team s
  | .teamRelaunch team core => execTeamRelaunch team core s
  | .watchdogExpiry ctx => execWatchdogExpiry ctx s
  | .copyEngineStart die => execCopyEngineStart die s
  | .copyChunk copy => execCopyChunk copy s
  | .cpyComplete copy => execCpyComplete copy s
  | .engineOpPerform core => execEngineOpPerform core s
  | .mmaStep core => execMmaStep core s
  | .batonGrant core => execBatonGrant core s
  | .ringPublish team ring => execRingPublish team ring s
  | .ringRefill team ring => execRingRefill team ring s
  | .bankSwitch team => .next (s.bankStep team)
  | .scratchStage team => .next (s.stageTeam team)
  | .piece torn k => .next (s.pieceStep torn k)
  | .teamEnd team => execTeamEnd team s
  | .teamStop team => execTeamStop team s
  | .faultLogFullTimeout hub => execFaultLogFullTimeout hub s
  | .debugBudgetExpiry team => execDebugBudgetExpiry team s
  | .sramEccError site double => execSramEccError site double s
  | .qcbReread queue => execQcbReread queue s
  | .packetTake queue => execPacketTake queue s
  | .launch queue => execLaunch queue s
  | .copyPacket queue => execCopyPacket queue s
  | .caddPacket queue => execCaddPacket queue s
  | .cwaitPacket queue => execCwaitPacket queue s
  | .write queue => execWrite queue s
  | .wrsig queue => execWrsig queue s
  | .graph queue => execGraph queue s
  | .marker queue => execMarker queue s
  | .prologueRun launch => execPrologueRun launch s
  | .prologueTimeout team => execPrologueTimeout team s
  | .admission launch => execAdmission launch s
  | .teamDispatch launch core => execTeamDispatch launch core s
  | .launchEnd launch => execLaunchEnd launch s
  | .timeSliceExpiry queue => execTimeSliceExpiry queue s
  | .preempt team cause => execPreempt team cause s
  | .staging launch lin => execStaging launch lin s
  | .arbiterAging arb => execArbiterAging arb s
  | .kernelNode graph node => execKernelNode graph node s
  | .copyNode graph node => execCopyNode graph node s
  | .caddNode graph node => execCaddNode graph node s
  | .cwaitNode graph node => execCwaitNode graph node s
  | .condNode graph node => execCondNode graph node s
  | .loopNode graph node => execLoopNode graph node s
  | .switchNode graph node => execSwitchNode graph node s
  | .endNode graph node => execEndNode graph node s
  | .graphEnd graph => execGraphEnd graph s
  | .graphWatchdog graph => execGraphWatchdog graph s
  | .tmeMigration pasid va frame tier => execTmeMigration pasid va frame tier s
  | .pageClear pa => execPageClear pa s
  | .wipeRegionClear region => execWipeRegionClear region s
  | .serviceOverrun call => execServiceOverrun call s
  | .echo call => execEcho call s
  | .qattach call => execQattach call s
  | .qdetach call => execQdetach call s
  | .ctxcreate call => execCtxcreate call s
  | .ctxkill call => execCtxkill call s
  | .ctxresume call => execCtxresume call s
  | .ctxsuspend call => execCtxsuspend call s
  | .pagereq call frame => execPagereq call frame s
  | .pageout call => execPageout call s
  | .map call frame => execMap call frame s
  | .unmap call => execUnmap call s
  | .protect call => execProtect call s
  | .migrate call frame => execMigrate call frame s
  | .harvest call => execHarvest call s
  | .scopeset call => execScopeset call s
  | .iolease call => execIolease call s
  | .iorelease call => execIorelease call s
  | .dbbind call => execDbbind call s
  | .dbunbind call => execDbunbind call s
  | .msibind call => execMsibind call s
  | .msiunbind call => execMsiunbind call s
  | .nvmeadmin call ans => execNvmeadmin call ans s
  | .nvmeqpair call ans => execNvmeqpair call ans s
  | .nvmeqdel call ans => execNvmeqdel call ans s
  | .nicqcreate call ans => execNicqcreate call ans s
  | .nicqdelete call ans => execNicqdelete call ans s
  | .nicfilter call ans => execNicfilter call ans s
  | .atsctl call => execAtsctl call s
  | .atsinval call => execAtsinval call s
  | .funcinfo call => execFuncinfo call s
  | .ntbwindow call => execNtbwindow call s
  | .peerattach call ans => execPeerattach call ans s
  | .peerdetach call ans => execPeerdetach call ans s
  | .iderefresh call ans => execIderefresh call ans s
  | .spdmmeasure call ans => execSpdmmeasure call ans s
  | .attest call => execAttest call s
  | .cxlonline call ans => execCxlonline call ans s
  | .cxloffline call frame ans => execCxloffline call frame ans s
  | .portreset call ans => execPortreset call ans s
  | .flr call ans => execFlr call ans s
  | .retention call => execRetention call s
  | .poweralarm call => execPoweralarm call s
  | .fwupdate call ans => execFwupdate call ans s
  | .faultinject call => execFaultinject call s
  | .svcDebug call => execSvcDebug call s
  | .logread call => execLogread call s
  | .clocksync call ans => execClocksync call ans s
  | .serviceinfo call => execServiceinfo call s
  | .doorbellWrite dw => execDoorbellWrite dw s
  | .dbpFollow binding => execDbpFollow binding s
  | .msiWrite addr size data => execMsiWrite addr size data s
  | .atsTranslationRequest fn pasid va write => execAtsTranslationRequest fn pasid va write s
  | .pageRequest fn pasid va prg last rd wr => execPageRequest fn pasid va prg last rd wr s
  | .inboundDma fn pasid va write data => execInboundDma fn pasid va write data s
  | .inboundCounterWrite pasid va size data => execInboundCounterWrite pasid va size data s
  | .inboundFetchadd pasid va size data fetchAdd => execInboundFetchadd pasid va size data fetchAdd s
  | .peerFetchaddCompletion op err old => execPeerFetchaddCompletion op err old s
  | .requestTimeout req => execRequestTimeout req s
  | .linkDown sub => execLinkDown sub s
  | .peerReset peer linkLost => execPeerReset peer linkLost s
  | .ideIntegrityFailure sub stream sequence => execIdeIntegrityFailure sub stream sequence s
  | .ideRefreshTimeout sub stream => execIdeRefreshTimeout sub stream s
  | .quarantineSeal ctx => execQuarantineSeal ctx s
  | .powerAlarmRaise amps => execPowerAlarmRaise amps s
  | .powerAlarmLower => execPowerAlarmLower s
  | .retentionEntry cause => execRetentionEntry cause s
  | .resume lostCxl refreshFailed => execResume lostCxl refreshFailed s
  | .thermalTrip die => execThermalTrip die s
  | .reset cause boot => execReset cause boot s
  | .lifeCycleChange tgt signed => execLifeCycleChange tgt signed s
  | .logicalTimeTick core => execLogicalTimeTick core s
  | .aerErrorReport dw => execAerErrorReport dw s
  | .atsInvalidateCompletion req => execAtsInvalidateCompletion req s
  | .linkRetrained sub => execLinkRetrained sub s
  | .svcallQueueTimeout gid slot => execSvcallQueueTimeout gid slot s
  | .configurationWriteCompletion req err => execConfigurationWriteCompletion req err s
  | .supplyRemoval => execSupplyRemoval s

end Sys2Proof.Machine
end

