-- ==== Sys2Proof/Machine/Schedule.lean ====
section
/-! DEFINITION. Which steps of the device are due in a ck, and the passing of one. A step is listed wherever it may have something to
do; one whose condition does not hold changes nothing. Steps whose occasion or parameters the device does not decide (what
endpoints, peers, the supplies and Vetiver's frame allocation bring) come onto the agenda from outside. -/

namespace Sys2Proof.Machine

-- Due steps ---------------------------------------------------------------------------------------------------------------

/-- Results whose instant has come (R84), and deadlines and calls of fragments that wait. -/
def State.dueFrags (s : State) : List Event :=
  (s.groups.all.flatMap (fun (e : Nat × Group) =>
    (e.2.pends.all.filter (fun p => p.2.vals.isSome && !p.2.written && p.2.due ≤ s.clock)).map
      (fun (p : Nat × Pend) => Event.resultWrite e.1 p.2.slot p.1 none)))
    ++ s.frags.all.flatMap (fun (e : Nat × Frag) =>
      match e.2.why with
      | .deadline _ _ => [.haltWake (e.1 / 64) (e.1 % 64)]
      | .service => [.svcallQueueTimeout (e.1 / 64) (e.1 % 64)]
      | _ => [])

/-- Counter operations, answers, homes and refusal limits (R218 to R228). -/
def State.dueCounters (s : State) : List Event :=
  s.ops.keys.map Event.homeCounterOp ++ s.answers.keys.map Event.counterAnswer
    ++ (if s.clock % 70 = 0 then (s.homes.all.filter (fun e => e.2.retry ≠ [])).map (fun (e : Nat × Home) => Event.coldMoveTick e.1) else [])
    ++ (s.homes.all.flatMap (fun (e : Nat × Home) => (e.2.retry.filter s.limitPassed).map (fun o => Event.waiterRefusalLimit o.seq)))

/-- One of the places at which a cluster fits, which no rule decides among (R141). -/
def State.placeOf (s : State) (a : Ask) : Option Nat :=
  let l := s.placesFor a
  if l.isEmpty then none else l[(Config.freeWord s.fresh).toNat % l.length]?

/-- The relaunch of a saved team's cluster. -/
def State.dueRelaunch (s : State) (t : Nat) (x : Team) : List Event :=
  if !s.canRelaunch t x then []
  else match s.placeOf (s.againAsk t x) with
    | some core => [.teamRelaunch t core]
    | none => []

/-- The dispatch of a launch's next cluster. -/
def State.dueDispatch (s : State) (id : Nat) (l : Launch) : List Event :=
  if !s.canDispatch id l then []
  else
    match s.placeOf (s.nextAsk l) with
    | some core => [.teamDispatch id core]
    | none => []

/-- The queues whose launches wait for cores and fit nowhere, or have waited at step 2 for their admission (R374). -/
def State.starved (s : State) : List Nat :=
  (s.launches.all.filter (fun e =>
    let l := s.waitsFor e.1 e.2
    l ≠ [] && (if e.2.step = .admission then e.2.since + 1 < s.clock else l.all (fun a => s.placesFor a = [])))).map (fun (e : Nat × Launch) => e.2.queue)

/-- The team on a core that priority pre-empts next: lowest priority first, then the most recently dispatched (R374). -/
def State.victim (s : State) (prio : Nat) : Option Nat :=
  let l := s.teams.all.filter (fun e => e.2.kind = .compute && (e.2.run = .resident || e.2.run = .placed) && s.prioOf e.2.queue < prio)
  match l with
  | [] => none
  | a :: l => some (l.foldl (fun (a b : Nat × Team) =>
      let p := s.prioOf a.2.queue
      let q := s.prioOf b.2.queue
      if q < p ∨ (q = p ∧ a.1 < b.1) then b else a) a).1

/-- Pre-emption for a waiting launch of higher priority, one cluster at a time (R374). -/
def State.duePriority (s : State) : List Event :=
  if s.teams.all.any (fun e => e.2.run = .preempting) then []
  else match s.victim ((s.starved.map s.prioOf).foldl max 0) with
    | some t => [.preempt t 0]
    | none => []

/-- The launches in the order of R373. -/
def State.byRank (s : State) : List (Nat × Launch) :=
  s.launches.all.foldl (fun (l : List (Nat × Launch)) e => l.takeWhile (fun b => s.outranks b e) ++ e :: l.dropWhile (fun b => s.outranks b e)) []

/-- The steps of teams (R151 to R155, R179, R273, R415). -/
def State.dueTeams (s : State) : List Event :=
  (s.teams.all.flatMap (fun (e : Nat × Team) =>
    let t := e.1
    let x := e.2
    (x.rings.keys.flatMap (fun q => [.ringPublish t q, .ringRefill t q])) ++ (if x.switches = [] then [] else [.bankSwitch t])
      ++ (match x.run with
        | .resident => [.parkThreshold t, .teamEnd t] ++ (if x.dbg.budget = some 0 then [.debugBudgetExpiry t] else [])
            ++ (if x.kind = .prologue then [.prologueTimeout t] else [])
        | .parking _ => [.parkSave t]
        | .parked => []
        | .placed => [.scratchStage t]
        | .preempting => [.preempt t 0, .teamEnd t]
        | .stopped => [.teamStop t]
        | .trapped => if x.kind = .compute ∧ !x.unlogged ∧ !resumable x.trap.code then [.teamStop t] else []
        | .relaunch => []
        | .ended => [])))
    ++ s.duePriority
    ++ (s.byRank.flatMap (fun (e : Nat × Launch) =>
      (s.teams.all.filter (fun t => t.2.kind = .compute && t.2.launch = e.1 && t.2.run = .relaunch)).flatMap (fun (t : Nat × Team) => s.dueRelaunch t.1 t.2)
        ++ s.dueDispatch e.1 e.2))

/-- Copies, engines and batons (R286 to R304, R310 to R312, R320). -/
def State.dueEngines (s : State) : List Event :=
  (s.copyQueue.keys.map Event.copyEngineStart) ++ ((s.copies.all.filter (fun e => e.2.running || e.2.cancel)).map (fun (e : Nat × Copy) => Event.copyChunk e.1))
    ++ s.laneCopies.keys.map Event.cpyComplete
    ++ (s.cores.all.flatMap (fun (e : Nat × Core) =>
      (if e.2.engine.isEmpty then [] else [.engineOpPerform e.1, .mmaStep e.1])
        ++ (if e.2.batonQ.isEmpty ∧ e.2.grantTo.isNone then [] else [.batonGrant e.1])))

/-- Queues, packets and launches (R363 to R395). DEDUCED (log 43). -/
def State.dueQueues (s : State) : List Event :=
  ((s.queues.all.filter (fun e => !e.2.detached)).flatMap (fun (e : Nat × Queue) =>
    let k := e.1
    let q := e.2
    (if (q.halted || q.stopped) && (q.reached || q.since + 100 * ckUs ≤ s.clock) then [.qcbReread k] else [])
      ++ (match q.pkt with
        | none => [.packetTake k]
        | some p => (match p.type with
          | 1 => [.launch k]
          | 2 => [.copyPacket k]
          | 3 => [.caddPacket k]
          | 4 => [.cwaitPacket k]
          | 5 => [.write k]
          | 6 => [.wrsig k]
          | 7 => [.graph k]
          | 8 => [.marker k]
          | _ => []))
      ++ [.timeSliceExpiry k]))
    ++ (s.byRank.flatMap (fun (e : Nat × Launch) =>
      match e.2.step with
      | .prologue => [.prologueRun e.1]
      | .inPrologue => []
      | .admission => [.admission e.1]
      | .admitted => (if (s.nextLines e.2).isSome then [.staging e.1 (e.2.lin e.2.staged.length)] else []) ++ [.launchEnd e.1]))
    ++ s.arbiters.keys.map Event.arbiterAging

/-- The event of a graph node by its kind (R398). -/
def nodeEvent (g j : Nat) (n : GNode) : List Event :=
  match n.kind with
  | 1 => [.kernelNode g j]
  | 2 => [.copyNode g j]
  | 3 => [.caddNode g j]
  | 4 => [.cwaitNode g j]
  | 5 => [.condNode g j]
  | 6 => [.loopNode g j]
  | 7 => [.switchNode g j]
  | 8 => [.endNode g j]
  | _ => []

/-- Nodes of running graphs in ascending index, and the end and watchdog of each graph (R401, R406, R407). -/
def State.dueGraphs (s : State) : List Event :=
  s.graphs.all.flatMap (fun (e : Nat × Graph) =>
    (e.2.nodes.all.filter (fun n => n.2.due)).flatMap (fun (n : Nat × GNode) => nodeEvent e.1 n.1 n.2)
      ++ [.graphEnd e.1] ++ [.graphWatchdog e.1])

/-- No answer yet: the first step of a service that sends a command. -/
def noAnswer : Answer := { status := 0, result := 0, data := [] }

/-- The step of a call that waits for nothing from outside: every service whose course the device decides, and the first step of
one that asks an endpoint or resets it. IORELEASE, whose commands the drivers count, and services that take frames or answers come from
outside. -/
def callEvent (id : Nat) (c : Call) : List Event :=
  let first (e : Event) : List Event := if c.step = 0 then [e] else []
  match c.num with
  | 0 => [.echo id] | 1 => [.qattach id] | 2 => [.qdetach id] | 3 => [.ctxcreate id] | 4 => [.ctxkill id] | 5 => [.ctxresume id]
  | 6 => [.ctxsuspend id] | 8 => [.pageout id] | 10 => [.unmap id] | 11 => [.protect id] | 13 => [.harvest id] | 14 => [.scopeset id]
  | 15 => [.iolease id] | 17 => [.dbbind id] | 18 => [.dbunbind id] | 19 => [.msibind id] | 20 => [.msiunbind id]
  | 21 => first (.nvmeadmin id noAnswer) | 22 => first (.nvmeqpair id noAnswer) | 23 => first (.nvmeqdel id noAnswer)
  | 24 => first (.nicqcreate id noAnswer) | 25 => first (.nicqdelete id noAnswer) | 26 => first (.nicfilter id noAnswer)
  | 27 => [.atsctl id] | 28 => [.atsinval id] | 29 => [.funcinfo id] | 30 => [.ntbwindow id] | 33 => first (.iderefresh id noAnswer)
  | 35 => [.attest id] | 38 => first (.portreset id noAnswer) | 39 => first (.flr id noAnswer) | 40 => [.retention id]
  | 41 => [.poweralarm id] | 42 => if c.step = 0 then [] else [.fwupdate id noAnswer] | 43 => [.faultinject id] | 44 => [.svcDebug id] | 45 => [.logread id] | 47 => [.serviceinfo id]
  | _ => []

/-- Services, doorbells and the root complex's timers. -/
def State.dueIo (s : State) : List Event :=
  (s.calls.all.flatMap (fun (e : Nat × Call) => (if e.2.who.isSome then [] else callEvent e.1 e.2) ++ [.serviceOverrun e.1]))
    ++ ((s.dws.all.filter (fun e => !e.2.sent)).map (fun (e : Nat × Dw) => Event.doorbellWrite e.1))
    ++ ((s.bindings.all.filter (fun e => e.2.follow)).map (fun (e : Nat × Binding) => Event.dbpFollow e.1))
    ++ s.reqs.keys.map Event.requestTimeout
    ++ (s.subs.all.flatMap (fun (e : Nat × Sub) => (e.2.streams.all.filter (fun x => x.2.refreshing.isSome)).map (fun (x : Nat × Stream) => Event.ideRefreshTimeout e.1 x.1)))
    ++ ((s.quarantine.all.filter (fun e => !e.2.sealed &&
      !(s.reqs.all.any (fun r => match r.2.kind with | .driver _ _ none => r.2.addr = e.1 | _ => false)))).map (fun (e : Nat × Quar) => Event.quarantineSeal e.1))
    ++ s.hubs.keys.map Event.faultLogFullTimeout
    ++ s.ctxs.keys.map Event.watchdogExpiry

/-- The first n regions of a range that holds one still to be cleared: its number. -/
def State.firstUnwiped (s : State) (pa n : Nat) : Option Nat :=
  ((List.range (n / 0x200000)).find? (fun i => s.unwiped (pa + i * 0x200000))).map (pa / 0x200000 + ·)

/-- The regions that the background clear does next, one of each hub's LPDDR-6 and of each CXL device (R361). DESIGN CHOICE (log 121). -/
def State.wipeNext (s : State) : List Nat :=
  [(0x10000000000, 0x10000000000), (0x20000000000, 0x10000000000)].filterMap (fun a => s.firstUnwiped a.1 a.2)
    ++ s.subs.all.filterMap (fun (e : Nat × Sub) => s.firstUnwiped (s.cxlStart e.1) e.2.cxlBytes)

/-- Caches, and memory under the wipe map (R190, R191, R361). -/
def State.dueMemory (s : State) : List Event :=
  (s.cores.all.flatMap (fun (e : Nat × Core) =>
    (if s.clock % ckUs = 0 then [.logicalTimeTick e.1] else [])
      ++ ((e.2.l1.all.filter (fun x => x.2.oldest.any (fun c => c + 2 * ckUs ≤ s.clock))).map (fun (x : Nat × Sector) => Event.writebackTimer e.1 x.1 false))))
    ++ ((s.wipeHeld.map (fun w => w.pa / 0x200000)).eraseDups.map Event.wipeRegionClear)
    ++ (if s.clock % ckUs = 0 then s.wipeNext.map Event.wipeRegionClear else [])

/-- The cores that hold fragments. -/
def State.busyCores (s : State) : List Nat :=
  ((s.teams.all.filter (fun e => e.2.onCore)).map (fun (e : Nat × Team) => e.2.core)).eraseDups

/-- Exchanges and issue ports of the cores, last in a ck (R146, R147). -/
def State.dueIssue (s : State) : List Event :=
  s.busyCores.flatMap (fun k => (if s.exchange k = (none, none) then [.pendingAgeExpiry k] else [.swapExchange k]) ++ [.issueCycle k])

/-- The steps that are due in this ck. -/
def State.dueSteps (s : State) : List Event :=
  s.dueFrags ++ s.dueCounters ++ s.dueEngines ++ s.dueTeams ++ s.dueGraphs ++ s.dueQueues ++ s.dueIo ++ s.dueMemory ++ s.dueIssue

-- The passing of a ck --------------------------------------------------------------------------------------------------------

/-- A fragment whose word has taken its time goes on (R144). -/
def State.freed (s : State) (f : Frag) : Frag :=
  let on : Frag := { f with st := if f.active.isSome then .active else .pending, why := .none, ready := some s.clock }
  match f.why with
  | .busy ck => if ck ≤ s.clock then on else f
  | .accesses lanes ops => if lanes.any s.laneCopies.keys.contains ∨ ops.any s.ops.keys.contains then f else on
  | _ => f

/-- The fragment waits or has joined: what case 2 of R147 looks for. -/
def Frag.markWait (f : Frag) (clock : Nat) : Frag :=
  { f with waitedAt := if f.active.isSome && f.st.leavesSet then some (f.waitedAt.getD clock) else none }

/-- What is kept as time passes: since when teams are park-eligible (R151) and fragments wait (R147), and the watchdogs of contexts
with no team on a core, which stand still (R159). -/
def State.keepTime (s : State) : State :=
  { s with
    teams := s.teams.map (fun e => (e.1, e.2.map (fun x =>
      { x with eligible := if x.run = .resident && x.kind = .compute && s.idleTeam e.1 then some (x.eligible.getD s.clock) else none })))
    frags := s.frags.map (fun e => (e.1, e.2.map (fun f => (s.freed f).markWait s.clock)))
    ctxs := s.ctxs.map (fun e => (e.1, e.2.map (fun c =>
      if s.teams.all.any (fun t => t.2.kind = .compute && t.2.ctx = e.1 && t.2.onCore) then c else { c with watch := c.watch + 1 }))) }

/-- A step that reads or writes memory and registers as fragments and engines do, or issues words: it may come between the pieces of an
access. Any other step comes before or after them all. DESIGN CHOICE (log 129). -/
def Event.meetsPieces : Event → Bool
  | .piece _ _ => true
  | .resultWrite _ _ _ _ => true
  | .issueCycle _ => true
  | .swapExchange _ => true
  | .pendingAgeExpiry _ => true
  | .homeCounterOp _ => true
  | .counterAnswer _ => true
  | .copyChunk _ => true
  | .cpyComplete _ => true
  | .writebackTimer _ _ _ => true
  | .logicalTimeTick _ => true
  | .engineOpPerform _ => true
  | .mmaStep _ => true
  | .ringPublish _ _ => true
  | .ringRefill _ _ => true
  | .scratchStage _ => true
  | .caddPacket _ => true
  | .write _ => true
  | .wrsig _ => true
  | .doorbellWrite _ => true
  | .inboundDma _ _ _ _ _ => true
  | .inboundCounterWrite _ _ _ _ => true
  | .inboundFetchadd _ _ _ _ _ => true
  | _ => false

/-- A step of issue or exchange, which a ck does not hand on to the next. -/
def Event.ofCk : Event → Bool
  | .issueCycle _ => true
  | .swapExchange _ => true
  | .pendingAgeExpiry _ => true
  | _ => false

/-- A ck passes: CLOCK rises, and the next ck's steps are due after those that were put off (R19). In retention CLOCK stands still
(R475); during a resume it counts, but nothing is due except the resume (R476). -/
def State.tick (s : State) : State :=
  if s.power = .retention then { s with agenda := s.again, again := [] }
  else if !s.awake then { ({ s with clock := s.clock + 1, fresh := s.fresh + 1 } : State).keepTime with agenda := s.again, again := [] }
  else
    let s : State := { s with clock := s.clock + 1, fresh := s.fresh + 1 }
    let s := s.hubs.keys.foldl (fun (s : State) h => s.flushLog h (s.hub h).flog.length) s
    let s := s.keepTime.entryStep
    { s with agenda := s.agenda.filter (fun e => !e.ofCk) ++ s.again ++ s.dueSteps, again := [] }

end Sys2Proof.Machine
end

