-- ==== Sys2Proof/Machine/Step.lean ====
section
/-! DEFINITION. One step of the device: a fragment's word, a step that is due, or the passing of a ck; and the placing of one instruction
where the next step fetches. -/

namespace Sys2Proof.Machine

/-- A fragment's turn: its word takes effect, unless something holds it back (R44). -/
def State.turn (s : State) (c : Cur) : Out :=
  match s.issue c with
  | .held s => .next s
  | .run i s => exec i s

/-- A due step, which waits behind the pieces under way unless it is one that pieces may meet (R200). -/
def State.runDue (s : State) (e : Event) : Out :=
  if s.torn = [] ∨ e.meetsPieces then runEvent e s else .next { s with agenda := s.agenda ++ [e] }

/-- The step that comes next of itself: a word chosen in this ck, then the due steps in order, then the next ck. -/
def State.advance (s : State) : Out :=
  match s.issueQ with
  | c :: rest => ({ s with issueQ := rest } : State).turn c
  | [] =>
    match s.agenda with
    | e :: rest => ({ s with agenda := rest } : State).runDue e
    | [] => .next s.tick

/-- A device without supplies does nothing until power-on (R472, R478). -/
def State.dead (s : State) : Out :=
  match s.agenda with
  | .reset .powerOn boot :: rest => runEvent (.reset .powerOn boot) { s with agenda := rest }
  | _ => .fault .unpowered

/-- One step. Where steps are due at the same time, `order` says which comes first; no rule does (log 1). -/
def step (s : State) : Host.Outcome State Fault Refusal :=
  if s.power = .off then s.dead
  else
    match s.order with
    | [] => s.advance
    | n :: rest =>
      let s : State := { s with order := rest }
      match s.agenda[n]? with
      | some e => ({ s with agenda := s.agenda.eraseIdx n } : State).runDue e
      | none => s.advance

-- One instruction where the next step fetches -------------------------------------------------------------------------------

/-- Where withFetchWord places its tables and its code: the PASID and the code's virtual address; and the directory, the tables and the
code's frame in HBM4E. -/
def slotPasid : Nat := 0xFFFFE
def slotVa : Nat := 0x10000
def slotDir : Nat := 0x10000000
def slotRoot : Nat := 0x11000000
def slotFrame : Nat := 0x12000000

/-- Page tables that map the code page R, W and X (R341, R342, R363). -/
def State.slotTables (s : State) : State :=
  let s := s.putHub 0 { s.hub 0 with fedir := BitVec.ofNat 64 slotDir }
  let s := s.memStore (slotDir + 8 * slotPasid) (leBytes 8 (slotRoot / 2 ^ 16 * 2 ^ 10 + 3))
  let s := s.memStore slotRoot (leBytes 8 (slotRoot + 0x10000 + 1))
  let s := s.memStore (slotRoot + 0x10000) (leBytes 8 (slotRoot + 0x40000 + 1))
  s.memStore (slotRoot + 0x40000 + 8 * (slotVa / pageBytes)) (leBytes 8 (slotFrame + 0x12F))

/-- The core that runs a mode's words. -/
def slotCore : Mode → Nat
  | .compute => 0
  | .system => sysCore 0
  | .prologue => feCore 0

/-- The words of an instruction placed where the next step fetches: a resident team of the mode that permits them, with one group and one
fragment whose turn it is (log 15). -/
def State.withFetchWord (s : State) (nbits w : Nat) : State :=
  let mode := naturalMode (w % 2 ^ 64)
  let w := w % 2 ^ min nbits 128
  let t := s.nextId
  let k := slotCore mode
  let s := s.slotTables
  let s := s.memStore slotFrame (leBytes 16 w)
  let x : Team := { kind := mode, launch := t, core := k, pasid := slotPasid, bs := 1, rings := [] }
  let f : Frag := { em := if mode = .prologue then 1 else BitVec.allOnes 32, pc := BitVec.ofNat 64 slotVa, st := .active
                    active := some s.clock, ready := some s.clock }
  let l : Launch := { desc := { prol := BitVec.ofNat 64 slotVa, plen := 4 }, queue := 0, own := .packet 0 0, pasid := slotPasid, ctx := 0
                      step := if mode = .prologue then .inPrologue else .admitted, total := 1, nextTeam := 1, left := 1 }
  { s with
    power := .running
    order := []
    issueQ := [⟨16 * t, 0⟩]
    teams := s.teams.put t x
    groups := s.groups.put (16 * t) {}
    frags := s.frags.put (64 * (16 * t)) f
    launches := s.launches.put t l
    nextId := t + 1 }

end Sys2Proof.Machine
end

