-- ==== Sys2Proof/Safety.lean ====
section
/-! DEFINITION. What counts as a safe state and a safe run, in the terms that the statements use: the invariant of the memories, the
fragment whose turn it is, and what a word leaves when it goes on. -/

namespace Sys2Proof.Machine

/-- Memory, its poison marks and the write-grant bitmap are in their canonical forms. -/
def State.Inv (s : State) : Prop :=
  Memory.wf s.mem = true ∧ Cells.wf false s.poison = true ∧ Cells.wf false s.grants = true

/-- n is the fragment whose word is being issued, and its mode permits words of p (R24, R25). -/
def State.permits (s : State) (p : Permit) (n : Now) : Prop := s.now = some n ∧ p.fault n.t.kind = none

/-- The next sequential address of a word of `size` bytes is an address (R162). -/
def Now.fits (n : Now) (size : Nat) : Prop := (n.f.pc + BitVec.ofNat 64 size).toNat < 2 ^ 56

/-- s with the group g and the fragment f in the places of the fragment whose word is being issued. -/
def State.holding (s : State) (g : Group) (f : Frag) : State :=
  { s with groups := s.groups.put s.cur.gid g, frags := s.frags.put s.cur.fid f }

/-- s after a word of `size` bytes that leaves the group g: the fragment goes on at the next word, which may issue `gap` ck later. -/
def State.after (s : State) (n : Now) (g : Group) (size : Nat) (gap : Nat := 1) : State :=
  s.holding g { n.f with pc := n.f.pc + BitVec.ofNat 64 size, ready := some (s.clock + gap) }

/-- s after a word that transfers control to the address t (R165). -/
def State.jumped (s : State) (n : Now) (g : Group) (t : Word) : State :=
  s.holding g { n.f with pc := t, ready := some (s.clock + 2) }

/-- The windows of the fragment on results that are still pending. -/
def Now.windows (n : Now) : List (Nat × Nat) := n.f.wins.filter (fun w => (n.g.pends.find w.1).isSome)

/-- s after a word of `size` bytes that opened the pending result p, under the machine's next number and with a window of la words (R31). -/
def State.opened (s : State) (n : Now) (p : Pend) (la : Nat := 0) (size : Nat := 8) : State :=
  { s.holding { n.g with pends := n.g.pends.put s.nextId { p with pc := n.f.pc, slot := s.cur.slot } }
      { n.f with pc := n.f.pc + BitVec.ofNat 64 size, ready := some (s.clock + 1), wins := n.windows ++ [(s.nextId, la)] } with
    nextId := s.nextId + 1 }

/-- s after a word that transfers control to the address t and leaves the values l to be written 2 ck later (R84, R165). -/
def State.linked (s : State) (n : Now) (l : List RegVal) (t : Word) : State :=
  let p : Pend := { regs := (l.map RegVal.reg).eraseDups, vals := some l, due := s.clock + 2, short := true, pc := n.f.pc, slot := s.cur.slot }
  { s.holding { n.g with pends := n.g.pends.put s.nextId p }
      { n.f with pc := t, ready := some (s.clock + 2), wins := n.windows ++ [(s.nextId, 0)] } with
    nextId := s.nextId + 1 }

/-- s after an interlocked word of `size` bytes: the values l are to be written, and the flags fl ORed in, `lat` ck later (R84, R89, R110). -/
def State.wrote (s : State) (n : Now) (l : List RegVal) (lat : Nat) (fl : BitVec 5 := 0) (fp : Bool := false) (size : Nat := 8) : State :=
  s.opened n { regs := (l.map RegVal.reg).eraseDups, vals := some l, flags := fl, due := s.clock + lat, short := true, fp := fp } 0 size

/-- s after an interlocked word whose result is h in each lane of m of vector register d. -/
def State.wroteLanes (s : State) (n : Now) (m : Mask) (d : Nat) (h : Nat → Lane) (lat : Nat) (fl : BitVec 5 := 0) (fp : Bool := false)
    (size : Nat := 8) : State :=
  s.wrote n ((lanesOf m).map (fun i => .v d i (h i))) lat fl fp size

/-- t is s after an interlocked word whose result is x in each lane of m of predicate d. -/
def State.wrotePred (s t : State) (n : Now) (m : Mask) (d : Nat) (x : Nat → Bool) (lat : Nat) (fl : BitVec 5 := 0) (fp : Bool := false) : Prop :=
  ∃ y : Mask, t = s.wrote n [.p d m y] lat fl fp ∧ ∀ i, i < 32 → m.getLsbD i = true → y.getLsbD i = x i

/-- exec answers a next state of which P holds. -/
def Completes (i : Instr) (s : State) (P : State → Prop) : Prop := ∃ t, exec i s = .next t ∧ P t

end Sys2Proof.Machine

open Sys2Proof Sys2Proof.Machine

/-- The value of a lane as its type reads it, clamped to its range (R101). -/
def Sys2Proof.Machine.clampTo (ty : Sgn) (x : Int) : Int :=
  match ty with
  | .sg => if x < -2147483648 then -2147483648 else if 2147483647 < x then 2147483647 else x
  | .un => if x < 0 then 0 else if 4294967295 < x then 4294967295 else x

/-- The word of i goes on with h to be written to the active lanes of vector register d `lat` ck later, and nothing else. -/
def Sys2Proof.Machine.Lanewise (s : State) (n : Now) (i : Instr) (d : VReg) (h : Nat → Lane) (lat : Nat := 4) (size : Nat := 8) (fp : Bool := false) : Prop :=
  exec i s = .next (s.wroteLanes n n.f.em d.val h lat 0 fp size)

/-- The exceptions of the lanes of m together (R62). -/
def Sys2Proof.Machine.flagsOf (m : Mask) (h : Nat → FRes) : BitVec 5 := (lanesOf m).foldl (fun a i => a ||| (h i).2) 0

/-- The word of i goes on with float results to be written to the active lanes of d with their flags `lat` ck later, and nothing else. -/
def Sys2Proof.Machine.Floatwise (s : State) (n : Now) (i : Instr) (d : VReg) (h : Nat → FRes) (lat : Nat := 4) : Prop :=
  exec i s = .next (s.wroteLanes n n.f.em d.val (fun l => BitVec.ofNat 32 (h l).1) lat (flagsOf n.f.em h) true)

/-- The L instruction i opens a pending result of d with the float results and flags of the active lanes. -/
def Sys2Proof.Machine.FloatLater (s : State) (n : Now) (i : Instr) (la : La) (lat : Nat) (d : VReg) (h : Nat → FRes) (fp : Bool := true) : Prop :=
  exec i s = .next (s.opened n { regs := [.v d.val], vals := some ((lanesOf n.f.em).map (fun l => .v d.val l (BitVec.ofNat 32 (h l).1)))
                                 flags := flagsOf n.f.em h, due := s.clock + lat, fp := fp } la.val)

/-- The full-form instruction of a half, its destination also its first source (R37). -/
def Sys2Proof.Half.full : Half → Instr
  | .vadd d a => .vadd d d (.vec a)
  | .vsub d a => .vsub d d (.vec a)
  | .vmul d a => .vmul d d (.vec a)
  | .vand d a => .vand d d (.vec a)
  | .vor d a => .vor d d (.vec a)
  | .vxor d a => .vxor d d (.vec a)
  | .vshl d a => .vshl d d (.src (.vec a))
  | .vshr d a => .vshr d d (.src (.vec a))
  | .vsra d a => .vsra d d (.src (.vec a))
  | .vmin n d a => .vmin n d d (.vec a)
  | .vmax n d a => .vmax n d d (.vec a)
  | .vmov d a => .vmov d a
  | .vaddi d a x => .vaddi d a (x.signExtend 30)
  | .vmovi d x => .vmovi d (x.signExtend 30)
  | .vfadd rm d a => .vfadd rm d d (.vec a)
  | .vfsub rm d a => .vfsub rm d d (.vec a)
  | .vfmul rm d a => .vfmul rm d d (.vec a)
  | .vfmin d a => .vfmin d d (.vec a)
  | .vfmax d a => .vfmax d d (.vec a)
  | .vhadd rm d a => .vhadd .f16 rm d d (.vec a)
  | .vhmul rm d a => .vhmul .f16 rm d d (.vec a)
  | .sadd d a => .sadd d d a
  | .ssub d a => .ssub d d a
  | .sand d a => .sand d d a
  | .sor d a => .sor d d a
  | .sxor d a => .sxor d d a
  | .sshl d a => .sshl d d (.reg a)
  | .sshr d a => .sshr d d (.reg a)
  | .smov d a => .smov d a
  | .saddi d a x => .saddi d a (x.signExtend 30)
  | .smovi d x => .smovi d (x.signExtend 30)

/-- The PAIR word i has exactly the effects of the full-form instructions of its halves h0 and h1, from the sources before either writes (R37):
it completes, and leaves the pending results that each of the two alone would leave. -/
def Sys2Proof.Machine.State.pairs (s : State) (n : Now) (i : Instr) (h0 h1 : Half) : Prop :=
  ∃ p0 p1 : Pend, exec h0.full s = .next (s.opened n p0) ∧ exec h1.full s = .next (s.opened n p1)
    ∧ exec i s = .next { s.holding
          { n.g with pends := (n.g.pends.put s.nextId { p0 with pc := n.f.pc, slot := s.cur.slot }).put (s.nextId + 1)
                       { p1 with pc := n.f.pc, slot := s.cur.slot } }
          { n.f with pc := n.f.pc + 8, ready := some (s.clock + 1), wins := n.windows ++ [(s.nextId, 0), (s.nextId + 1, 0)] } with
        nextId := s.nextId + 2 }

/-- Control may be transferred to t (R41): a multiple of 8, below 2^56, and the word there can be fetched and is no EXT word; s' is s with what
the fetch left in the translation caches. -/
def Sys2Proof.Machine.State.reaches (s : State) (n : Now) (t : Word) (s' : State) : Prop :=
  t.toNat % 8 = 0 ∧ t.toNat < 2 ^ 56 ∧ ∃ w, s.fetchWord (n.party s.cur.team) t.toNat = (.ok w, s') ∧ bits w 63 60 ≠ 15

/-- Every token that a wait mask names is zero (R33). -/
def Sys2Proof.Machine.Now.idle (n : Now) (wt : Wait) : Prop := ∀ k, k < 8 → wt.getLsbD k = true → n.g.tget k = 0

/-- The value last written to a byte as a party knows it: a byte that its core's L1 holds dirty, else the byte at its home (R190, R245). -/
def Sys2Proof.Machine.State.latest (s : State) (p : Party) (q : Nat) : Byte :=
  match p.l1.bind (fun k => (s.core k).l1.find (q / 64)) with
  | some x => if x.dirty.getLsbD (q % 64) then Cells.get 0 x.data (q % 64) else s.memByte q
  | none => s.memByte q

/-- The bytes that a store puts at the pieces of a checked access, in order of address. -/
def Sys2Proof.Machine.storedAt : List (Nat × Nat × Nat) → List Byte → List (Nat × Byte)
  | [], _ => []
  | (pa, _, n) :: r, b => (b.take n).zipIdx.map (fun e => (pa + e.2, e.1)) ++ Sys2Proof.Machine.storedAt r (b.drop n)

/-- The bytes that a store puts at the pieces of a checked scratch access. -/
def Sys2Proof.Machine.storedScr : List (Scr × Nat) → List Byte → List (Scr × Byte)
  | [], _ => []
  | (x, n) :: r, b => (b.take n).zipIdx.map (fun e => (match x with
      | .cell k o => .cell k (o + e.2)
      | .pad k o => .pad k (o + e.2)
      | .counter k i => .counter k i, e.1)) ++ Sys2Proof.Machine.storedScr r (b.drop n)

/-- The byte that was stored last under a name, if any. -/
def Sys2Proof.Machine.lastStored {α : Type} [DecidableEq α] (l : List (α × Byte)) (q : α) : Option Byte :=
  (l.reverse.find? (fun e => e.1 = q)).map (·.2)

/-- No write is held at a home, and migrations begin at page boundaries. -/
def Sys2Proof.Machine.State.calm (s : State) : Prop := s.settled = true ∧ ∀ m ∈ s.migrations, m.frame % 65536 = 0

/-- u differs from s, as party p knows memory, in the stored bytes alone: each holds the byte stored last (R207, R246). -/
def Sys2Proof.Machine.State.holdsStored (u s : State) (p : Party) (l : List (Nat × Byte)) : Prop :=
  s.calm → ∀ q, u.latest p q = (lastStored l q).getD (s.latest p q)

/-- The pending result of a load: with its bytes known, or with none where its pieces are steps of their own (R200). -/
def Sys2Proof.Machine.loadPend (regs : List PendReg) (due : Nat) (vals : Option (List RegVal)) (bad : Option Bad := none) : Pend :=
  { regs := regs, vals := vals, due := due, bad := poisonFail bad }

/-- s after a word of 8 bytes that leaves the group and the fragment of m: the fragment goes on, or waits as told. -/
def Sys2Proof.Machine.State.goes (s : State) (m : Now) (wait : Option (FragSt × WaitFor)) : State :=
  s.holding m.g (match wait with
    | none => { m.f with pc := m.f.pc + 8, ready := some (s.clock + 1) }
    | some (st, why) => { m.f with pc := m.f.pc + 8, st := st, why := why, ready := none })

/-- The operation that a word of the fragment sends to the home of the counter k. -/
def Sys2Proof.Machine.opOf (s : State) (n : Now) (k : Ctr) (act : CtrDo) (x : Word) (sc : Option Scope) : CtrOp :=
  { ctr := k, act := act, who := .frag s.cur.fid 0, scope := sc.map (·.val), team := s.cur.team, pasid := n.t.pasid, va := x, pc := n.f.pc }

/-- The packet in progress of queue k, that was q, has been retired without a fault: the FE goes on to the next index (R367). -/
def Sys2Proof.Machine.State.retired (u : State) (k : Nat) (q : Queue) (live : Bool) : Prop :=
  ∃ q', u.queues.find k = some q' ∧ q'.next = q.next + 1 ∧ q'.step = .idle ∧ q'.pkt = none ∧ q'.fcause = q.fcause
    ∧ q'.live = if live then q.live ++ [q.next] else q.live

/-- The scalar, the lane and the predicate bit that a list of register values leaves, if any: the value written last. -/
def Sys2Proof.Machine.lastScalar (l : List RegVal) (r : Nat) : Option Word :=
  l.reverse.findSome? (fun e => match e with | .s q x => if q = r then some x else none | _ => none)

/-- The last value in a list for a lane of a vector register. -/
def Sys2Proof.Machine.lastLane (l : List RegVal) (r i : Nat) : Option Lane :=
  l.reverse.findSome? (fun e => match e with | .v q j x => if q = r ∧ j = i then some x else none | _ => none)

/-- The last value in a list for a bit of a predicate. -/
def Sys2Proof.Machine.lastBit (l : List RegVal) (r i : Nat) : Option Bool :=
  l.reverse.findSome? (fun e => match e with | .p q m x => if q = r ∧ m.getLsbD i = true then some (x.getLsbD i) else none | _ => none)

/-- The registers of h are those of g with the values l written; s0 stays zero and p0 all ones (R29). -/
def Sys2Proof.Machine.Group.takes (h g : Machine.Group) (l : List RegVal) : Prop :=
  (∀ r, h.sget r = if r = 0 then 0 else (lastScalar l r).getD (g.sget r))
    ∧ (∀ r i, i < 32 → h.vget r i = (lastLane l r i).getD (g.vget r i))
    ∧ ∀ r i, i < 32 → (h.pget r).getLsbD i = (r = 0 || (lastBit l r i).getD ((g.pget r).getLsbD i))

/-- Vetiver works on the call id of service num (R439): it has begun and keeps its block, or it begins now with a good block of version 1. c is
the call with its arguments, and u the state in which its service acts. -/
def Sys2Proof.Machine.State.serving (s : State) (num id : Nat) (c : Call) (u : State) : Prop :=
  ∃ x, s.calls.find id = some x ∧ x.num = num ∧ x.who = none ∧ s.running = true ∧
    ((x.begun ≠ none ∧ c = x ∧ ∃ pa, s.blockAt x true = (some pa, u))
      ∨ (x.begun = none ∧ s.mayBegin id x = true ∧ ∃ args v, s.readBlock x = (some (1 :: args), v)
        ∧ c = { x with begun := some v.clock, args := args } ∧ u = ({ v with calls := v.calls.put id c } : State).admitCalls x.hub 1))

/-- The range arguments of a memory service (R441), good for the PASID: n pages from va. -/
def Sys2Proof.Machine.State.ranged (u : State) (c : Call) (va n : Nat) : Prop :=
  u.pasidBad c.hub (c.arg 0) = false ∧ va = (c.arg 1).toNat ∧ va % 0x10000 = 0 ∧ (c.arg 2).toNat = n * 0x10000 ∧ 1 ≤ n ∧ n ≤ 2 ^ 24
    ∧ va + n * 0x10000 ≤ 2 ^ 56

/-- A function that may issue requests (R436, R461). -/
def Sys2Proof.Machine.State.issues (s : State) (fn : Nat) (f : Func) : Prop :=
  s.funcs.find fn = some f ∧ f.master = true ∧ (s.sub (fnSub fn)).up = true ∧ s.outsideIde fn = false

/-- The number that the words of an instruction make, the first word lowest. -/
def Sys2Proof.wordsNat (l : List (BitVec 64)) : Nat := l.foldr (fun w k => w.toNat + 2 ^ 64 * k) 0
end

