-- ==== Sys2Proof/Certificates/Slice0/Obligations.lean ====
section
/-! DEFINITION. The statements for the provers. -/

open Sys2Proof Sys2Proof.Machine

/-- A fragment's turn (R31, R33, R39, R40, R42, R44, R251): with its word, and its EXT word, fetched and decoded, nothing to wait for and no debug stop or
window against it, the step is the instruction at the state that has counted it; a word that does not decode traps with the code that decoding gives,
and a debug stop or a violation with its own; one that touches a long pending result waits in WAIT-L, one whose mask names a non-zero token in WAIT-T,
and one that an interlocked result or a busy unit holds back is ready anew in the next ck. With no turn due, the step is the next step that is due,
unless that one waits behind the pieces of an access, and with none of those the passing of a ck. A step that is due is the instruction of its name. -/
def Obligations.StepRunsDecoded : Prop :=
  (∀ (s : State), s.power ≠ .off → s.order = [] →
      (∀ (s1 : State) (c : Cur) (rest : List Cur) (n : Now) (w : Word) (i : Instr), s.issueQ = c :: rest →
        let s0 : State := { s with issueQ := rest, cur := c }
        s0.now = some n → s0.mayIssue n = true → s0.outsideProl n = false → s0.fetchWord (n.party c.team) n.f.pc.toNat = (.ok w, s1) →
        let runs (s' : State) (i : Instr) : Prop :=
          let long := ((n.interlocks i).filter (fun e => !e.2.short)).map (·.1)
          let far : Prop := i.form = 4 ∨ i.form = 5 ∨ i.form = 7
          let held (x : Frag) : Prop := step s = .next (s'.putFrag c x)
          (s'.standing n i = .ready → n.debugStop i = none → n.violation i = none → step s = exec i (s'.count n i))
            ∧ (s'.standing n i = .ready ↔ n.interlocks i = [] ∧ (far → n.f.acquires = []) ∧ n.tokenWait i = false ∧ s'.notYet n i = false)
            ∧ (∀ f, s'.standing n i = .ready → n.debugStop i = none → n.violation i = some f → step s = .next (s'.trapNow n f))
            ∧ (∀ k, s'.standing n i = .ready → n.debugStop i = some k →
              step s = .next ((s'.updTeam c.team (fun t => { t with dbg := { t.dbg with stepped := false } })).trapNow n { code := k }))
            ∧ (long ≠ [] → held { n.f.closes long with st := .waitL, why := .results long, ready := none })
            ∧ (long = [] → far → n.f.acquires ≠ [] → held { n.f with st := .waitL, why := .acquire, ready := none })
            ∧ (long = [] → (far → n.f.acquires = []) → n.tokenWait i = true → held { n.f with st := .waitT, why := .tokens i.waitMask, ready := none })
            ∧ (long = [] → (far → n.f.acquires = []) → n.tokenWait i = false → n.interlocks i ≠ [] ∨ s'.notYet n i = true →
              held { n.f with ready := some (s'.clock + 1) })
        (w.toNat / 2 ^ 60 = 15 → runs s1 (.ext (w.setWidth 60)))
          ∧ (w.toNat / 2 ^ 60 ≠ 15 →
            (decodeWord n.t.kind n.t.nregs w.toNat = .instr i → runs s1 i)
            ∧ (∀ f k x s2, decodeWord n.t.kind n.t.nregs w.toNat = .needs f k → s1.fetchWord (n.party c.team) (n.f.pc.toNat + 8) = (.ok x, s2) →
              decodeExt f k x.toNat = .instr i → runs s2 i)
            ∧ (∀ code td, decodeWord n.t.kind n.t.nregs w.toNat = .bad code td → s1.standingBad n = .ready →
              step s = .next (s1.trapNow n (decodeFail w code td)))
            ∧ (∀ code td m, decodeWord n.t.kind n.t.nregs w.toNat = .bad code td → s1.standingBad n = .tokens m →
              step s = .next (s1.putFrag c { n.f with st := .waitT, why := .tokens m, ready := none }))))
        ∧ (∀ e rest, s.issueQ = [] → s.agenda = e :: rest → s.torn = [] ∨ e.meetsPieces = true → step s = runEvent e { s with agenda := rest })
        ∧ (∀ e rest, s.issueQ = [] → s.agenda = e :: rest → s.torn ≠ [] → e.meetsPieces = false → step s = .next { s with agenda := rest ++ [e] })
        ∧ (s.issueQ = [] → s.agenda = [] → step s = .next s.tick))
    ∧ (∀ (s : State),
      (∀ gid slot, runEvent (.haltWake gid slot) s = exec (.haltWake gid slot) s)
        ∧ (∀ gid slot pid part, runEvent (.resultWrite gid slot pid part) s = exec (.resultWrite gid slot pid part) s)
        ∧ (∀ core, runEvent (.issueCycle core) s = exec (.issueCycle core) s) ∧ (∀ core, runEvent (.swapExchange core) s = exec (.swapExchange core) s)
        ∧ (∀ core, runEvent (.pendingAgeExpiry core) s = exec (.pendingAgeExpiry core) s)
        ∧ (∀ op, runEvent (.homeCounterOp op) s = exec (.homeCounterOp op) s) ∧ (∀ home, runEvent (.coldMoveTick home) s = exec (.coldMoveTick home) s)
        ∧ (∀ ans, runEvent (.counterAnswer ans) s = exec (.counterAnswer ans) s)
        ∧ (∀ op, runEvent (.waiterRefusalLimit op) s = exec (.waiterRefusalLimit op) s)
        ∧ (∀ core sector evict, runEvent (.writebackTimer core sector evict) s = exec (.writebackTimer core sector evict) s)
        ∧ (∀ core pasid va, runEvent (.pageWalk core pasid va) s = exec (.pageWalk core pasid va) s)
        ∧ (∀ team, runEvent (.parkThreshold team) s = exec (.parkThreshold team) s) ∧ (∀ team, runEvent (.parkSave team) s = exec (.parkSave team) s)
        ∧ (∀ team core, runEvent (.teamRelaunch team core) s = exec (.teamRelaunch team core) s)
        ∧ (∀ ctx, runEvent (.watchdogExpiry ctx) s = exec (.watchdogExpiry ctx) s)
        ∧ (∀ die, runEvent (.copyEngineStart die) s = exec (.copyEngineStart die) s) ∧ (∀ copy, runEvent (.copyChunk copy) s = exec (.copyChunk copy) s)
        ∧ (∀ copy, runEvent (.cpyComplete copy) s = exec (.cpyComplete copy) s)
        ∧ (∀ core, runEvent (.engineOpPerform core) s = exec (.engineOpPerform core) s) ∧ (∀ core, runEvent (.mmaStep core) s = exec (.mmaStep core) s)
        ∧ (∀ core, runEvent (.batonGrant core) s = exec (.batonGrant core) s)
        ∧ (∀ team ring, runEvent (.ringPublish team ring) s = exec (.ringPublish team ring) s)
        ∧ (∀ team ring, runEvent (.ringRefill team ring) s = exec (.ringRefill team ring) s)
        ∧ (∀ team, runEvent (.teamEnd team) s = exec (.teamEnd team) s) ∧ (∀ team, runEvent (.teamStop team) s = exec (.teamStop team) s)
        ∧ (∀ hub, runEvent (.faultLogFullTimeout hub) s = exec (.faultLogFullTimeout hub) s)
        ∧ (∀ team, runEvent (.debugBudgetExpiry team) s = exec (.debugBudgetExpiry team) s)
        ∧ (∀ site double, runEvent (.sramEccError site double) s = exec (.sramEccError site double) s)
        ∧ (∀ queue, runEvent (.qcbReread queue) s = exec (.qcbReread queue) s) ∧ (∀ queue, runEvent (.packetTake queue) s = exec (.packetTake queue) s)
        ∧ (∀ queue, runEvent (.launch queue) s = exec (.launch queue) s) ∧ (∀ queue, runEvent (.copyPacket queue) s = exec (.copyPacket queue) s)
        ∧ (∀ queue, runEvent (.caddPacket queue) s = exec (.caddPacket queue) s)
        ∧ (∀ queue, runEvent (.cwaitPacket queue) s = exec (.cwaitPacket queue) s) ∧ (∀ queue, runEvent (.write queue) s = exec (.write queue) s)
        ∧ (∀ queue, runEvent (.wrsig queue) s = exec (.wrsig queue) s) ∧ (∀ queue, runEvent (.graph queue) s = exec (.graph queue) s)
        ∧ (∀ queue, runEvent (.marker queue) s = exec (.marker queue) s) ∧ (∀ launch, runEvent (.prologueRun launch) s = exec (.prologueRun launch) s)
        ∧ (∀ team, runEvent (.prologueTimeout team) s = exec (.prologueTimeout team) s)
        ∧ (∀ launch, runEvent (.admission launch) s = exec (.admission launch) s)
        ∧ (∀ launch core, runEvent (.teamDispatch launch core) s = exec (.teamDispatch launch core) s)
        ∧ (∀ launch, runEvent (.launchEnd launch) s = exec (.launchEnd launch) s)
        ∧ (∀ queue, runEvent (.timeSliceExpiry queue) s = exec (.timeSliceExpiry queue) s)
        ∧ (∀ team cause, runEvent (.preempt team cause) s = exec (.preempt team cause) s)
        ∧ (∀ launch lin, runEvent (.staging launch lin) s = exec (.staging launch lin) s)
        ∧ (∀ arb, runEvent (.arbiterAging arb) s = exec (.arbiterAging arb) s)
        ∧ (∀ graph node, runEvent (.kernelNode graph node) s = exec (.kernelNode graph node) s)
        ∧ (∀ graph node, runEvent (.copyNode graph node) s = exec (.copyNode graph node) s)
        ∧ (∀ graph node, runEvent (.caddNode graph node) s = exec (.caddNode graph node) s)
        ∧ (∀ graph node, runEvent (.cwaitNode graph node) s = exec (.cwaitNode graph node) s)
        ∧ (∀ graph node, runEvent (.condNode graph node) s = exec (.condNode graph node) s)
        ∧ (∀ graph node, runEvent (.loopNode graph node) s = exec (.loopNode graph node) s)
        ∧ (∀ graph node, runEvent (.switchNode graph node) s = exec (.switchNode graph node) s)
        ∧ (∀ graph node, runEvent (.endNode graph node) s = exec (.endNode graph node) s)
        ∧ (∀ graph, runEvent (.graphEnd graph) s = exec (.graphEnd graph) s)
        ∧ (∀ graph, runEvent (.graphWatchdog graph) s = exec (.graphWatchdog graph) s)
        ∧ (∀ pasid va frame tier, runEvent (.tmeMigration pasid va frame tier) s = exec (.tmeMigration pasid va frame tier) s)
        ∧ (∀ pa, runEvent (.pageClear pa) s = exec (.pageClear pa) s)
        ∧ (∀ region, runEvent (.wipeRegionClear region) s = exec (.wipeRegionClear region) s)
        ∧ (∀ call, runEvent (.serviceOverrun call) s = exec (.serviceOverrun call) s) ∧ (∀ call, runEvent (.echo call) s = exec (.echo call) s)
        ∧ (∀ call, runEvent (.qattach call) s = exec (.qattach call) s) ∧ (∀ call, runEvent (.qdetach call) s = exec (.qdetach call) s)
        ∧ (∀ call, runEvent (.ctxcreate call) s = exec (.ctxcreate call) s) ∧ (∀ call, runEvent (.ctxkill call) s = exec (.ctxkill call) s)
        ∧ (∀ call, runEvent (.ctxresume call) s = exec (.ctxresume call) s) ∧ (∀ call, runEvent (.ctxsuspend call) s = exec (.ctxsuspend call) s)
        ∧ (∀ call frame, runEvent (.pagereq call frame) s = exec (.pagereq call frame) s)
        ∧ (∀ call, runEvent (.pageout call) s = exec (.pageout call) s) ∧ (∀ call frame, runEvent (.map call frame) s = exec (.map call frame) s)
        ∧ (∀ call, runEvent (.unmap call) s = exec (.unmap call) s) ∧ (∀ call, runEvent (.protect call) s = exec (.protect call) s)
        ∧ (∀ call frame, runEvent (.migrate call frame) s = exec (.migrate call frame) s)
        ∧ (∀ call, runEvent (.harvest call) s = exec (.harvest call) s) ∧ (∀ call, runEvent (.scopeset call) s = exec (.scopeset call) s)
        ∧ (∀ call, runEvent (.iolease call) s = exec (.iolease call) s) ∧ (∀ call, runEvent (.iorelease call) s = exec (.iorelease call) s)
        ∧ (∀ call, runEvent (.dbbind call) s = exec (.dbbind call) s) ∧ (∀ call, runEvent (.dbunbind call) s = exec (.dbunbind call) s)
        ∧ (∀ call, runEvent (.msibind call) s = exec (.msibind call) s) ∧ (∀ call, runEvent (.msiunbind call) s = exec (.msiunbind call) s)
        ∧ (∀ call ans, runEvent (.nvmeadmin call ans) s = exec (.nvmeadmin call ans) s)
        ∧ (∀ call ans, runEvent (.nvmeqpair call ans) s = exec (.nvmeqpair call ans) s)
        ∧ (∀ call ans, runEvent (.nvmeqdel call ans) s = exec (.nvmeqdel call ans) s)
        ∧ (∀ call ans, runEvent (.nicqcreate call ans) s = exec (.nicqcreate call ans) s)
        ∧ (∀ call ans, runEvent (.nicqdelete call ans) s = exec (.nicqdelete call ans) s)
        ∧ (∀ call ans, runEvent (.nicfilter call ans) s = exec (.nicfilter call ans) s) ∧ (∀ call, runEvent (.atsctl call) s = exec (.atsctl call) s)
        ∧ (∀ call, runEvent (.atsinval call) s = exec (.atsinval call) s) ∧ (∀ call, runEvent (.funcinfo call) s = exec (.funcinfo call) s)
        ∧ (∀ call, runEvent (.ntbwindow call) s = exec (.ntbwindow call) s)
        ∧ (∀ call ans, runEvent (.peerattach call ans) s = exec (.peerattach call ans) s)
        ∧ (∀ call ans, runEvent (.peerdetach call ans) s = exec (.peerdetach call ans) s)
        ∧ (∀ call ans, runEvent (.iderefresh call ans) s = exec (.iderefresh call ans) s)
        ∧ (∀ call ans, runEvent (.spdmmeasure call ans) s = exec (.spdmmeasure call ans) s)
        ∧ (∀ call, runEvent (.attest call) s = exec (.attest call) s) ∧ (∀ call ans, runEvent (.cxlonline call ans) s = exec (.cxlonline call ans) s)
        ∧ (∀ call frame ans, runEvent (.cxloffline call frame ans) s = exec (.cxloffline call frame ans) s)
        ∧ (∀ call ans, runEvent (.portreset call ans) s = exec (.portreset call ans) s)
        ∧ (∀ call ans, runEvent (.flr call ans) s = exec (.flr call ans) s) ∧ (∀ call, runEvent (.retention call) s = exec (.retention call) s)
        ∧ (∀ call, runEvent (.poweralarm call) s = exec (.poweralarm call) s)
        ∧ (∀ call ans, runEvent (.fwupdate call ans) s = exec (.fwupdate call ans) s)
        ∧ (∀ call, runEvent (.faultinject call) s = exec (.faultinject call) s) ∧ (∀ call, runEvent (.svcDebug call) s = exec (.svcDebug call) s)
        ∧ (∀ call, runEvent (.logread call) s = exec (.logread call) s) ∧ (∀ call ans, runEvent (.clocksync call ans) s = exec (.clocksync call ans) s)
        ∧ (∀ call, runEvent (.serviceinfo call) s = exec (.serviceinfo call) s) ∧ (∀ dw, runEvent (.doorbellWrite dw) s = exec (.doorbellWrite dw) s)
        ∧ (∀ binding, runEvent (.dbpFollow binding) s = exec (.dbpFollow binding) s)
        ∧ (∀ addr size data, runEvent (.msiWrite addr size data) s = exec (.msiWrite addr size data) s)
        ∧ (∀ fn pasid va write, runEvent (.atsTranslationRequest fn pasid va write) s = exec (.atsTranslationRequest fn pasid va write) s)
        ∧ (∀ fn pasid va prg last rd wr, runEvent (.pageRequest fn pasid va prg last rd wr) s = exec (.pageRequest fn pasid va prg last rd wr) s)
        ∧ (∀ fn pasid va write data, runEvent (.inboundDma fn pasid va write data) s = exec (.inboundDma fn pasid va write data) s)
        ∧ (∀ pasid va size data, runEvent (.inboundCounterWrite pasid va size data) s = exec (.inboundCounterWrite pasid va size data) s)
        ∧ (∀ pasid va size data fetchAdd, runEvent (.inboundFetchadd pasid va size data fetchAdd) s = exec (.inboundFetchadd pasid va size data fetchAdd) s)
        ∧ (∀ op err old, runEvent (.peerFetchaddCompletion op err old) s = exec (.peerFetchaddCompletion op err old) s)
        ∧ (∀ req, runEvent (.requestTimeout req) s = exec (.requestTimeout req) s) ∧ (∀ sub, runEvent (.linkDown sub) s = exec (.linkDown sub) s)
        ∧ (∀ peer linkLost, runEvent (.peerReset peer linkLost) s = exec (.peerReset peer linkLost) s)
        ∧ (∀ sub stream sequence, runEvent (.ideIntegrityFailure sub stream sequence) s = exec (.ideIntegrityFailure sub stream sequence) s)
        ∧ (∀ sub stream, runEvent (.ideRefreshTimeout sub stream) s = exec (.ideRefreshTimeout sub stream) s)
        ∧ (∀ ctx, runEvent (.quarantineSeal ctx) s = exec (.quarantineSeal ctx) s)
        ∧ (∀ amps, runEvent (.powerAlarmRaise amps) s = exec (.powerAlarmRaise amps) s) ∧ (runEvent .powerAlarmLower s = exec .powerAlarmLower s)
        ∧ (∀ cause, runEvent (.retentionEntry cause) s = exec (.retentionEntry cause) s)
        ∧ (∀ lostCxl refreshFailed, runEvent (.resume lostCxl refreshFailed) s = exec (.resume lostCxl refreshFailed) s)
        ∧ (∀ die, runEvent (.thermalTrip die) s = exec (.thermalTrip die) s)
        ∧ (∀ cause boot, runEvent (.reset cause boot) s = exec (.reset cause boot) s)
        ∧ (∀ tgt signed, runEvent (.lifeCycleChange tgt signed) s = exec (.lifeCycleChange tgt signed) s)
        ∧ (∀ core, runEvent (.logicalTimeTick core) s = exec (.logicalTimeTick core) s)
        ∧ (∀ dw, runEvent (.aerErrorReport dw) s = exec (.aerErrorReport dw) s)
        ∧ (∀ req, runEvent (.atsInvalidateCompletion req) s = exec (.atsInvalidateCompletion req) s)
        ∧ (∀ sub, runEvent (.linkRetrained sub) s = exec (.linkRetrained sub) s)
        ∧ (∀ gid slot, runEvent (.svcallQueueTimeout gid slot) s = exec (.svcallQueueTimeout gid slot) s)
        ∧ (∀ req err, runEvent (.configurationWriteCompletion req err) s = exec (.configurationWriteCompletion req err) s)
        ∧ (runEvent .supplyRemoval s = exec .supplyRemoval s))

/-- The worked encodings of the spec (R34, R37, R39, R47, R93, R105, R117, R164, R206, R231, R241, R253, R271, R289, R319, R359, R360, R379, R425, R427,
R449, R465): each word decodes to the instruction it stands for. -/
def Obligations.DecodeWords : Prop :=
  decodeTableWord 64 0x0000610280000000 = some (.sadd 3 4 5)
    ∧ decodeTableWord 64 0x015060FF807FFFF8 = some (.saddi 3 3 (-8))
    ∧ decodeTableWord 128 (0x0160BFC000000000 + 2 ^ 64 * 0xF123456789ABCDEF) = some (.smoviL 5 0x0123456789ABCDEF)
    ∧ decodeTableWord 64 0x010142C00000220C = some (.sbfx true 10 11 12 8)
    ∧ decodeTableWord 64 0x114041C480000084 = some (.vcmp .lt .sg 2 7 (.sca 9))
    ∧ decodeTableWord 64 0x2030C1C180000081 = some (.vfma .rtz 6 7 (.sca 3))
    ∧ decodeTableWord 64 0xC002050028060C08 = some (.pairVadd 4 5 (.saddi 3 3 8))
    ∧ decodeTableWord 64 0x4001423F81801BFE = some (.ld 0 3 .h .sg 10 8 (-2))
    ∧ decodeTableWord 64 0x4010820018002010 = some (.st ⟨false, 3⟩ 0 .w 4 8 16)
    ∧ decodeTableWord 64 0x4070020200002814 = some (.red .always 0 0 false .fadd 5 none 8 4)
    ∧ decodeTableWord 64 0x50000280000001A1 = some (.cadd 0 none 10 (.imm 1) (some 1))
    ∧ decodeTableWord 64 0x50820141000000A1 = some (.qpop 0 true 1 16 2 (some 5))
    ∧ decodeTableWord 64 0x6070E03F807FFFF9 = some (.sdbnz 7 (-7))
    ∧ decodeTableWord 64 0x6020000048000402 = some (.brd ⟨true, 1⟩ 2 4)
    ∧ decodeTableWord 64 0x60C0000000000000 = some .nop
    ∧ decodeTableWord 64 0x7001820000012028 = some (.cpy 2 2 true false .q 12 8 none)
    ∧ decodeTableWord 64 0x8040450A80001078 = some (.mma 0 1 7 true 2 20 21)
    ∧ decodeTableWord 64 0x9010C10000100010 = some (.iold 0 false .w 6 4 16)
    ∧ decodeTableWord 64 0xA040A20000000001 = some (.pgharv true 5 8)
    ∧ decodeTableWord 64 0xA0E0028000000007 = some (.prepeat 10 7)

/-- Every well-formed word, at every value of its operands, is read back from its encoding. -/
def Obligations.EncodingRoundTrip : Prop :=
  ∀ i : Instr, i.wf = true → i.isWord = true → decodeTableWord (8 * i.size) (wordsNat (encode i)) = some i

/-- What decodes is well formed and is its own encoding: no two readings of a word, and no bit of it ignored. -/
def Obligations.DecodedWords : Prop :=
  ∀ (w : Nat) (i : Instr), decodeTableWord 128 w = some i → i.wf = true ∧ wordsNat (encode i) = w % 2 ^ (8 * i.size)

/-- No step refuses, and one faults only where the supplies are removed (R472). CLOCK (R19, R475, R476): with nothing due a step is the passing of a ck,
by which CLOCK rises by 1, in a resume too, but for retention, where it stands still. No register of a group changes while the device runs, is in
retention or resumes. -/
def Obligations.StepOutcomes : Prop :=
  (∀ (s : State), (∀ r, step s ≠ .refused r) ∧ ∀ f, step s = .fault f → f = .unpowered ∧ s.power = .off)
    ∧ (∀ (s : State), s.order = [] → s.issueQ = [] → s.agenda = [] →
      (s.power = .running ∨ (∃ k, s.power = .resuming k) → ∃ t, step s = .next t ∧ t.clock = s.clock + 1 ∧ t.groups = s.groups)
        ∧ ((∃ c, s.power = .entering c) → ∃ t, step s = .next t ∧ t.clock = s.clock + 1)
        ∧ (s.power = .retention → ∃ t, step s = .next t ∧ t.clock = s.clock ∧ t.groups = s.groups ∧ t.mem = s.mem))

/-- Every step that goes on keeps the canonical forms of memory, of its poison marks and of the write-grant bitmap. -/
def Obligations.InvStep : Prop :=
  ∀ (s t : State), s.Inv → step s = .next t → t.Inv

/-- Reset (R19, R361, R385, R433, R472, R473): CLOCK at 0; memory reads zero, and every region of LPDDR-6 and CXL is yet to be wiped; nothing is attached,
resident or outstanding; the registers of R433 at their resets; the alarm at 18000 A and not raised. -/
def Obligations.ResetState : Prop :=
  let s := State.reset
  s.clock = 0 ∧ (∀ q, s.memByte q = 0) ∧ s.poison = [] ∧ (∀ pa, (∃ k, areaOf pa = .lpddr k ∨ areaOf pa = .cxl k) → s.unwiped pa = true)
    ∧ s.teams = [] ∧ s.groups = [] ∧ s.frags = [] ∧ s.queues = [] ∧ s.launches = [] ∧ s.graphs = [] ∧ s.ctxs = [] ∧ s.calls = [] ∧ s.reqs = [] ∧ s.sent = []
    ∧ s.bindings = [] ∧ s.ioLeases = [] ∧ s.migrations = [] ∧ s.stageq = 0x2020202020202020
    ∧ (∀ h, h < 2 → let b := s.hub h
        b.fedir = 0 ∧ b.flogbase = 0 ∧ b.flogcfg = 6 ∧ b.flogpctr = 0 ∧ b.flogcctr = 0 ∧ b.serrcnt = 0 ∧ b.banksel = 0 ∧ b.flog = [] ∧ b.msi = [])
    ∧ s.alarmAt = 18000 ∧ s.alarm = false ∧ s.power = .running ∧ s.thermtrip = true ∧ s.Inv

/-- The words of FORM 0x0 to 0x3 and of PAIR in compute mode, whether they complete or trap: no byte of memory, no register of another group, no fragment
of another group, no core, hub, queue or clock changes. -/
def Obligations.RegisterWordsFrame : Prop :=
  ∀ (s t : State) (n : Now) (i : Instr), s.now = some n → n.t.kind = .compute → i.isWord = true → i.form ∈ [0, 1, 2, 3, 12] → exec i s = .next t →
    t.mem = s.mem ∧ t.poison = s.poison ∧ (∀ g, g ≠ s.cur.gid → t.groups.find g = s.groups.find g)
      ∧ ((∀ a, i ≠ .emwr a) → t.cores = s.cores ∧ ∀ f, f / 64 ≠ s.cur.gid → t.frags.find f = s.frags.find f) ∧ t.hubs = s.hubs ∧ t.queues = s.queues ∧ t.clock = s.clock

/-- The scalar instructions of R90 and R97, with SADDR of R98: each goes on with its result, from operands read before, to be written to D 2 ck later, and
4 ck later for a product (R84, R89; how it is written, and that s0 discards it, is in IssueAndResults). Nothing else of the machine changes: no
register, FPFLAGS, token, special register, byte of memory, nor other fragment. -/
def Obligations.ScalarArithmetic : Prop :=
  ∀ (s : State) (n : Now), s.permits .any n → n.fits 8 → n.fits 16 → ∀ (ty : Sgn) (d a b : SReg) (imm : BitVec 30) (lit : BitVec 64) (sc : Fin 8) (disp : BitVec 19),
    let x := n.g.sget a.val
    let y := n.g.sget b.val
    let gives (r : Word) (lat : Nat := 2) : Out := .next (s.wrote n [.s d.val r] lat)
    exec (.sadd d a b) s = gives (BitVec.ofNat 64 (x.toNat + y.toNat))
      ∧ exec (.ssub d a b) s = gives (BitVec.ofInt 64 (x.toNat - y.toNat))
      ∧ exec (.smul d a b) s = gives (BitVec.ofNat 64 (x.toNat * y.toNat)) 4
      ∧ exec (.smulh ty d a b) s = gives (BitVec.ofInt 64 (ty.val x * ty.val y / 2 ^ 64)) 4
      ∧ exec (.sand d a b) s = gives (x &&& y)
      ∧ exec (.sor d a b) s = gives (x ||| y)
      ∧ exec (.sxor d a b) s = gives (x ^^^ y)
      ∧ exec (.smin ty d a b) s = gives (if ty.val y < ty.val x then y else x)
      ∧ exec (.smax ty d a b) s = gives (if ty.val x < ty.val y then y else x)
      ∧ exec (.smov d a) s = gives x
      ∧ exec (.saddi d a imm) s = gives (BitVec.ofInt 64 (x.toNat + imm.toInt))
      ∧ exec (.smovi d imm) s = gives (BitVec.ofInt 64 imm.toInt)
      ∧ exec (.smoviL d lit) s = .next (s.wrote n [.s d.val lit] 2 (size := 16))
      ∧ exec (.slit d lit) s = .next (s.wrote n [.s d.val (BitVec.ofNat 64 (n.f.pc.toNat + lit.toNat))] 2 (size := 16))
      ∧ exec (.saddr d a b sc disp) s = gives (BitVec.ofInt 64 (x.toNat + y.toNat * 2 ^ sc.val + disp.toInt))

/-- The scalar shifts, counts and bit fields of R92 to R94, bit by bit: an amount of 64 or more gives 0 or the sign fill. SCMP and SSEL (R95, R96): a
predicate bit for each lane of em; and a selection by whether em AND the selector is zero, with no result where the guard is false. Nothing but the
result is to change. SDIV and SREM (R91, R56): the quotient and the remainder, truncated toward zero, with the edge cases of R56, as a pending result. -/
def Obligations.ScalarBitsAndChoices : Prop :=
  (∀ (s : State) (n : Now), s.permits .any n → n.fits 8 → ∀ (d a : SReg) (sh : ShAmt) (sx : Bool) (pos : Fin 64) (len : BitVec 7),
      let x := n.g.sget a.val
      let k : Nat := match sh with | .reg r => (n.g.sget r.val).toNat | .imm i => i.val
      let gives (i : Instr) (bitOf : Nat → Bool) : Prop :=
        ∃ r : Word, exec i s = .next (s.wrote n [.s d.val r] 2) ∧ ∀ j, j < 64 → r.getLsbD j = bitOf j
      gives (.sshl d a sh) (fun j => decide (k ≤ j) && x.getLsbD (j - k))
        ∧ gives (.sshr d a sh) (fun j => x.getLsbD (j + k))
        ∧ gives (.ssra d a sh) (fun j => if j + k < 64 then x.getLsbD (j + k) else x.getLsbD 63)
        ∧ (∃ r : Nat, exec (.sclz d a) s = .next (s.wrote n [.s d.val (BitVec.ofNat 64 r)] 2) ∧ r ≤ 64
            ∧ (∀ j, j < r → x.getLsbD (63 - j) = false) ∧ (r < 64 → x.getLsbD (63 - r) = true))
        ∧ exec (.spopc d a) s = .next (s.wrote n [.s d.val (BitVec.ofNat 64 ((List.range 64).countP (fun j => x.getLsbD j)))] 2)
        ∧ ((Instr.sbfx sx d a pos len).wf = true →
            gives (.sbfx sx d a pos len) (fun j => if j < len.toNat then x.getLsbD (pos.val + j) else sx && x.getLsbD (pos.val + len.toNat - 1)))
        ∧ ((Instr.sbfi d a pos len).wf = true →
            gives (.sbfi d a pos len) (fun j => if pos.val ≤ j ∧ j < pos.val + len.toNat then x.getLsbD (j - pos.val) else (n.g.sget d.val).getLsbD j)))
    ∧ (∀ (s : State) (n : Now), s.permits .any n → n.fits 8 → ∀ (cc : Cc) (ty : Sgn) (p : PReg) (d a b : SReg) (g sel : Guard),
      let x := n.g.sget a.val
      let y := n.g.sget b.val
      let holds : Bool := match cc with
        | .eq => ty.val x = ty.val y
        | .ne => ty.val x ≠ ty.val y
        | .lt => ty.val x < ty.val y
        | .le => ty.val x ≤ ty.val y
        | .gt => ty.val x > ty.val y
        | .ge => ty.val x ≥ ty.val y
      Completes (.scmp cc ty p a b) s (fun t => s.wrotePred t n n.f.em p.val (fun _ => holds) 2)
        ∧ exec (.ssel g d a b sel) s = .next (s.wrote n
            (if n.f.em &&& n.g.guard g = 0 then [] else [.s d.val (if n.f.em &&& n.g.guard sel = 0 then y else x)]) 2))
    ∧ (∀ (s : State) (n : Now), s.permits .any n → n.fits 8 → ∀ (ty : Sgn) (la : La) (d a b : SReg),
      let x := n.g.sget a.val
      let y := n.g.sget b.val
      let later (r : Word) : Out := .next (s.opened n { regs := [.s d.val], vals := some [.s d.val r], due := s.clock + 36 } la.val)
      exec (.sdiv ty la d a b) s = later (if y = 0 then BitVec.allOnes 64 else BitVec.ofInt 64 ((ty.val x).tdiv (ty.val y)))
        ∧ exec (.srem ty la d a b) s = later (if y = 0 then x else BitVec.ofInt 64 ((ty.val x).tmod (ty.val y))))

/-- The lane instructions of R100, R101, R103, R107 and R109: each goes on with its results for the lanes of em, from operands read before, to be written
to D 4 ck later, and 6 ck later for a product (R89). No inactive lane, no other register and nothing else of the machine changes. -/
def Obligations.VectorArithmetic : Prop :=
  ∀ (s : State) (n : Now), s.permits .cores n → n.fits 8 → n.fits 16 →
    ∀ (ty nb : Sgn) (d a : VReg) (b : VSrc) (r : SReg) (imm : BitVec 30) (lit : BitVec 32) (sat hi : Bool),
    let x := n.g.vget a.val
    let y := n.g.src b
    let z := n.g.vget d.val
    let W (i : Instr) (d : VReg) (h : Nat → Lane) (lat : Nat := 4) : Prop := Lanewise s n i d h lat
    W (.vadd d a b) d (fun i => BitVec.ofNat 32 ((x i).toNat + (y i).toNat))
      ∧ W (.vsub d a b) d (fun i => BitVec.ofInt 32 ((x i).toNat - (y i).toNat))
      ∧ W (.vmul d a b) d (fun i => BitVec.ofNat 32 ((x i).toNat * (y i).toNat)) 6
      ∧ W (.vmulh ty d a b) d (fun i => BitVec.ofInt 32 (ty.val (x i) * ty.val (y i) / 2 ^ 32)) 6
      ∧ W (.vmad d a b) d (fun i => BitVec.ofNat 32 ((x i).toNat * (y i).toNat + (z i).toNat)) 6
      ∧ W (.vadds ty d a b) d (fun i => BitVec.ofInt 32 (clampTo ty (ty.val (x i) + ty.val (y i))))
      ∧ W (.vsubs ty d a b) d (fun i => BitVec.ofInt 32 (clampTo ty (ty.val (x i) - ty.val (y i))))
      ∧ W (.vand d a b) d (fun i => x i &&& y i)
      ∧ W (.vor d a b) d (fun i => x i ||| y i)
      ∧ W (.vxor d a b) d (fun i => x i ^^^ y i)
      ∧ W (.vmin ty d a b) d (fun i => if ty.val (y i) < ty.val (x i) then y i else x i)
      ∧ W (.vmax ty d a b) d (fun i => if ty.val (x i) < ty.val (y i) then y i else x i)
      ∧ W (.vabs sat d a) d (fun i => if sat ∧ (x i).toInt = -2147483648 then 0x7FFFFFFF else BitVec.ofInt 32 (x i).toInt.natAbs)
      ∧ W (.vmov d a) d x
      ∧ W (.vmovi d imm) d (fun _ => BitVec.ofInt 32 imm.toInt)
      ∧ Lanewise s n (.vmoviL d lit) d (fun _ => lit) 4 16
      ∧ W (.vaddi d a imm) d (fun i => BitVec.ofInt 32 ((x i).toNat + imm.toInt))
      ∧ W (.vbcast hi d r) d (fun _ => BitVec.ofNat 32 ((n.g.sget r.val).toNat / (if hi then 2 ^ 32 else 1)))
      ∧ W (.vdp4 ty nb d a b) d (fun i => BitVec.ofInt 32 ((z i).toInt
          + ty.val ((x i).extractLsb' 0 8) * nb.val ((y i).extractLsb' 0 8) + ty.val ((x i).extractLsb' 8 8) * nb.val ((y i).extractLsb' 8 8)
          + ty.val ((x i).extractLsb' 16 8) * nb.val ((y i).extractLsb' 16 8) + ty.val ((x i).extractLsb' 24 8) * nb.val ((y i).extractLsb' 24 8))) 6

/-- The lane shifts, counts and bit fields of R102 to R104, bit by bit in each active lane. VCMP, VSEL and VADDR (R105, R106, R108): a predicate bit for
each lane of em; a selection in the lanes of em AND the guard; and a 64-bit address in each lane of a register pair. -/
def Obligations.VectorBitsAndChoices : Prop :=
  (∀ (s : State) (n : Now), s.permits .cores n → n.fits 8 → ∀ (d a : VReg) (sh : VShAmt) (sx : Bool) (pos : Fin 64) (len : BitVec 7),
      let x := n.g.vget a.val
      let k (i : Nat) : Nat := match sh with
        | .src (.vec r) => (n.g.vget r.val i).toNat
        | .src (.sca r) => (n.g.sget r.val).toNat % 2 ^ 32
        | .imm j => j.val
      let W (i : Instr) (bitOf : Nat → Nat → Bool) : Prop :=
        ∃ h, Lanewise s n i d h ∧ ∀ l j, l < 32 → j < 32 → (h l).getLsbD j = bitOf l j
      W (.vshl d a sh) (fun i j => decide (k i ≤ j) && (x i).getLsbD (j - k i))
        ∧ W (.vshr d a sh) (fun i j => (x i).getLsbD (j + k i))
        ∧ W (.vsra d a sh) (fun i j => if j + k i < 32 then (x i).getLsbD (j + k i) else (x i).getLsbD 31)
        ∧ (∃ r : Nat → Nat, Lanewise s n (.vclz d a) d (fun i => BitVec.ofNat 32 (r i)) ∧ ∀ i, i < 32 →
            r i ≤ 32 ∧ (∀ j, j < r i → (x i).getLsbD (31 - j) = false) ∧ (r i < 32 → (x i).getLsbD (31 - r i) = true))
        ∧ Lanewise s n (.vpopc d a) d (fun i => BitVec.ofNat 32 ((List.range 32).countP (fun j => (x i).getLsbD j)))
        ∧ ((Instr.vbfx sx d a pos len).wf = true → W (.vbfx sx d a pos len)
            (fun i j => if j < len.toNat then (x i).getLsbD (pos.val + j) else sx && (x i).getLsbD (pos.val + len.toNat - 1)))
        ∧ ((Instr.vbfi d a pos len).wf = true → W (.vbfi d a pos len)
            (fun i j => if pos.val ≤ j ∧ j < pos.val + len.toNat then (x i).getLsbD (j - pos.val) else (n.g.vget d.val i).getLsbD j)))
    ∧ (∀ (s : State) (n : Now), s.permits .cores n → n.fits 8 → ∀ (cc : Cc) (ty : Sgn) (p : PReg) (d a c : VReg) (b : VSrc) (g sel : Guard) (sc : Fin 8) (disp : BitVec 19),
      let x := n.g.vget a.val
      let y := n.g.src b
      Completes (.vcmp cc ty p a b) s (fun t => s.wrotePred t n n.f.em p.val (fun i => match cc with
          | .eq => ty.val (x i) = ty.val (y i)
          | .ne => ty.val (x i) ≠ ty.val (y i)
          | .lt => ty.val (x i) < ty.val (y i)
          | .le => ty.val (x i) ≤ ty.val (y i)
          | .gt => ty.val (x i) > ty.val (y i)
          | .ge => ty.val (x i) ≥ ty.val (y i)) 4)
        ∧ exec (.vsel g d a b sel) s = .next (s.wroteLanes n (n.f.em &&& n.g.guard g) d.val
            (fun i => if (n.g.guard sel).getLsbD i = true then x i else y i) 4)
        ∧ exec (.vaddr ty d a c sc disp) s = .next (s.wrote n ((lanesOf n.f.em).flatMap (fun i =>
              let z : Word := BitVec.ofInt 64 ((n.g.pairGet a.val i).toNat + ty.val (n.g.vget c.val i) * 2 ^ sc.val + disp.toInt)
              [.v d.val i (z.extractLsb' 0 32), .v (d.val + 1) i (z.extractLsb' 32 32)])) 4))

/-- The interlocked float instructions of FORM 0x2 (R115 to R123): results and flags of each active lane by the rules of R57 to R63, to be written 4 ck
later, 6 ck later for a fused form (R110), and nothing else. The DTU instructions (R124, R125): a pending result for the active lanes, with their
flags. -/
def Obligations.VectorFloat : Prop :=
  (∀ (s : State) (n : Now), s.permits .cores n → n.fits 8 → ∀ (rm : Rm) (hf : Hf) (cc : Fcc) (p : PReg) (d a : VReg) (b : VSrc),
      let x i := (n.g.vget a.val i).toNat
      let y i := (n.g.src b i).toNat
      let z i := (n.g.vget d.val i).toNat
      let f := fmtHalf hf
      let u (k : Nat) (hi : Bool) : Fl := f.unpack (if hi then k / 2 ^ 16 else k % 2 ^ 16)
      let two (h : Bool → FRes) : FRes := ((h true).1 * 2 ^ 16 + (h false).1, (h false).2 ||| (h true).2)
      let half (k : Nat) (hi : Bool) : Nat := if hi then k / 2 ^ 16 else k % 2 ^ 16
      let W (i : Instr) (d : VReg) (h : Nat → FRes) (lat : Nat := 4) : Prop := Floatwise s n i d h lat
      W (.vfadd rm d a b) d (fun i => fmtF32.add rm (x i) (y i))
        ∧ W (.vfsub rm d a b) d (fun i => fmtF32.sub rm (x i) (y i))
        ∧ W (.vfmul rm d a b) d (fun i => fmtF32.mul rm (x i) (y i))
        ∧ W (.vfma rm d a b) d (fun i => fmtF32.fused rm false [(fmtF32.unpack (x i), fmtF32.unpack (y i))] (fmtF32.unpack (z i))) 6
        ∧ W (.vfnma rm d a b) d (fun i => fmtF32.fused rm true [(fmtF32.unpack (x i), fmtF32.unpack (y i))] (fmtF32.unpack (z i))) 6
        ∧ W (.vfmin d a b) d (fun i => minmaxF false (x i) (y i))
        ∧ W (.vfmax d a b) d (fun i => minmaxF true (x i) (y i))
        ∧ W (.vfabs d a) d (fun i => (x i % 2 ^ 31, 0))
        ∧ W (.vfneg d a) d (fun i => ((x i + 2 ^ 31) % 2 ^ 32, 0))
        ∧ W (.vfclass d a) d (fun i => (fclassOf (x i), 0))
        ∧ W (.vfrnd rm d a) d (fun i => frndOf rm (x i))
        ∧ W (.vhadd hf rm d a b) d (fun i => two (fun hi => f.add rm (half (x i) hi) (half (y i) hi)))
        ∧ W (.vhmul hf rm d a b) d (fun i => two (fun hi => f.mul rm (half (x i) hi) (half (y i) hi)))
        ∧ W (.vhfma hf rm d a b) d (fun i => two (fun hi => f.fused rm false [(u (x i) hi, u (y i) hi)] (u (z i) hi))) 6
        ∧ W (.vfdot2 hf rm d a b) d
            (fun i => fmtF32.fused rm false [(u (x i) false, u (y i) false), (u (x i) true, u (y i) true)] (fmtF32.unpack (z i))) 6
        ∧ Completes (.vfcmp cc p a b) s (fun t => s.wrotePred t n n.f.em p.val (fun i => (fcmpOf cc (x i) (y i)).1) 4
            ((lanesOf n.f.em).foldl (fun e i => e ||| (fcmpOf cc (x i) (y i)).2) 0) true))
    ∧ (∀ (s : State) (n : Now), s.permits .cores n → n.fits 8 → ∀ (la : La) (rm : Rm) (d a : VReg) (b : VSrc),
      let x i := (n.g.vget a.val i).toNat
      let y i := (n.g.src b i).toNat
      FloatLater s n (.vfrcp la d a) la 20 d (fun i => rcpOf (x i))
        ∧ FloatLater s n (.vfrsq la d a) la 20 d (fun i => rsqOf (x i))
        ∧ FloatLater s n (.vfexp2 la d a) la 20 d (fun i => exp2Of (x i))
        ∧ FloatLater s n (.vflog2 la d a) la 20 d (fun i => log2Of (x i))
        ∧ FloatLater s n (.vfdiv la rm d a b) la 36 d (fun i => fmtF32.div (.mode rm) (fmtF32.unpack (x i)) (fmtF32.unpack (y i)))
        ∧ FloatLater s n (.vfsqrt la rm d a) la 36 d (fun i => fmtF32.sqrt (.mode rm) (fmtF32.unpack (x i))))

/-- The lane movements and conversions of R126 to R131 and R134: results in the active lanes of D, with the flags of a conversion, to be written 4 ck
later, 8 ck later for VNPK (R110). VRED and VSCAN (R132, R76): pending results of the reduction tree over the active lanes, and over those up to each
lane. -/
def Obligations.LaneMoves : Prop :=
  (∀ (s : State) (n : Now), s.permits .cores n → n.fits 8 →
      ∀ (dt sty : CvtTy) (rm : Rm) (dhi shi mid le sx : Bool) (bl : Bl) (p : Fin 16) (d a b : VReg) (c : SReg) (q : PReg) (k : LaneSel),
      let x := n.g.vget a.val
      let lane : Nat := match k with | .reg r => (n.g.sget r.val).toNat % 32 | .imm i => i.val
      Floatwise s n (.vcvt dt sty rm dhi shi d a) d (fun i => cvtLane dt sty rm dhi shi (n.g.vget d.val i) (x i))
        ∧ exec (.vnpk bl d a) s = .next (s.wroteLanes n n.f.em d.val
            (fun i => BitVec.ofNat 32 ((npkLanes bl n.f.em n.g a.val).1.getD i 0)) 8 (npkLanes bl n.f.em n.g a.val).2 true)
        ∧ Floatwise s n (.vnupk bl p mid d a) d (fun i => nupkElem bl p.val mid n.g a.val i)
        ∧ Lanewise s n (.vshuf d a b) d (fun i => x ((n.g.vget b.val i).toNat % 32))
        ∧ Lanewise s n (.vrot d a k) d (fun i => x ((i + lane) % 32))
        ∧ exec (.vins d c k) s = .next (s.wrote n (if n.f.em.getLsbD lane then [.v d.val lane (BitVec.ofNat 32 (n.g.sget c.val).toNat)] else []) 4)
        ∧ Lanewise s n (.vlane le d q) d (fun i => BitVec.ofNat 32 ((List.range 32).countP
            (fun j => (n.g.pget q.val).getLsbD j && n.f.em.getLsbD j && decide (if le then j ≤ i else j < i))))
        ∧ exec (.vext sx c a k) s = .next (s.wrote n [.s c.val (BitVec.ofInt 64 (if sx then (x lane).toInt else (x lane).toNat))] 4))
    ∧ (∀ (s : State) (n : Now), s.permits .cores n → n.fits 8 → ∀ (la : La) (op : RedOp) (rm : Rm) (c : SReg) (d a : VReg),
      let r := redTree op rm n.f.em n.g a.val
      exec (.vred la op rm c a) s = .next (s.opened n { regs := [.s c.val], vals := some [.s c.val (BitVec.ofNat 64 r.1)], flags := r.2,
                                                         due := s.clock + 12, fp := floatOp op } la.val)
        ∧ FloatLater s n (.vscan la op rm d a) la 12 d (fun i => redTree op rm (n.f.em &&& BitVec.ofNat 32 (2 ^ (i + 1) - 1)) n.g a.val) (floatOp op))

/-- The predicate instructions (R133, R135 to R137): votes, truth tables, and moves between predicates, scalars and the execution mask. EMWR (R138): with
a value that lies within em, em becomes the value, and the cleared lanes leave every record of the fragment's chain, innermost first (R173, R174),
which changes nothing in a fragment with no record; with zero it is STOP; with another lane it traps 0x022. -/
def Obligations.PredicateMoves : Prop :=
  (∀ (s : State) (n : Now), s.permits .cores n → n.fits 8 → ∀ (p a b : PReg) (d c : SReg) (tt : BitVec 4),
      let v := n.g.pget a.val &&& n.f.em
      let P (i : Instr) (x : Nat → Bool) (lat : Nat) : Prop := Completes i s (fun t => s.wrotePred t n n.f.em p.val x lat)
      let S (i : Instr) (x : Nat) (lat : Nat) : Prop := exec i s = .next (s.wrote n [.s d.val (BitVec.ofNat 64 x)] lat)
      P (.vvote (.any p) a) (fun _ => v ≠ 0) 4
        ∧ P (.vvote (.all p) a) (fun _ => v = n.f.em) 4
        ∧ P (.vvote (.uni p) a) (fun _ => v = 0 ∨ v = n.f.em) 4
        ∧ S (.vvote (.ballot d) a) v.toNat 4
        ∧ P (.plog tt p a b) (fun i => tt.getLsbD (2 * ((n.g.pget a.val).getLsbD i).toNat + ((n.g.pget b.val).getLsbD i).toNat)) 2
        ∧ P (.pset p c) (fun i => (n.g.sget c.val).getLsbD i) 2
        ∧ S (.pget d a) (n.g.pget a.val).toNat 2
        ∧ S (.emrd d) n.f.em.toNat 2)
    ∧ (∀ (s : State) (n : Now), s.permits .cores n → n.fits 8 → ∀ (a : SReg),
      let v : Mask := BitVec.ofNat 32 (n.g.sget a.val).toNat
      let t := s.holding n.g { n.f with em := v, pc := n.f.pc + 8, ready := some (s.clock + 2) }
      (v ≠ 0 → v &&& ~~~n.f.em = 0 → exec (.emwr a) s = .next (t.leaveAll s.cur.gid (n.g.chain n.f.rcd) (n.f.em &&& ~~~v)))
        ∧ (v ≠ 0 → v &&& ~~~n.f.em = 0 → n.f.rcd = none → exec (.emwr a) s = .next t)
        ∧ (v = 0 → exec (.emwr a) s = exec .stop s)
        ∧ (v &&& ~~~n.f.em ≠ 0 → exec (.emwr a) s = .next (s.trapNow n { code := 0x022 })))

/-- Each half of a PAIR word has exactly the effect of the full-form instruction of its mnemonic, from the sources before either writes (R37): it leaves
the pending result which that instruction alone would leave, with its latency and its flags, both halves under one word. Said for all halves at once,
and for the PAIR word of every mnemonic of its first half. -/
def Obligations.PairHalves : Prop :=
  ∀ (s : State) (n : Now), s.permits .cores n → n.fits 8 → ∀ (h1 : Half),
    (∀ h0, s.pairs n (pairOf h0 h1) h0 h1)
      ∧ (∀ (d a : VReg),
        s.pairs n (.pairVadd d a h1) (.vadd d a) h1 ∧ s.pairs n (.pairVsub d a h1) (.vsub d a) h1
          ∧ s.pairs n (.pairVmul d a h1) (.vmul d a) h1 ∧ s.pairs n (.pairVand d a h1) (.vand d a) h1
          ∧ s.pairs n (.pairVor d a h1) (.vor d a) h1 ∧ s.pairs n (.pairVxor d a h1) (.vxor d a) h1
          ∧ s.pairs n (.pairVshl d a h1) (.vshl d a) h1 ∧ s.pairs n (.pairVshr d a h1) (.vshr d a) h1
          ∧ s.pairs n (.pairVsra d a h1) (.vsra d a) h1 ∧ s.pairs n (.pairVmov d a h1) (.vmov d a) h1
          ∧ s.pairs n (.pairVfmin d a h1) (.vfmin d a) h1 ∧ s.pairs n (.pairVfmax d a h1) (.vfmax d a) h1)
      ∧ (∀ (u : Sgn) (d a : VReg),
        s.pairs n (.pairVmin u d a h1) (.vmin u d a) h1 ∧ s.pairs n (.pairVmax u d a h1) (.vmax u d a) h1)
      ∧ (∀ (d a : VReg) (x : BitVec 10), s.pairs n (.pairVaddi d a x h1) (.vaddi d a x) h1)
      ∧ (∀ (d : VReg) (x : BitVec 10), s.pairs n (.pairVmovi d x h1) (.vmovi d x) h1)
      ∧ (∀ (rm : Rm) (d a : VReg),
        s.pairs n (.pairVfadd rm d a h1) (.vfadd rm d a) h1 ∧ s.pairs n (.pairVfsub rm d a h1) (.vfsub rm d a) h1
          ∧ s.pairs n (.pairVfmul rm d a h1) (.vfmul rm d a) h1 ∧ s.pairs n (.pairVhadd rm d a h1) (.vhadd rm d a) h1
          ∧ s.pairs n (.pairVhmul rm d a h1) (.vhmul rm d a) h1)
      ∧ (∀ (d a : SReg),
        s.pairs n (.pairSadd d a h1) (.sadd d a) h1 ∧ s.pairs n (.pairSsub d a h1) (.ssub d a) h1
          ∧ s.pairs n (.pairSand d a h1) (.sand d a) h1 ∧ s.pairs n (.pairSor d a h1) (.sor d a) h1
          ∧ s.pairs n (.pairSxor d a h1) (.sxor d a) h1 ∧ s.pairs n (.pairSshl d a h1) (.sshl d a) h1
          ∧ s.pairs n (.pairSshr d a h1) (.sshr d a) h1 ∧ s.pairs n (.pairSmov d a h1) (.smov d a) h1)
      ∧ (∀ (d a : SReg) (x : BitVec 10), s.pairs n (.pairSaddi d a x h1) (.saddi d a x) h1)
      ∧ (∀ (d : SReg) (x : BitVec 10), s.pairs n (.pairSmovi d x h1) (.smovi d x) h1)

/-- The uniform transfers of control (R162, R166 to R169): the target of each form, the link value of a call, which is written 2 ck later, and no transfer
where a branch is not taken. CALL, RET and JMPI with a link in a vector pair (R163, R168, R169), in compute and system modes: a call writes the return
address in the pair's active lanes, 2 ck later; a return goes where the active lanes agree, and traps where they differ. -/
def Obligations.ControlTransfer : Prop :=
  (∀ (s : State) (n : Now), s.permits .any n → n.fits 8 → n.fits 16 → ∀ (g : Guard) (disp : BitVec 30) (abs : BitVec 56) (r d b : SReg),
      let near : Word := n.f.pc + BitVec.ofInt 64 (8 * disp.toInt)
      let far : Word := BitVec.ofNat 64 abs.toNat
      let x := n.g.sget d.val - 1
      (∀ s', s.reaches n near s' → exec (.bra disp) s = .next (s'.jumped n n.g near))
        ∧ (∀ s', s.reaches n far s' → exec (.braL abs) s = .next (s'.jumped n n.g far))
        ∧ (n.f.em &&& n.g.guard g = 0 → exec (.brc g disp) s = .next (s.after n n.g 8 2))
        ∧ (∀ s', n.f.em &&& n.g.guard g ≠ 0 → s.reaches n near s' → exec (.brc g disp) s = .next (s'.jumped n n.g near))
        ∧ (∀ s', s.reaches n near s' → exec (.call (.sca r) disp) s = .next (s'.linked n [.s r.val (n.f.pc + 8)] near))
        ∧ (∀ s', s.reaches n far s' → exec (.callL (.sca r) abs) s = .next (s'.linked n [.s r.val (n.f.pc + 16)] far))
        ∧ (∀ s', s.reaches n (n.g.sget r.val) s' → exec (.ret (.sca r)) s = .next (s'.jumped n n.g (n.g.sget r.val)))
        ∧ (∀ s', let t := n.g.sget r.val + 8 * n.g.sget b.val
            s.reaches n t s' → exec (.jmpi (.sca r) b) s = .next (s'.jumped n n.g t))
        ∧ (x = 0 → exec (.sdbnz d disp) s = .next (s.linked n [.s d.val x] (n.f.pc + 8)))
        ∧ (∀ s', x ≠ 0 → s.reaches n near s' → exec (.sdbnz d disp) s = .next (s'.linked n [.s d.val x] near))
        ∧ exec .nop s = .next (s.after n n.g 8 2))
    ∧ (∀ (s : State) (n : Now), s.permits .cores n → n.fits 8 → n.fits 16 → n.f.em ≠ 0 → ∀ (k : Fin 64) (disp : BitVec 30) (abs : BitVec 56) (b : SReg),
      let near : Word := n.f.pc + BitVec.ofInt 64 (8 * disp.toInt)
      let far : Word := BitVec.ofNat 64 abs.toNat
      let link (x : Word) : List RegVal := (lanesOf n.f.em).flatMap (fun i =>
        [.v (2 * k.val) i (x.extractLsb' 0 32), .v (2 * k.val + 1) i (x.extractLsb' 32 32)])
      let agree (x : Word) : Prop := ∀ i, i < 32 → n.f.em.getLsbD i = true → n.g.pairGet (2 * k.val) i = x
      (∀ s', s.reaches n near s' → exec (.call (.vec k) disp) s = .next (s'.linked n (link (n.f.pc + 8)) near))
        ∧ (∀ s', s.reaches n far s' → exec (.callL (.vec k) abs) s = .next (s'.linked n (link (n.f.pc + 16)) far))
        ∧ (∀ s' x, agree x → s.reaches n x s' → exec (.ret (.vec k)) s = .next (s'.jumped n n.g x))
        ∧ (∀ s' x, agree x → s.reaches n (x + 8 * n.g.sget b.val) s' →
            exec (.jmpi (.vec k) b) s = .next (s'.jumped n n.g (x + 8 * n.g.sget b.val)))
        ∧ (∀ i j, i < 32 → j < 32 → n.f.em.getLsbD i = true → n.f.em.getLsbD j = true → n.g.pairGet (2 * k.val) i ≠ n.g.pairGet (2 * k.val) j →
            exec (.ret (.vec k)) s = .next (s.raise s.cur n.f.pc { code := 0x023 })
              ∧ exec (.jmpi (.vec k) b) s = .next (s.raise s.cur n.f.pc { code := 0x027 })))

/-- YIELD and WAITT (R149, R178): with every named token zero YIELD leaves the active set ready at its target and WAITT goes on; otherwise YIELD waits in
WAIT-T at the target, and WAITT stalls in its place, at its own word. STOP (R174, R175, R179): the lanes of the fragment leave every record of its
chain; then its slot goes to the newest READY entry of the held list, or is freed. In a group with no other fragment and no held one the group has
ended. -/
def Obligations.ThreadWords : Prop :=
  (∀ (s : State) (n : Now), s.permits .cores n → n.fits 8 → ∀ (wt : Wait) (disp : BitVec 22),
      let t : Word := n.f.pc + BitVec.ofInt 64 (8 * disp.toInt)
      let zero : Prop := ∀ k, k < 8 → wt.getLsbD k = true → n.g.tget k = 0
      (∀ s', s.reaches n t s' → zero →
          exec (.yieldW wt disp) s = .next (s'.putFrag s'.cur { n.f with pc := t, st := .pending, active := none, ready := some (s'.clock + 1) }))
        ∧ (∀ s', s.reaches n t s' → ¬zero →
          exec (.yieldW wt disp) s = .next (s'.putFrag s'.cur { n.f with pc := t, st := .waitT, why := .tokens wt, active := none, ready := none }))
        ∧ (zero → exec (.waitt wt) s = .next (s.after n n.g 8 2))
        ∧ (¬zero → exec (.waitt wt) s = .next (s.putFrag s.cur { n.f with st := .stallT, why := .tokens wt, ready := none })))
    ∧ (∀ (s : State) (n : Now), s.permits .cores n →
      (∀ u g, s.leaveAll s.cur.gid (n.g.chain n.f.rcd) n.f.em = u → u.groups.find s.cur.gid = some g →
          ((∀ h ∈ g.held, h.joined = true) → Completes .stop s (fun t => t.frags.find s.cur.fid = none))
          ∧ (∀ l h l', g.held = l ++ h :: l' → h.joined = false → (∀ e ∈ l', e.joined = true) → h.pc.toNat < 2 ^ 56 →
              Completes .stop s (fun t => t.frags.find s.cur.fid = some { em := h.em, pc := h.pc, st := .pending, rcd := h.rcd, wins := h.wins
                                                                          acquires := h.acquires, ready := some (s.clock + 2) }
                ∧ ∃ y, t.groups.find s.cur.gid = some y ∧ y.held = l ++ l')))
        ∧ (n.f.rcd = none → n.g.held = [] → Cells.wf none s.frags = true →
            Completes .stop s (fun t => t.frags.find s.cur.fid = none ∧ t.mem = s.mem
              ∧ ((∃ e ∈ s.frags.all, e.1 / 64 = s.cur.gid ∧ e.1 ≠ s.cur.fid) → t.groups = s.groups ∧ t.teams = s.teams)
              ∧ ((∀ e ∈ s.frags.all, e.1 / 64 = s.cur.gid → e.1 = s.cur.fid) → ∃ x, t.teams.find s.cur.team = some x ∧ s.cur.grp ∈ x.ended))))

/-- BRD (R171): it opens a record for its token unless the chain has one; with no lane taken the fragment goes on, with every lane taken it transfers;
with both, and room in the pool, two fragments share the lanes, the larger side going on in its slot (the taken side where they are equal), and with
no room the other lanes are held. With no room for a record it traps 0x025, with none on the held list 0x024. JOIN (R172, R173, R175), once every
result of its fragment is written: with no record of its token the fragment goes on. Otherwise it abandons its inner records and waits at the record;
when the lanes that wait there are all that the record expects, the record closes and the waiter in the lowest slot goes on with all of them, and the
others are gone. Where it waits on, it does so in the JOIN state, or hands its slot to the newest READY entry. -/
def Obligations.Divergence : Prop :=
  (∀ (s : State) (n : Now), s.permits .cores n → n.fits 8 → ∀ (g : Guard) (tok : BitVec 8) (disp : BitVec 22),
      let taken := n.f.em &&& n.g.guard g
      let rest := n.f.em &&& ~~~taken
      let t : Word := n.f.pc + BitVec.ofInt 64 (8 * disp.toInt)
      let opened := n.g.match' n.f.rcd tok
      let m : Now := match opened with
        | some _ => n
        | none => { n with g := { n.g with recs := n.g.recs.put n.g.freeRec { tok := tok, exp := n.f.em, par := n.f.rcd } }
                           f := { n.f with rcd := some n.g.freeRec } }
      let room : Prop := opened ≠ none ∨ n.g.recs.keys.length < 16
      let pool (s' : State) : Option Nat := if (s'.fragsOf s'.cur.gid).length < 8 then s'.poolSlot n.t.core else none
      (taken = 0 → room → exec (.brd g tok disp) s = .next (s.after m m.g 8 2))
        ∧ (∀ s', s.reaches n t s' → taken ≠ 0 → rest = 0 → room → exec (.brd g tok disp) s = .next (s'.jumped m m.g t))
        ∧ (∀ s' k, s.reaches n t s' → taken ≠ 0 → rest ≠ 0 → room → pool s' = some k →
            exec (.brd g tok disp) s = .next
              (let (em, pc, em', pc') := if popcount rest ≤ popcount taken then (taken, t, rest, n.f.pc + 8) else (rest, n.f.pc + 8, taken, t)
               (s'.jumped { m with f := { m.f with em := em } } m.g pc).putFrag { s.cur with slot := k }
                 { em := em', pc := pc', st := .pending, rcd := m.f.rcd, ready := some (s'.clock + 2), wins := n.f.wins, acquires := n.f.acquires }))
        ∧ (∀ s', s.reaches n t s' → taken ≠ 0 → rest ≠ 0 → room → pool s' = none → n.g.held.length < 8 →
            exec (.brd g tok disp) s = .next (s'.jumped { m with f := { m.f with em := taken } }
              { m.g with held := m.g.held ++ [{ em := rest, pc := n.f.pc + 8, rcd := m.f.rcd, joined := false, jpc := 0, wins := n.f.wins
                                                acquires := n.f.acquires }] } t))
        ∧ (∀ s', s.reaches n t s' → taken ≠ 0 → ¬room → exec (.brd g tok disp) s = .next (s'.trapNow n { code := 0x025 }))
        ∧ (taken = 0 → ¬room → exec (.brd g tok disp) s = .next (s.trapNow n { code := 0x025 }))
        ∧ (∀ s', s.reaches n t s' → taken ≠ 0 → rest ≠ 0 → room → pool s' = none → ¬n.g.held.length < 8 →
            exec (.brd g tok disp) s = .next (s'.trapNow n { code := 0x024 })))
    ∧ (∀ (s u : State) (n m : Now), s.permits .cores n → n.fits 8 → n.awaited = [] → ∀ (tok : BitVec 8),
      (s.putFrag s.cur (n.f.closes (n.f.wins.map (·.1)))).settle s.cur.gid = u → u.now = some m →
      (m.g.match' m.f.rcd tok = none → exec (.join tok) s = .next (u.after m m.g 8 2))
        ∧ (∀ r v g x, m.g.match' m.f.rcd tok = some r →
            (u.putFrag u.cur { m.f with rcd := some r, jpc := m.f.pc, st := .join, ready := none }).leaveAll u.cur.gid
              ((m.g.chain m.f.rcd).takeWhile (· ≠ r)) m.f.em = v →
            v.groups.find s.cur.gid = some g → g.recs.find r = some x →
            let here := v.waitersAt s.cur.gid r
            let held := g.held.filter (fun h => h.joined && h.rcd = some r)
            let lanes := (here.map (·.2.em) ++ held.map (·.em)).foldl (· ||| ·) 0
            (∀ w rest, here = w :: rest → lanes = x.exp → x.exp ≠ 0 → (w.2.jpc + 8).toNat < 2 ^ 56 →
                Completes (.join tok) s (fun t =>
                  (∃ f, t.frags.find w.1 = some f ∧ f.em = x.exp ∧ f.pc = w.2.jpc + 8 ∧ f.rcd = x.par ∧ f.ready = some (s.clock + 2)
                    ∧ f.st = if w.1 = s.cur.fid ∧ w.2.active ≠ none then .active else .pending)
                  ∧ (∀ e ∈ rest, e.1 ≠ w.1 → t.frags.find e.1 = none)
                  ∧ ∃ y, t.groups.find s.cur.gid = some y ∧ y.recs = g.recs.del r ∧ y.held = g.held.filter (fun h => !(h.joined && h.rcd = some r))))
            ∧ (∀ f, (lanes = 0 ∨ lanes ≠ x.exp) → v.frags.find s.cur.fid = some f → f.st = .join → f.rcd = some r → f.jpc = m.f.pc →
                ((∀ h ∈ g.held, h.joined = true) → exec (.join tok) s = .next v)
                ∧ (∀ l h l', g.held = l ++ h :: l' → h.joined = false → (∀ e ∈ l', e.joined = true) → h.pc.toNat < 2 ^ 56 →
                    Completes (.join tok) s (fun t =>
                      t.frags.find s.cur.fid = some { em := h.em, pc := h.pc, st := .pending, rcd := h.rcd, wins := h.wins, acquires := h.acquires
                                                      ready := some (s.clock + 2) }
                      ∧ ∃ y, t.groups.find s.cur.gid = some y
                          ∧ y.held = l ++ l' ++ [{ em := f.em, pc := f.pc, rcd := f.rcd, joined := true, jpc := f.jpc }])))))

/-- TRAP in compute and system modes (R180): it raises 0x030 + n with TRAPPC at the TRAP and TRAPDATA[19:0] the payload, and has no other effect: no
register but the trap's own and no byte of memory changes. -/
def Obligations.SoftwareTrap : Prop :=
  ∀ (s : State) (n : Now), s.permits .cores n → ∀ (k : Fin 8) (payload : BitVec 20),
    let code : Code := BitVec.ofNat 9 (0x030 + k.val)
    let saved (x : TrapRegs) : Prop := x.v = true ∧ x.code = code ∧ x.pc = n.f.pc ∧ x.em = n.f.em ∧ x.slot = s.cur.slot ∧ x.data = BitVec.ofNat 64 payload.toNat
    exec (.trap k payload) s = .next (s.trapNow n { code := code, data := some (BitVec.ofNat 64 payload.toNat) })
      ∧ (n.t.kind = .compute → n.t.run = .resident → Completes (.trap k payload) s (fun t => t.groups = s.groups ∧ t.mem = s.mem
        ∧ ∃ x, t.teams.find s.cur.team = some x ∧ x.run = .stopped ∧ saved x.trap ∧ { x with run := n.t.run, trap := n.t.trap, parkNow := n.t.parkNow } = n.t))
      ∧ (n.t.kind = .system → n.g.trap.v = false → n.g.pends = [] → Completes (.trap k payload) s (fun t => t.teams = s.teams ∧ t.mem = s.mem
        ∧ ∃ g, t.groups.find s.cur.gid = some g ∧ saved g.trap ∧ { g with trap := n.g.trap, held := n.g.held } = n.g))

/-- ERET (R425): it raises 0x02F with V clear; otherwise the fragment goes on at TRAPPC with em := TRAPEM AND em and V := 0, and words of the group's
other fragments may issue again; a TRAPPC that R41 refuses raises the code with V as it was. The word has no field. -/
def Obligations.ExceptionReturn : Prop :=
  ∀ (s s' : State) (n : Now), s.permits .system n →
    (n.g.trap.v = false → exec .eret s = .next (s.trapNow n { code := 0x02F }))
      ∧ (n.g.trap.v = true → s.reaches n n.g.trap.pc s' →
        let g : Machine.Group := { n.g with trap := { n.g.trap with v := false } }
        let t := s'.holding g { n.f with pc := n.g.trap.pc, em := n.g.trap.em &&& n.f.em, ready := some (s'.clock + 2) }
        exec .eret s = .next t
          ∧ ∀ m : Now, m.t = n.t → m.g = g → m.f.st = .active → n.t.run = .resident → n.t.dbg.budget ≠ some 0 → t.awake = true → t.mayIssue m = true)
      ∧ (∀ f, n.g.trap.v = true → s.checkTarget n n.g.trap.pc = (some f, s') →
        Completes .eret s (fun t => t = s'.trapNow n f ∧ ∃ g, t.groups.find s.cur.gid = some g ∧ g.trap.v = true))
      ∧ decodeTableWord 64 0xA020000000000000 = some .eret
      ∧ ∀ w, w / 2 ^ 52 = 0xA02 → (decodeWord .system 128 w = .instr .eret ↔ w = 0xA020000000000000)

/-- What a compute team may not run (R24, R25, R428): the system forms trap 0x028, the device accesses 0x029, the prologue words 0x02C, a read or write of
a system register 0x02E and a write of a register that takes none 0x02D; the team stops with that code and its registers, and all memory, unchanged.
Taking a trap in system mode (R424): with V clear, TRAP and a word of the matrix engine save the pc, the mask and the code in the group's trap
registers, set V, and the fragment goes on at VBASE + 256 × class with every other register unchanged; with V set, the group stops and its hub's
recovery core starts. NOP and what prologue mode does not have (R181): NOP does nothing but go on; BRD, JOIN, YIELD, WAITT, STOP and TRAP, and a CALL,
RET or JMPI with a vector-pair link, trap 0x02A there; with em 0b1 BRC branches where bit 0 of its guard is set. An EXT word that issues traps 0x003
at its own address (R40). The words at fault of an address that does not fit: the next sequential address of a word that ends at 2^56 traps with 0x026
(R162). -/
def Obligations.TrapsByMode : Prop :=
  (∀ (s : State) (n : Now), s.now = some n → n.t.kind = .compute → n.t.run = .resident →
      let stops (i : Instr) (code : Nat) : Prop := Completes i s (fun t => t.groups = s.groups ∧ t.mem = s.mem ∧
        ∃ x, t.teams.find s.cur.team = some x ∧ x.run = .stopped ∧ x.trap.v = true ∧ x.trap.code = BitVec.ofNat 9 code ∧ x.trap.pc = n.f.pc)
      ∀ (la : La) (kind : TlbiKind) (g cfg : Bool) (sz : Sz) (d a b : SReg) (e : Fin 32) (mode : MsiMode) (rc : PrgCode) (disp : BitVec 19) (num : BitVec 12) (v : Fin 128),
        stops .eret 0x028 ∧ stops (.tlbi kind g a) 0x028 ∧ stops (.pgharv g d a) 0x028 ∧ stops (.cscope a e) 0x028 ∧ stops (.msib mode a) 0x028
          ∧ stops (.atsinv g a) 0x028 ∧ stops (.prgr rc a) 0x028 ∧ stops (.halt a) 0x028
          ∧ stops (.iold la cfg sz d a disp) 0x029 ∧ stops (.iost cfg sz a b disp) 0x029
          ∧ stops (.plaunch a) 0x02C ∧ stops .pcancel 0x02C ∧ (∀ r, stops (.prepeat a r) 0x02C)
          ∧ (0x100 ≤ num.toNat → num.toNat ≤ 0x3FF → stops (.srd la num v) 0x02E ∧ stops (.swr num a) 0x02E)
          ∧ (num.toNat < 0x100 ∨ 0x3FF < num.toNat → stops (.swr num a) 0x02D) ∧ stops (.stageqWrite a) 0x02E)
    ∧ (∀ (s : State) (n : Now), s.now = some n → n.t.kind = .system → n.g.pends = [] → ∀ (k : Fin 8) (payload : BitVec 20) (wt : Wait),
      let traps (i : Instr) (code : Nat) : Prop :=
        (n.g.trap.v = false → Completes i s (fun t => t.mem = s.mem ∧ t.teams = s.teams ∧ ∃ g f, t.groups.find s.cur.gid = some g ∧ t.frags.find s.cur.fid = some f
            ∧ g.trap.v = true ∧ g.trap.code = BitVec.ofNat 9 code ∧ g.trap.pc = n.f.pc ∧ g.trap.em = n.f.em ∧ { g with trap := n.g.trap, held := n.g.held } = n.g
            ∧ f.pc = n.g.vbase + BitVec.ofNat 64 (256 * (code / 64)) ∧ f.em = n.f.em))
          ∧ (n.g.trap.v = true → Completes i s (fun t => (t.hub (hubOfCore n.t.core)).recovery = true
            ∧ ∃ x, t.teams.find s.cur.team = some x ∧ x.run = .trapped))
      traps (.trap k payload) (0x030 + k.val) ∧ traps (.baton wt) 0x02B)
    ∧ (∀ (s : State) (n : Now), s.now = some n → ∀ (g : Guard) (tok : BitVec 8) (disp : BitVec 22) (far : BitVec 30) (abs : BitVec 56) (wt : Wait) (k : Fin 8)
      (payload : BitVec 20) (v : Fin 64) (r : SReg) (e : BitVec 60),
      let traps (i : Instr) : Prop := n.t.kind = .prologue → exec i s = .next (s.trapNow n { code := 0x02A })
      (n.fits 8 → exec .nop s = .next (s.after n n.g 8 2))
        ∧ traps (.brd g tok disp) ∧ traps (.join tok) ∧ traps (.yieldW wt disp) ∧ traps (.waitt wt) ∧ traps .stop ∧ traps (.trap k payload)
        ∧ traps (.call (.vec v) far) ∧ traps (.callL (.vec v) abs) ∧ traps (.ret (.vec v)) ∧ traps (.jmpi (.vec v) r)
        ∧ (∀ s', n.f.em = 1 → n.fits 8 →
          let t : Word := n.f.pc + BitVec.ofInt 64 (8 * far.toInt)
          ((n.g.guard g).getLsbD 0 = false → exec (.brc g far) s = .next (s.after n n.g 8 2))
            ∧ ((n.g.guard g).getLsbD 0 = true → s.reaches n t s' → exec (.brc g far) s = .next (s'.jumped n n.g t)))
        ∧ exec (.ext e) s = .next (s.trapNow n { code := 0x003 }))
    ∧ (∀ (s : State) (n : Now), s.permits .any n → ¬n.fits 8 → exec .nop s = .next ((s.holding n.g n.f).raise s.cur n.f.pc { code := 0x026 }))

/-- LD, LDRO and LDS (R204, R206, R208): with the accesses of every active lane checked, the word opens one pending result of the registers that its size
names; lane i takes the bytes at its own address, extended as the size and sign say. A load of several pieces may instead be performed piece by piece
(R200, the model's choice of log 129); then its last piece gives the value. No byte of memory changes. ST and STS (R207): with the accesses of the
guarded lanes checked, the lanes store in ascending order and the fragment goes on; every byte holds what was stored there last, and every other byte,
of memory and of scratch, what it held. A store of several pieces may instead be performed piece by piece (R200, the model's choice of log 129). -/
def Obligations.LaneMemory : Prop :=
  (∀ (s : State) (n : Now), s.permits .cores n → n.fits 8 → ∀ (wt : Wait) (la : La) (sz : Sz) (ty : Sgn) (d a : VReg) (b : VSrc) (disp : BitVec 17),
      n.idle wt →
      let p := n.party s.cur.team
      let regs := vecRegs sz d.val
      let lanes := (lanesOf n.f.em).map (fun i => (i, pairAddr n.g a.val disp i))
      let many (l : List LanePieces) : Bool := decide (1 < (l.flatMap (·.2.2)).length)
      let opens (i : Instr) (s' : State) (due : Nat) (r : List (Nat × List Byte)) (bad : Option Bad) : Prop :=
        exec i s = .next (s'.opened n (loadPend regs due (some (r.flatMap (fun e => vecLoad sz ty d.val e.1 e.2))) bad) la.val)
          ∧ r.map (·.1) = lanesOf n.f.em ∧ ∀ e ∈ r, e.2.length = szBytes sz
      let torn (i : Instr) (s' : State) (lat : Nat) (core : Option Nat) (todo : Tab Piece) (counts : List (Nat × Nat)) : Prop :=
        exec i s = .next ((s'.opened n (loadPend regs (s'.clock + lat) none) la.val).tearInto
          { core := core, team := some s.cur.team, todo := todo, next := .load s.cur.gid s'.nextId true sz ty d.val counts })
      (∀ l s1 s2 r bad s3, s.checkLanes p .load (szBytes sz) lanes = (.ok l, s1) → s1.tears (many l) = (false, s2) →
          s2.readLanes p l = ((r, bad), s3) →
          opens (.ld wt la sz ty d a disp) s3 (s.clock + 16) r bad ∧ s3.holdsStored s1 p [])
        ∧ (∀ l s1 s2, s.checkLanes p .load (szBytes sz) lanes = (.ok l, s1) → s1.tears (many l) = (true, s2) →
          torn (.ld wt la sz ty d a disp) s2 16 p.l1 (loadPieces l) (laneCounts (l.map (fun e => (e.1, e.2.2)))))
        ∧ (∀ l s1 s2 r bad s3, s.checkLanes p .ldro (szBytes sz) lanes = (.ok l, s1) → s1.tears (many l) = (false, s2) →
          s2.roLanes p n.t.core n.t.launch l = ((r, bad), s3) →
          opens (.ldro wt la sz ty d a disp) s3 (s.clock + 16) r bad)
        ∧ (∀ l s1 s2, s.checkLanes p .ldro (szBytes sz) lanes = (.ok l, s1) → s1.tears (many l) = (true, s2) →
          torn (.ldro wt la sz ty d a disp) s2 16 (some n.t.core)
            ((loadPieces l).map (fun e => (e.1, e.2.map (fun x => match x with
              | .load k pa _ m va => Piece.ro k n.t.launch pa m va
              | x => x)))) (laneCounts (l.map (fun e => (e.1, e.2.2)))))
        ∧ (∀ l s1 t, s.checkScrLanes n.t s.cur.team .lds (szBytes sz) ((lanesOf n.f.em).map (fun i => (i, scrAddr n.g b disp i))) = .ok l →
          s.tears (decide (1 < (l.flatMap (·.2)).length)) = (t, s1) →
          let lat := if ∃ i ∈ lanesOf n.f.em, scrAddr n.g b disp i / 2 ^ 30 ≠ 0 then 24 else 10
          if t then torn (.lds wt la sz ty d b disp) s1 lat none (numbered ((l.flatMap (·.2)).zipIdx.map (fun e => .scr e.2 e.1.1 e.1.2))) (laneCounts l)
          else opens (.lds wt la sz ty d b disp) s1 (s.clock + lat) (l.map (fun e => (e.1, s.readScr e.2))) none))
    ∧ (∀ (s : State) (n : Now), s.permits .cores n → n.fits 8 → ∀ (g : Guard) (wt : Wait) (sz : Sz) (d a : VReg) (b : VSrc) (disp : BitVec 17), n.idle wt →
      let p := n.party s.cur.team
      let lanes := lanesOf (n.f.em &&& n.g.guard g)
      (∀ l s1 t s2, s.checkLanes p .store (szBytes sz) (lanes.map (fun i => (i, pairAddr n.g a.val disp i))) = (.ok l, s1) →
          s1.tears (decide (1 < (l.flatMap (·.2.2)).length)) = (t, s2) →
          l.map (·.1) = lanes
          ∧ if t then exec (.st g wt sz d a disp) s = .next ((s2.after n n.g 8).tearInto
                { core := p.l1, team := some s.cur.team, todo := numbered (l.flatMap (fun e => storePieces e.2.2 (vecBytes n.g sz d.val e.1))) })
            else ∃ u : State, exec (.st g wt sz d a disp) s = .next (u.after n n.g 8)
                ∧ u.holdsStored s1 p (l.flatMap (fun e => storedAt e.2.2 (vecBytes n.g sz d.val e.1)))
                ∧ u.groups = s.groups ∧ u.frags = s.frags ∧ u.teams = s.teams)
        ∧ (∀ l t s1, s.checkScrLanes n.t s.cur.team .store (szBytes sz) (lanes.map (fun i => (i, scrAddr n.g b disp i))) = .ok l →
          s.tears (decide (1 < (l.flatMap (·.2)).length)) = (t, s1) →
          l.map (·.1) = lanes
          ∧ if t then exec (.sts g wt sz d b disp) s = .next ((s1.after n n.g 8).tearInto
                { team := some s.cur.team, todo := numbered (l.flatMap (fun e => scrPieces e.2 (vecBytes n.g sz d.val e.1))) })
            else ∃ u : State, exec (.sts g wt sz d b disp) s = .next (u.after n n.g 8)
                ∧ u.groups = s.groups ∧ u.frags = s.frags ∧ u.mem = s.mem
                ∧ ∀ x, u.scrRead x 1 = ((lastStored (l.flatMap (fun e => storedScr e.2 (vecBytes n.g sz d.val e.1))) x).map (fun y => [y])).getD
                    (s.scrRead x 1)))

/-- SLD and SST (R206, R207): one access, of memory or of the team's scratch; SST does nothing but go on where its guard is false. An access of two pieces
may be performed piece by piece (R200, the model's choice of log 129). ROINV and PREF (R209, R210): after ROINV the core holds no read-only sector of
the launch; a prefetch of any addresses changes no register, no fragment and, but for the accessed bits of page entries (R348), no byte of memory. SLD
and SST whose address is 2^56 or more stop a compute team with 0x047, TRAPPC at the word and TRAPVA at the address; no register and no byte of memory
changes (R201, R415). -/
def Obligations.ScalarMemory : Prop :=
  (∀ (s : State) (n : Now), s.permits .any n → n.fits 8 →
      ∀ (g : Guard) (wt : Wait) (la : La) (sz : Sz) (ty : Sgn) (d a : SReg) (disp : BitVec 17), n.idle wt →
      let p := n.party s.cur.team
      let regs := scaRegs sz d.val
      let va := scaAddr n.g a.val disp
      let sa := scaScrAddr n.g a.val disp
      let live := n.f.em &&& n.g.guard g ≠ 0
      let bytes := scaBytes n.g sz d.val
      let ld (sp : Bool) : Instr := .sld wt la sz ty sp d a disp
      let st (sp : Bool) : Instr := .sst g wt sz sp d a disp
      let torn (s1 : State) (core : Option Nat) (todo : Tab Piece) (k : Nat) : Out :=
        .next ((s1.opened n (loadPend regs (s.clock + 10) none) la.val).tearInto
          { core := core, team := some s.cur.team, todo := todo, next := .load s.cur.gid s1.nextId false sz ty d.val [(0, k)] })
      (∀ l s1 s2 x c s3, s.checkAccess p .load va (szBytes sz) = (.ok l, s1) → s1.tears (decide (1 < l.length)) = (false, s2) →
          s2.readPieces p l = ((x, c), s3) →
          exec (ld false) s = .next (s3.opened n (loadPend regs (s.clock + 10) (some (scaLoad sz ty d.val x)) (s2.badPiece p va l)) la.val)
            ∧ x.length = szBytes sz ∧ s3.holdsStored s1 p [])
        ∧ (∀ l s1 s2, s.checkAccess p .load va (szBytes sz) = (.ok l, s1) → s1.tears (decide (1 < l.length)) = (true, s2) →
          exec (ld false) s = torn s2 p.l1 (loadPieces [(0, va, l)]) l.length)
        ∧ (∀ l t s1, n.t.kind ≠ .prologue → s.checkScr n.t s.cur.team .other sa (szBytes sz) = .ok l → s.tears (decide (1 < l.length)) = (t, s1) →
          exec (ld true) s = if t then torn s1 none (numbered (l.zipIdx.map (fun e => .scr e.2 e.1.1 e.1.2))) l.length
            else .next (s1.opened n (loadPend regs (s.clock + 10) (some (scaLoad sz ty d.val (s.readScr l)))) la.val))
        ∧ (∀ l s1 t s2, live → s.checkAccess p .store va (szBytes sz) = (.ok l, s1) → s1.tears (decide (1 < l.length)) = (t, s2) →
          bytes.length = szBytes sz
          ∧ if t then exec (st false) s = .next ((s2.after n n.g 8).tearInto
                { core := p.l1, team := some s.cur.team, todo := numbered (storePieces l bytes) })
            else ∃ u : State, exec (st false) s = .next (u.after n n.g 8) ∧ u.holdsStored s1 p (storedAt l bytes)
                ∧ u.groups = s.groups ∧ u.frags = s.frags ∧ u.teams = s.teams)
        ∧ (∀ l t s1, n.t.kind ≠ .prologue → live → s.checkScr n.t s.cur.team .store sa (szBytes sz) = .ok l → s.tears (decide (1 < l.length)) = (t, s1) →
          if t then exec (st true) s = .next ((s1.after n n.g 8).tearInto { team := some s.cur.team, todo := numbered (scrPieces l bytes) })
          else ∃ u : State, exec (st true) s = .next (u.after n n.g 8) ∧ u.groups = s.groups ∧ u.frags = s.frags ∧ u.mem = s.mem
                ∧ ∀ x, u.scrRead x 1 = ((lastStored (storedScr l bytes) x).map (fun y => [y])).getD (s.scrRead x 1))
        ∧ (¬live → exec (st false) s = .next (s.after n n.g 8) ∧ (n.t.kind ≠ .prologue → exec (st true) s = .next (s.after n n.g 8)))
        ∧ (n.t.kind = .prologue → exec (ld true) s = .next (s.trapNow n { code := 0x02A }) ∧ exec (st true) s = .next (s.trapNow n { code := 0x02A })))
    ∧ (∀ (s : State) (n : Now), s.permits .cores n → n.fits 8 → ∀ (wt : Wait) (l2 : Bool) (a : VSrc) (disp : BitVec 17), n.idle wt →
      let p := n.party s.cur.team
      (∃ s' : State, exec (.roinv wt) s = .next (s'.after n n.g 8) ∧ s'.groups = s.groups ∧ s'.frags = s.frags ∧ s'.teams = s.teams
          ∧ (∀ key, key / 2 ^ 40 = n.t.launch + 1 → (s'.core n.t.core).ro.find key = none)
          ∧ (isFeCore n.t.core = false → s'.holdsStored s p []))
        ∧ (∃ s' : State, exec (.pref wt l2 a disp) s = .next (s'.after n n.g 8) ∧ s'.groups = s.groups ∧ s'.frags = s.frags ∧ s'.teams = s.teams
          ∧ (isFeCore n.t.core = false → s.calm → ∀ q, s'.latest p q = s.latest p q ∨ s'.latest p q = s.latest p q ||| 0x20)))
    ∧ (∀ (s : State) (n : Now), s.now = some n → n.t.kind = .compute → n.t.run = .resident →
      ∀ (g : Guard) (wt : Wait) (la : La) (sz : Sz) (ty : Sgn) (d a : SReg) (disp : BitVec 17), n.idle wt →
      let va := scaAddr n.g a.val disp
      let stops (i : Instr) (code : Nat) (va : Nat) : Prop := Completes i s (fun t => t.groups = s.groups ∧ t.mem = s.mem ∧
        ∃ x, t.teams.find s.cur.team = some x ∧ x.run = .stopped ∧ x.trap.v = true ∧ x.trap.code = BitVec.ofNat 9 code ∧ x.trap.pc = n.f.pc
          ∧ x.trap.va = BitVec.ofNat 64 va)
      2 ^ 56 ≤ va → stops (.sld wt la sz ty false d a disp) 0x047 va ∧ (n.f.em &&& n.g.guard g ≠ 0 → stops (.sst g wt sz false d a disp) 0x047 va))

/-- RED (R241 to R243): with no write to its words held and none of them read by another RED that has not written it yet, the lanes act in ascending
order, in the core's L1 at a scope up to TEAM and at the home above it, where the core's lines go first; a return form opens a pending result of the
old values. Its lanes may be steps of their own (R260, the model's choice of log 129). A poisoned word traps; a word that cannot act yet is tried
again in the next ck. -/
def Obligations.MemoryReduce : Prop :=
  ∀ (s : State) (n : Now), s.permits .cores n → n.fits 8 →
    ∀ (g : Guard) (wt : Wait) (la : La) (wide : Bool) (op : MemRed) (sc : Scope) (d a b : VReg) (l : List LanePieces) (s1 : State),
    n.idle wt →
    let p := n.party s.cur.team
    let size := if wide then 8 else 4
    let l1 : Option Nat := if sc.val ≤ 1 then some n.t.core else none
    let at' : Party := if sc.val ≤ 1 then p else { p with place := .hub 0 }
    let lanes := l.map (fun e => (e.1, e.2.1, (e.2.2.head?.map (·.1)).getD 0, if wide then (n.g.pairGet b.val e.1).toNat else (n.g.vget b.val e.1).toNat))
    let regs : List PendReg := if wide then [.v d.val, .v (d.val + 1)] else [.v d.val]
    let red (ret : Option VReg) : Instr := .red g wt la wide op sc ret a b
    let busy : Prop := (∃ e ∈ lanes, s1.holds e.2.2.1 = true) ∨ s1.redOpen (lanes.map (·.2.2.1)) = true
    let s2 := if sc.val ≤ 1 then s1 else lanes.foldl (fun s e => s.dropLine n.t.core e.2.2.1) s1
    let marred := lanes.any (fun e => s2.loadPoison at' e.2.2.1 size)
    s.checkLanes p .red size ((lanesOf (n.f.em &&& n.g.guard g)).map (fun i => (i, (n.g.pairGet a.val i).toNat))) = (.ok l, s1) →
    (busy → ∀ r, exec (red r) s = .next (s1.putFrag s.cur { n.f with ready := some (s.clock + 1) }))
      ∧ (¬busy → ∀ t s3, s2.tears (decide (lanes ≠ []) && !marred) = (t, s3) →
        if t then
          let x : Torn := { core := l1, team := some s.cur.team, todo := numbered (lanes.zipIdx.map (fun e => .red e.2 e.1.2.2.1 size op e.1.2.2.2)) }
          exec (red none) s = .next ((s3.after n n.g 8).tearInto x)
            ∧ exec (red (some d)) s = .next ((s3.opened n (loadPend regs s.clock none) la.val).tearInto
                { x with next := .red s.cur.gid s3.nextId wide d.val (lanes.map (·.1)) })
        else ∀ r bad s4, s3.redLanes p l1 size op lanes = ((r, bad), s4) →
          match bad with
          | some e => ∀ q, exec (red q) s = .next (s4.trapNow n (badFail e))
          | none => exec (red none) s = .next (s4.after n n.g 8)
              ∧ exec (red (some d)) s = .next (s4.opened n (loadPend regs s.clock (some (redVals wide d.val r))) la.val)
              ∧ r.map (·.1) = lanesOf (n.f.em &&& n.g.guard g))

/-- A word of FORM 0x4, 0x7 or 0x8 whose wait mask names a token that is not zero does nothing but wait in WAIT-T, with its address kept (R33). -/
def Obligations.WaitMask : Prop :=
  ∀ (s : State) (n : Now) (i : Instr) (wt : Wait), s.now = some n → n.t.kind = .compute → ¬n.idle wt →
    ((∃ la sz ty d a disp, i = .ld wt la sz ty d a disp) ∨ (∃ g sz d a disp, i = .st g wt sz d a disp) ∨ (∃ la sz ty d a disp, i = .lds wt la sz ty d a disp)
      ∨ (∃ g sz d a disp, i = .sts g wt sz d a disp) ∨ (∃ la sz ty d a disp, i = .ldro wt la sz ty d a disp)
      ∨ (∃ la sz ty sp d a disp, i = .sld wt la sz ty sp d a disp) ∨ (∃ g sz sp d a disp, i = .sst g wt sz sp d a disp)
      ∨ (∃ g la w op sc r a b, i = .red g wt la w op sc r a b) ∨ i = .roinv wt ∨ (∃ l2 a disp, i = .pref wt l2 a disp)
      ∨ (∃ tok ds ss sz d a ca, i = .cpy wt tok ds ss sz d a ca) ∨ (∃ tok ps st d a ca, i = .cpyt wt tok ps st d a ca)
      ∨ (∃ tok ds sz d a ca, i = .cpyf wt tok ds sz d a ca) ∨ (∃ la tok d, i = .cpyq wt la tok d) ∨ (∃ tok, i = .cpyx wt tok)
      ∨ i = .baton wt ∨ (∃ a, i = .bpass wt a) ∨ (∃ c q a, i = .mbq wt c q a) ∨ (∃ tok c q a, i = .mbqs wt tok c q a)
      ∨ (∃ tok rep fs d a b, i = .mma wt tok rep fs d a b) ∨ (∃ d c, i = .mzero wt d c) ∨ (∃ d a, i = .mloada wt d a)
      ∨ (∃ la dst a rg nrg dt ty rm bl, i = .mdrain wt la dst a rg nrg dt ty rm bl) ∨ (∃ fmt bl d a b, i = .mcmpr wt fmt bl d a b)
      ∨ (∃ la tok clr d, i = .mstat wt la tok clr d)) →
    exec i s = .next (s.putFrag s.cur { n.f with st := .waitT, why := .tokens wt, ready := none })

/-- What a core's L1 holds (R188, R190, R191): after a store of bytes at an address the core's party knows them there, and every other byte as before; no
other core has changed, and a byte at a home changes only where a line that the core evicts had it dirty. A load of one byte finds it dirty, or as the
sector was filled less than 8 of logical time ago, or as it is at its home. A home's memory (R7, R250): where no write is held, a write of bytes reads
back, and every other byte as before, whether it lands or is held for the wipe map or a migration (R356, R361). A checked access changes no byte of
memory but the accessed bits of page entries, and no register (R348, R354). -/
def Obligations.Stores : Prop :=
  (∀ (s : State) (k pa : Nat) (l : List Byte) (p : Party), s.calm → p.place = .core k →
      let t := s.l1Write k pa l
      (∀ q, t.latest p q = if pa ≤ q ∧ q < pa + l.length then l.getD (q - pa) 0 else s.latest p q)
        ∧ (∀ j, j ≠ k → t.core j = s.core j)
        ∧ (l.length ≤ 64 → ∀ q, t.memByte q = s.memByte q ∨ t.memByte q = s.latest p q)
        ∧ (∀ q, (s.l1Read k q 1).1 = [match (s.core k).l1.find (q / 64) with
            | some x => if x.dirty.getLsbD (q % 64) ∨ (s.core k).lt - x.lt < 8 then Cells.get 0 x.data (q % 64) else s.memByte q
            | none => s.memByte q]))
    ∧ (∀ (s : State) (pa : Nat) (l : List Byte), s.settled = true →
      ∀ q, (s.homeWrite pa l).memByte q = if pa ≤ q ∧ q < pa + l.length then l.getD (q - pa) 0 else s.memByte q)
    ∧ (∀ (s : State) (p : Party) (a : Acc) (va n : Nat),
      let s' := (s.checkAccess p a va n).2
      (∀ q, s'.memByte q = s.memByte q ∨ s'.memByte q = s.memByte q ||| 0x20) ∧ s'.groups = s.groups ∧ s'.frags = s.frags ∧ s'.teams = s.teams
        ∧ s'.clock = s.clock ∧ s'.cur = s.cur)

/-- CADD, CREAD, CTEST and CSET (R234, R238 to R240): with the operand checked, the operation is on its way to its counter's home; a release first writes
the core's dirty bytes home (R221). The fragment goes on, with a pending result where the answer fills one, which an acquire orders its accesses
behind (R251); it waits in WAIT-L where the answer may be a trap. -/
def Obligations.CounterRequests : Prop :=
  ∀ (s : State) (n : Now), s.permits .cores n → n.fits 8 →
    ∀ (la : La) (d a b : SReg) (q : PReg) (v : CVal) (sc : Option Scope) (k : Ctr) (s1 : State),
    let x := n.g.sget a.val
    let y := n.g.sget b.val
    let amount : Word := match v with | .reg r => BitVec.ofNat 64 ((n.g.sget r.val).toNat % 2 ^ 32) | .imm i => i.setWidth 64
    let asks (i : Instr) (s' : State) (la : Nat) (reg : PendReg) (o : CtrOp) (acq : Bool) : Prop :=
      exec i s = .next (({ s' with nextId := s'.nextId + 1 }.emit { o with pend := some s'.nextId }).goes
        { n with g := { n.g with pends := n.g.pends.put s'.nextId { regs := [reg], need := 1, pc := n.f.pc, slot := s.cur.slot } }
                 f := { n.f with wins := n.windows ++ [(s'.nextId, la)], acquires := if acq then n.f.acquires ++ [s'.nextId] else n.f.acquires } }
        (if o.mayTrap then some (.waitL, .results [s'.nextId]) else none))
    (s.ctrOperand n s.cur.team (.add false) x = (.ok k, s1) →
        let s2 := s1.release (n.party s.cur.team) (sc.map (·.val))
        exec (.cadd la none a v sc) s = .next ((s2.emit (opOf s n k (.add amount) x sc)).after n n.g 8))
      ∧ (s.ctrOperand n s.cur.team (.add true) x = (.ok k, s1) →
        let s2 := s1.release (n.party s.cur.team) (sc.map (·.val))
        asks (.cadd la (some d) a v sc) s2 la.val (.s d.val) { opOf s n k (.add amount) x sc with reg := d.val } false)
      ∧ (s.ctrOperand n s.cur.team .wait x = (.ok k, s1) →
        asks (.cread la d a sc) s1 la.val (.s d.val) { opOf s n k .read x sc with reg := d.val } sc.isSome
          ∧ asks (.ctest q a b sc) s1 0 (.p q.val) { opOf s n k (.test y) x sc with reg := q.val, lanes := (lanesOf n.f.em).map (fun i => (i, 0)) } sc.isSome)
      ∧ (s.ctrOperand n s.cur.team .set x = (.ok k, s1) →
        exec (.cset a b) s = .next ((s1.emit (opOf s n k (.set y) x none)).goes n (some (.waitL, .answer))))

/-- CADDV (R235): with the operands of the guarded lanes checked, one add for each distinct operand is on its way, of the sum of its lanes' values; the
fragment goes on, in the return form with a pending result that needs every answer. CWAIT and CWAITA (R236, R237): a wait for each pair is on its way
to its counter's home, and the fragment waits in WAIT-C at the next word. -/
def Obligations.CounterVectors : Prop :=
  (∀ (s : State) (n : Now), s.permits .cores n → n.fits 8 →
      ∀ (g : Guard) (la : La) (d a b : VReg) (rel : Option Scope) (l : List (Nat × Word × Ctr)) (s1 : State),
      let lanes := (lanesOf (n.f.em &&& n.g.guard g)).map (fun i => (i, n.g.pairGet a.val i))
      let sum (ls : List Nat) : Word := BitVec.ofNat 64 ((ls.map (fun i => (n.g.vget b.val i).toNat)).foldl (· + ·) 0)
      let sent (u : State) (pid : Option Nat) : Prop := ∀ e ∈ caddvRequests l, ∃ id o, u.ops.find id = some o
        ∧ o.ctr = e.2.1 ∧ o.act = .add (sum e.2.2) ∧ o.scope = rel.map (·.val) ∧ o.va = e.1 ∧ o.who = .frag s.cur.fid 0 ∧ o.pend = pid
      (∀ x, (∃ e ∈ caddvRequests l, e.1 = x) ↔ ∃ e ∈ l, e.2.1 = x)
        ∧ (s.laneOperands n s.cur.team (.add false) lanes = (.ok l, s1) →
            ∃ u : State, exec (.caddv g la none a b rel) s = .next (u.after n n.g 8) ∧ sent u none)
        ∧ (s.laneOperands n s.cur.team (.add true) lanes = (.ok l, s1) →
            ∃ (u : State) (pid : Nat) (p : Pend), exec (.caddv g la (some d) a b rel) s = .next (u.goes
                { n with g := { n.g with pends := n.g.pends.put pid p }, f := { n.f with wins := n.windows ++ [(pid, la.val)] } }
                (if l.any (fun e => match e.2.2 with | .scr t _ => decide (t ≠ s.cur.team) | _ => false) then some (.waitL, .results [pid]) else none))
              ∧ p.regs = [.v d.val, .v (d.val + 1)] ∧ p.need = (caddvRequests l).length ∧ sent u (some pid)))
    ∧ (∀ (s : State) (n : Now), s.permits .cores n → n.fits 8 → ∀ (d a b : SReg) (cnt : Fin 4) (acq : Option Scope),
      (∀ k s1, s.ctrOperand n s.cur.team .wait (n.g.sget a.val) = (.ok k, s1) →
          exec (.cwait a b acq) s = .next ((s1.emit (opOf s n k (.wait (n.g.sget b.val)) (n.g.sget a.val) acq)).goes n (some (.waitC, .answer))))
        ∧ (∀ l s1, s.laneOperands n s.cur.team .wait ((List.range (cnt.val + 1)).map (fun j => (j, n.g.sget (a.val + 2 * j)))) = (.ok l, s1) →
          ∃ u : State, exec (.cwaita d a cnt acq) s = .next (u.goes n (some (.waitC, .answer)))
            ∧ ∀ e ∈ l, ∃ id o, u.ops.find id = some o ∧ o.ctr = e.2.2 ∧ o.act = .wait (n.g.sget (a.val + 2 * e.1 + 1))
                ∧ o.scope = acq.map (·.val) ∧ o.who = .frag s.cur.fid e.1 ∧ o.reg = d.val))

/-- QPUSH, QPOP and QINFO (R270, R272 to R276) on a ring of the own team: a push that the ring takes appends the records of the guarded lanes, and its
fragment waits 8 ck in WAIT-L; one for which no spill slot is free is held; a pop takes the oldest published records for the lowest active lanes as a
pending result; QINFO answers TAIL, HEAD and the capacity and spill counts. On a peer's ring the operation is sent to its home. -/
def Obligations.RingWords : Prop :=
  ∀ (s : State) (n : Now), s.permits .cores n → n.fits 8 →
    ∀ (g : Guard) (la : La) (acq : Bool) (q : RingN) (a d : VReg) (e : SReg) (p : PReg) (x : Option SReg) (k : Nat) (r : Ring),
    s.ringTarget n s.cur.team q.val x = .ok (k, r) →
    let out := lanesOf (n.f.em &&& n.g.guard g)
    let got := (lanesOf n.f.em).take (r.pub - r.head)
    let ring (u : State) (r' : Ring) : Prop := ∃ t, u.teams.find k = some t ∧ t.rings.find q.val = some r'
    let waiting (u : State) (why : WaitFor) : Prop :=
      u.frags.find s.cur.fid = some { n.f with pc := n.f.pc + 8, st := .waitL, why := why, ready := none }
    let popRegs := (List.range 8).map (fun j => PendReg.v (d.val + j)) ++ [.p p.val]
    let infoRegs : List PendReg := [.s e.val, .s (e.val + 1), .s (e.val + 2)]
    (out = [] → exec (.qpush g q a x) s = .next (s.after n n.g 8))
      ∧ (k = s.cur.team → out ≠ [] → r.held = [] → r.w < r.occ + out.length → exec (.qpush g q a x) s = .next (s.trapNow n
            { code := if x.isSome then 0x0A1 else 0x0A0 }))
      ∧ (k = s.cur.team → out ≠ [] → r.held = [] → r.occ + out.length ≤ r.w → r.spilled + r.toSpill out.length ≤ r.slots →
          Completes (.qpush g q a x) s (fun u => waiting u (.busy (s.clock + 8)) ∧ ∃ r', ring u r'
            ∧ r'.tail = r.tail + out.length ∧ r'.head = r.head ∧ r'.pub = r.pub
            ∧ r'.batches = r.batches ++ [{ count := out.length, fid := s.cur.fid, seq := s.nextId }]
            ∧ (∀ j, j < out.length → Cells.get 0 r'.recs (r.tail + j) = n.g.ringRec a.val (out.getD j 0))
            ∧ ∀ j, j < r.tail → Cells.get 0 r'.recs j = Cells.get 0 r.recs j))
      ∧ (k = s.cur.team → out ≠ [] → (r.held ≠ [] ∨ (r.occ + out.length ≤ r.w ∧ r.slots < r.spilled + r.toSpill out.length)) →
          Completes (.qpush g q a x) s (fun u => waiting u .answer ∧ ∃ o, o.act = .push (out.map (n.g.ringRec a.val)) ∧ o.who = s.cur
            ∧ ring u { r with held := r.held ++ [o] }))
      ∧ (k ≠ s.cur.team → out ≠ [] → Completes (.qpush g q a x) s (fun u => waiting u .answer ∧ ∃ o, o.act = .push (out.map (n.g.ringRec a.val))
            ∧ o.who = s.cur ∧ o.since = s.clock ∧ ring u { r with arrived := ringArrive o r.arrived }))
      ∧ (k = s.cur.team → ∃ (u : State) (r' : Ring) (bad : Option Fail), exec (.qpop la acq q d p x) s = .next (u.opened n
            { regs := popRegs, due := s.clock + 12, bad := bad
              vals := some ((List.range got.length).flatMap (fun j => ringVals d.val (got.getD j 0) (Cells.get 0 r.recs (r.head + j)))
                ++ [.p p.val n.f.em (got.foldl (fun (m : Mask) i => m ||| BitVec.ofNat 32 (2 ^ i)) 0)]) } la.val)
          ∧ ring u r' ∧ r'.head = r.head + got.length ∧ r'.tail = r.tail ∧ r'.pub = r.pub
          ∧ (s.poison = [] → s.settled = true → bad = none) ∧ (bad = none ∨ bad = some { code := 0x0A3 }))
      ∧ (k ≠ s.cur.team → exec (.qpop la acq q d p x) s = .next
            ((s.opened { n with f := { n.f with acquires := if acq then n.f.acquires ++ [s.nextId] else n.f.acquires } } { regs := popRegs } la.val).sendRing
              k q.val (s.ringOp n x.isSome true (.pop n.f.em d.val p.val acq) 12)))
      ∧ (k = s.cur.team → exec (.qinfo la q e x) s = .next (s.opened n
            { regs := infoRegs, due := s.clock + 12
              vals := some [.s e.val (BitVec.ofNat 64 r.tail), .s (e.val + 1) (BitVec.ofNat 64 r.head)
                , .s (e.val + 2) (BitVec.ofNat 64 (r.cap % 2 ^ 17 * 2 ^ 32 + r.spilled % 2 ^ 24))] } la.val))
      ∧ (k ≠ s.cur.team → exec (.qinfo la q e x) s = .next
            ((s.opened n { regs := infoRegs } la.val).sendRing k q.val (s.ringOp n x.isSome true (.info e.val) 12)))

/-- CPY, CPYT and CPYF (R282, R290, R291, R295, R296, R299): with the operands checked and room for the token and the copy, the core's dirty bytes are
written home, the token rises by 1 and the copy is on its way with its completion add; the fragment goes on, after CPYT when its operands have been
read, 20 ck in WAIT-L. A box or a fill of no element has made every move. CPYQ and CPYX (R302, R304): a snapshot of a token and of a bulk copy on it,
and the cancelling of every copy outstanding on a token that has not made all its moves. -/
def Obligations.CopyWords : Prop :=
  (∀ (s : State) (n : Now), s.permits .cores n → n.fits 8 →
      ∀ (wt : Wait) (tok : Tok) (ds ss store : Bool) (csz : CSz) (sz : Sz) (vd va : VReg) (d a : SReg) (ca : Option CAdd) (k : Option CopyAdd) (s1 s2 : State),
      n.idle wt → n.g.tget tok.val < 255 →
      let m : Now := { n with g := n.g.tset tok.val (n.g.tget tok.val + 1) }
      let s3 := s2.writeBackAll n.t.core
      let begins (kind : CopyKind) (empty : Bool) (wait : Option (FragSt × WaitFor)) : State :=
        let u := s3.goes m wait
        let die := dieOfCore n.t.core
        let id := s3.nextId
        let c : Copy := { kind := kind, own := .group s.cur.gid tok.val, ctr := k, die := die, pc := n.f.pc, pasid := n.t.pasid, team := s.cur.team }
        if empty then ({ u with copies := u.copies.put id { c with adding := true }, nextId := id + 1 } : State).copyEnds id s.cur.gid tok.val k n.t.pasid n.f.pc
        else { u with copies := u.copies.put id c, nextId := id + 1, copyQueue := u.copyQueue.put die ((u.copyQueue.find die).getD [] ++ [id]) }
      s1.copyCtr n ca = (.ok k, s2) →
      (∀ l, s.copyLanes (n.party s.cur.team) n.t s.cur.team (cszBytes csz) ss ds
            ((lanesOf n.f.em).map (fun i => (n.g.copyAddr ss va.val i, n.g.copyAddr ds vd.val i))) = (.ok l, s1) →
          exec (.cpy wt tok ds ss csz vd va ca) s = .next (({ s3 with
            laneCopies := s3.laneCopies.put s3.nextId
              { gid := s.cur.gid, tok := tok.val, size := cszBytes csz, lanes := l, ctr := k, pc := n.f.pc, pasid := n.t.pasid }
            nextId := s3.nextId + 1 } : State).after n m.g 8))
        ∧ (∀ l, (s.teamCopies s.cur.team).length < 32 → s.readLayout n store ss (n.g.sget (a.val + 1)) = (.ok l, s1) → a.val + l.ndim + 1 < 64 →
          let blk := (List.range l.ndim).map (fun j => n.g.sget (a.val + 2 + j))
          let ext := blk.map (fun x => x.toNat / 2 ^ 32)
          s1.boxFault n l ss (n.g.sget a.val) (n.g.sget d.val) ext = none →
          ((s2.layoutsOf s.cur.team).contains l = true ∨ (s2.layoutsOf s.cur.team).length < 4) →
          exec (.cpyt wt tok ss store d a ca) s = .next (begins
            (.tensor l store ss (n.g.sget a.val) (n.g.sget d.val) (blk.map (fun x => (x.setWidth 32).toInt)) ext) (decide (boxElems ext = 0))
            (some (.waitL, .busy (s.clock + 20)))))
        ∧ (let z := szBytes sz
          let len := (n.g.sget a.val).toNat
          let to' := if ds then (n.g.sget d.val).toNat % 2 ^ 32 else (n.g.sget d.val).toNat
          let v : BitVec 128 := (if sz = .q then n.g.sget (a.val + 2) else 0) ++ n.g.sget (a.val + 1)
          s1 = s → (s.teamCopies s.cur.team).length < 32 → (if sz = .q then a.val + 2 else a.val + 1) < 64 → len % z = 0 → len ≤ 2 ^ 40 → to' % z = 0 →
          (ds = true → s.scrRange n.t s.cur.team to' len 64 = none) →
          exec (.cpyf wt tok ds sz d a ca) s = .next (begins (.fill ds (n.g.sget d.val) len z v) (decide (len = 0)) none)))
    ∧ (∀ (s : State) (n : Now), s.permits .cores n → n.fits 8 → ∀ (wt : Wait) (la : La) (tok : Tok) (d : SReg), n.idle wt →
      let mine (c : Copy) : Prop := c.own = .group s.cur.gid tok.val
      let reads (x : Nat) : Prop := exec (.cpyq wt la tok d) s = .next (s.opened n
        { regs := [.s d.val], vals := some [.s d.val (BitVec.ofNat 64 (x + n.g.tget tok.val * 2 ^ 40))], due := s.clock + 8 } la.val)
      ((∀ e ∈ s.copies.all, ¬mine e.2) → reads 0)
        ∧ (∀ e, (∀ x, (x ∈ s.copies.all ∧ mine x.2) ↔ x = e) → reads ((if e.2.stalled then 2 ^ 49 else 0) + 2 ^ 48 + e.2.prog % 2 ^ 40))
        ∧ (∃ u : State, exec (.cpyx wt tok) s = .next (u.after n n.g 8)
          ∧ (∀ id, u.copies.find id
              = (s.copies.find id).map (fun c => if c.own = .group s.cur.gid tok.val ∧ c.adding = false then { c with cancel := true } else c))
          ∧ (∀ id, u.laneCopies.find id
              = (s.laneCopies.find id).map (fun c => if c.gid = s.cur.gid ∧ c.tok = tok.val ∧ c.adding = false then { c with cancel := true } else c))
          ∧ { u with copies := s.copies, laneCopies := s.laneCopies } = s))

/-- The engine words (R310, R317, R324 to R328): with the operands checked and a place in the engine's queue, the operation joins it at its end and the
fragment goes on; MBQ and MBQS tag their quarter, MBQS and MMA raise their token, an MMA keeps the form that its quarters have now, MLOADA takes its
words at issue and waits 64 ck in WAIT-L, and MDRAIN opens a pending result for the lanes active now. BATON and BPASS (R312, R314): the holder goes
on; another group joins its core's queue once and waits in WAIT-B. A pass to a group of the team gives it the baton at once; a pass to the queue gives
it to the head where that is of the team, leaves it for the head where it is of another team, and frees it where the queue is empty. While the team's
saved holding is not granted again its words wait in WAIT-B. -/
def Obligations.EngineWords : Prop :=
  (∀ (s : State) (n : Now), s.permits .matrix n → n.fits 8 → n.t.savedBaton = none →
      ∀ (wt : Wait) (la : La) (tok : Tok) (c : Bool) (q : Fin 4) (va vd : VReg) (a b : SReg) (rep : BitVec 8) (fs : Bool) (d : Tile) (cnt : Fin 16)
        (rg nrg : Fin 8) (dt : DrainTy) (ty : AccTy) (rm : Rm) (bl : Bl), n.idle wt →
      let k := n.t.core
      let x := (n.g.sget a.val).toNat % 2 ^ 32
      let mine := (s.core k).holder.map teamOf = some s.cur.team
      let held := (s.core k).holder = some s.cur.gid
      let up : Now := { n with g := n.g.tset tok.val (n.g.tget tok.val + 1) }
      let comp := (((s.core k).latches.find 0).map (·.comp)).getD false
      let joins (i : Instr) (s' : State) (op : EngOp) (m : Now) (wait : Option (FragSt × WaitFor)) (tag : State → Prop) : Prop :=
        ∃ (u : State) (id : Nat), exec i s = .next (u.goes m wait)
          ∧ (u.core k).engine = (s.core k).engine ++ [{ op := op, who := s.cur, pc := n.f.pc, id := id }] ∧ u.teams = s.teams ∧ u.mem = s'.mem ∧ tag u
      let any (_ : State) : Prop := True
      let tagged (u : State) : Prop := ∃ y, (u.core k).latches.find q.val = some y ∧ y.valid = true ∧ y.team = s.cur.team ∧ y.comp = c
      let opens (p : Pend) : Now := n.opens s.cur.slot s.nextId la.val p
      (s.engineShut n = true → mine → exec (.mbq wt c q va) s = .next (s.putFrag s.cur { n.f with st := .waitL, why := .engineQueue, ready := none }))
        ∧ (s.engineShut n = false →
        (mine → joins (.mbq wt c q va) s (.mbq q.val c ((List.range (quarterBytes c)).foldl (fun (m : Cells Byte) o =>
          Cells.set 0 m o ((n.g.vget (va.val + o / 128) (o / 4 % 32)).extractLsb' (8 * (o % 4)) 8)) [])) n none tagged)
        ∧ (mine → x < 2 ^ 30 → x % 128 = 0 → s.scrRange n.t s.cur.team x (quarterBytes c) 64 = none → n.g.tget tok.val < 255 →
          joins (.mbqs wt tok c q a) s (.mbqs q.val c x tok.val) up none tagged)
        ∧ (held → d.val < n.t.ntiles → ∀ f s1, s.readFmt n fs (n.g.sget b.val) = (.ok f, s1) →
          s1.mmaFault n s.cur.team f x rep.toNat comp = none → (s.core k).quarterFault s.cur.team = none → n.g.tget tok.val < 255 →
          joins (.mma wt tok rep fs d a b) s1 (.mma f d.val x comp rep.toNat 0 tok.val) up none any)
        ∧ (held → d.val + cnt.val < n.t.ntiles → joins (.mzero wt d cnt) s (.mzero d.val (cnt.val + 1)) n none any)
        ∧ (held → d.val < n.t.ntiles → s.engRange n s.cur.team x 256 16384 = none →
          joins (.mloada wt d a) s (.mloada d.val ((List.range 4096).foldl (fun (m : Cells Lane) i =>
            Cells.set 0 m i (s.scrLane s.cur.team x i)) [])) n (some (.waitL, .busy (s.clock + 64))) any)
        ∧ (held → d.val < n.t.ntiles → joins (.mdrain wt la (.reg vd) d rg nrg dt ty rm bl) s
            (.mdrain d.val rg.val (nrg.val + 1) dt ty rm bl none vd.val s.nextId n.f.em)
            (opens { regs := (List.range (drainRegs dt (nrg.val + 1))).map (fun i => .v (vd.val + i)) }) none any)
        ∧ (held → d.val < n.t.ntiles → s.engRange n s.cur.team x 64 (8 * (nrg.val + 1) * drainRow dt) = none →
          (dt = .np8 → s.scrRange n.t s.cur.team (x + 4096) (8 * (8 * (nrg.val + 1))) 64 = none) →
          joins (.mdrain wt la (.scr a) d rg nrg dt ty rm bl) s (.mdrain d.val rg.val (nrg.val + 1) dt ty rm bl (some x) 0 s.nextId n.f.em)
            (opens { regs := [], drain := true }) none any)))
    ∧ (∀ (s : State) (n : Now), s.permits .matrix n → n.fits 8 → ∀ (wt : Wait) (r : SReg), n.idle wt →
      let c := s.core n.t.core
      let x := (n.g.sget r.val).toNat
      (n.t.savedBaton ≠ none → ∀ a, exec (.baton wt) s = .next (s.putFrag s.cur { n.f with st := .waitB, why := .heldBaton, ready := none })
          ∧ exec (.bpass wt a) s = exec (.baton wt) s)
        ∧ (n.t.savedBaton = none →
          (c.holder = some s.cur.gid → exec (.baton wt) s = .next (s.after n n.g 8))
          ∧ (c.holder ≠ some s.cur.gid → exec (.baton wt) s = .next
              ((s.putCore n.t.core { c with batonQ := if s.cur.gid ∈ c.batonQ then c.batonQ else c.batonQ ++ [s.cur.gid] }).goes n
                (some (.waitB, .baton))))
          ∧ (c.holder ≠ some s.cur.gid → ∀ a, exec (.bpass wt a) s = .next (s.trapNow n { code := 0x0DA }))
          ∧ (c.holder = some s.cur.gid → x < 16 → x < n.t.groups → x ∉ n.t.ended → x ≠ s.cur.grp →
              Completes (.bpass wt (some r)) s (fun u => (u.core n.t.core).holder = some (16 * s.cur.team + x)
                ∧ (u.core n.t.core).batonQ = c.batonQ.filter (· ≠ 16 * s.cur.team + x) ∧ (∀ k, u.groups.find k = s.groups.find k) ∧ u.mem = s.mem))
          ∧ (c.holder = some s.cur.gid → Completes (.bpass wt none) s (fun u => (∀ k, u.groups.find k = s.groups.find k) ∧ u.mem = s.mem ∧
              match c.batonQ with
              | [] => (u.core n.t.core).holder = none ∧ (u.core n.t.core).grantTo = none
              | q :: _ => if q / 16 = s.cur.team then (u.core n.t.core).holder = some q
                  else (u.core n.t.core).holder = none ∧ (u.core n.t.core).grantTo = some q))))

/-- MSTAT and MCMPR (R329, R332): the status word of the engine, with the sticky bits cleared where asked; and a quarter compressed to 2560 bytes of
scratch, where no element is a NaN and no scale is 255. -/
def Obligations.EngineStatusAndCompression : Prop :=
  ∀ (s : State) (n : Now), s.permits .matrix n → n.fits 8 → n.t.savedBaton = none →
    ∀ (wt : Wait) (la : La) (tok : Tok) (clr : Bool) (fmt : MFmt) (bl : Bl) (d a b : SReg), n.idle wt →
    let e := n.t.savedOps ++ (s.core n.t.core).engine
    let flag (b : Bool) (i : Nat) : Nat := if b then 2 ^ i else 0
    let src := (n.g.sget a.val).toNat % 2 ^ 32
    let dst := (n.g.sget d.val).toNat % 2 ^ 32
    let sc := (n.g.sget b.val).toNat % 2 ^ 32
    let len := match bl with | .b16 => 16 | .b32 => 32
    let code := mfmtCode fmt
    let l : Latch := { data := (List.range 4096).foldl (fun (m : Cells Byte) o => Cells.set 0 m o (Cells.get 0 n.t.scratch ((src + o) % 2 ^ 21))) [] }
    (∀ stat, (e.findSome? (fun x => match x.op with
          | .mma _ _ _ _ rep prog k => if x.who.gid = s.cur.gid ∧ k = tok.val then some (2 ^ 19 + (rep + 1) * 2 ^ 8 + prog % 256) else none
          | _ => none)).getD 0 = stat →
        let u := if clr then s.updTeam s.cur.team (fun t => { t with dsat := false, fnan := false, iovf := false }) else s
        exec (.mstat wt la tok clr d) s = .next (u.opened n
          { regs := [.s d.val], due := s.clock + 8
            vals := some [.s d.val (BitVec.ofNat 64 ((e.filter (fun x => x.who.team = s.cur.team)).length * 2 ^ 40
              + flag n.t.dsat 25 + flag n.t.fnan 24 + flag n.t.iovf 23 + stat))] } la.val))
      ∧ (src < 2 ^ 30 → src % 128 = 0 → dst < 2 ^ 30 → dst % 128 = 0 → s.scrRange n.t s.cur.team src 4096 64 = none →
        s.scrRange n.t s.cur.team dst 2560 64 = none →
        (fmt = .np8 → s.engRange n s.cur.team sc 64 512 = none ∧ ∀ i, i < 16 * (256 / len) → (n.t.scaleEntry sc len i).1 ≠ 255) →
        (fmt = .bf16 ∨ fmt = .f16 → ∀ c < 16, ∀ x ∈ quarterCol l code len c, (mHalf code x).isNan = false) →
        ∃ free : Nat → Nat → Byte,
          let out := (List.range 16).map (fun c => compressCol code (quarterCol l code len c)
            (fun k => if fmt = .np8 then (n.t.scaleEntry sc len (c * (256 / len) + k / len)).2.1 / 2 ^ (k % len / 2) % 2 else 0) (free c))
          ∃ fresh, exec (.mcmpr wt fmt bl d a b) s = .next ((({ s with fresh := fresh } : State).updTeam s.cur.team (fun t =>
            (t.scrStore (dst % 2 ^ 21) (out.flatMap (·.1))).scrStore ((dst + 2048) % 2 ^ 21) (out.flatMap (·.2)))).goes n
              (some (.waitL, .busy (s.clock + 32)))))

/-- DBW, IOLD and IOST (R449, R465): a doorbell write is on its way to the proxy behind the core's dirty bytes, and its fragment waits 16 ck in WAIT-L; a
load's request is recorded and its result pending; a memory store is posted, and a configuration write holds its fragment until it completes. What an
endpoint answers is a free value (log 13). SVCALL, MSIB, ATSINV and PRGR (R447, R453, R456, R457): a call joins its hub's queue behind the core's
dirty bytes, and its fragment goes on, or waits for room; a binding is taken away, or installed in two steps with its word issuing again between them;
an invalidation's fragment waits for its completions; a page request group that the TA holds is answered. -/
def Obligations.IoWords : Prop :=
  (∀ (s : State) (n : Now), n.fits 8 → ∀ (la : La) (cfg : Bool) (sz : Sz) (d a b : SReg) (disp : BitVec 19) (k addr : Nat) (s1 : State),
      let va : Word := n.g.sget a.val + disp.signExtend 64
      let tlp (data : Option (List Byte)) : Tlp := { sub := k, addr := addr, cfg := cfg, data := data, size := szBytes sz }
      (s.permits .cores n → s.dbwFault n (n.g.sget a.val) (n.g.sget b.val) = .ok k →
          let s1 := s.release (n.party s.cur.team) (some 6)
          exec (.dbw a b) s = .next (({ s1 with
            dws := s1.dws.put s1.nextId { binding := k, tail := (n.g.sget b.val).setWidth 32, who := s1.cur, team := s1.cur.team, lin := n.t.lin, pc := n.f.pc }
            nextId := s1.nextId + 1 } : State).goes n (some (.waitL, .busy (s1.clock + 16)))))
        ∧ (s.permits .systemIo n → s.ioAddr n cfg false va.toNat (szBytes sz) = (.ok (k, addr), s1) →
          ∃ (u : State) (vals : Option (List RegVal)) (bad : Option Fail), exec (.iold la cfg sz d a disp) s = .next (u.opened n
              { regs := [.s d.val], vals := vals, bad := bad } la.val)
            ∧ (∃ r, u.reqs.find u.nextId = some r ∧ r.sub = k ∧ r.addr = addr ∧ r.va = va ∧ r.kind = .iold s1.cur.gid s1.cur.slot u.nextId d.val (szBytes sz) cfg)
            ∧ (∀ l, vals = some l → ∃ x : Word, l = [.s d.val x] ∧ x.toNat < 2 ^ (8 * szBytes sz))
            ∧ ((s1.sub k).ide = false → u.sent = s1.sent ++ [tlp none]))
        ∧ (s.permits .systemIo n → s.ioAddr n cfg true va.toNat (szBytes sz) = (.ok (k, addr), s1) →
          let u := s1.send (tlp (some (leBytes (szBytes sz) (n.g.sget b.val).toNat)))
          (cfg = false → exec (.iost cfg sz a b disp) s = .next (u.after n n.g 8))
            ∧ (cfg = true → ∃ r : Req, r.kind = .cfgWrite u.cur.gid u.cur.slot ∧ r.sub = k ∧ r.addr = addr
              ∧ exec (.iost cfg sz a b disp) s = .next
                  (({ u with reqs := u.reqs.put u.nextId r, nextId := u.nextId + 1 } : State).goes n (some (.waitL, .answer))))))
    ∧ (∀ (s : State) (n : Now), n.fits 8 → ∀ (a : SReg) (num : Fin 64) (mode : MsiMode) (all : Bool) (rc : PrgCode),
      let x := n.g.sget a.val
      let x1 := n.g.sget (a.val + 1)
      let x2 := n.g.sget (a.val + 2)
      let x3 := n.g.sget (a.val + 3)
      let h := x.toNat / 65536 % 2
      let k := x.toNat % 65536
      let fn := x.toNat % 2 ^ 23
      let prg := x.toNat / 2 ^ 32 % 2 ^ 9
      (∀ c cv s1, s.permits .cores n → num.val < 48 → s.callBlock n x = (.ok (c, cv), s1) →
          let s2 := s1.release (n.party s.cur.team) (some 6)
          let hub := s2.callHub n.t
          let room := s2.queuedCalls hub < 4096 ∧ ∀ e ∈ s2.calls.all, e.2.hub = hub → e.2.who = none
          let call (who : Option Cur) : State := { s2 with
            calls := s2.calls.put s2.nextId { num := num.val, hub := hub, block := x, ctr := c, ctrVa := cv, pasid := n.t.pasid, team := s2.cur.team, lin := n.t.lin,
                                              since := s2.clock, who := who, pc := n.f.pc }
            nextId := s2.nextId + 1 }
          (room → exec (.svcall a num) s = .next ((call none).after n n.g 8))
            ∧ (¬room → exec (.svcall a num) s = .next ((call (some s2.cur)).goes n (some (.waitL, .service)))))
        ∧ (s.permits .system n → x.toNat < 2 ^ 17 → mode = .off → exec (.msib mode a) s = .next ((s.msiOff h k).after n n.g 8))
        ∧ (∀ ctr s1, s.permits .system n → x.toNat < 2 ^ 17 → mode ≠ .off → a.val + 2 < 64 → x2.toNat < 2 ^ 20 → s.bindCounter h x2.toNat x1 = (.ok ctr, s1) →
          let b : MsiBind := { pasid := x2.toNat, ctr := ctr, va := x1, data := mode = .data, installing := true }
          let old := (s1.hub h).msi.find k
          let put (v : Bool) : Out := .next ((s1.msiPut h k { b with valid := v }).putFrag s.cur
            { n.f with st := .waitL, why := .busy (s.clock + 1), ready := none })
          (∀ o, old = some o → o.valid = true → o.pasid ≠ x2.toNat → exec (.msib mode a) s = .next (s1.trapNow n { code := 0x12C }))
            ∧ (∀ o, old = some o → o = { b with valid := o.valid } → exec (.msib mode a) s = .next ((s1.msiInstalled h k b).after n n.g 8))
            ∧ (∀ o, old = some o → (o.valid = true → o.pasid = x2.toNat) → o ≠ { b with valid := o.valid } → exec (.msib mode a) s = put o.valid)
            ∧ (old = none → exec (.msib mode a) s = put false))
        ∧ (s.permits .system n → x.toNat < 2 ^ 23 → (∃ f, s.funcs.find x.toNat = some f ∧ f.ats = true) →
          (all = false → a.val + 3 < 64 ∧ x1.toNat / 2 ^ 20 % 2 ^ 43 = 0 ∧ x2.toNat % 0x10000 = 0 ∧ 1 ≤ x3.toNat ∧ x3.toNat ≤ 2 ^ 24) →
          let u := s.sendInval x.toNat (.atsInv (some s.cur) x.toNat none) s.cur.team n.f.pc x2 (x1.toNat % 2 ^ 20) x3.toNat all (decide (2 ^ 63 ≤ x1.toNat))
          exec (.atsinv all a) s = .next (u.goes n (some (.waitL, .answer))))
        ∧ (∀ f c, s.permits .system n → a.val + 1 < 64 → x.toNat / 2 ^ 23 % 2 ^ 9 = 0 → x.toNat < 2 ^ 41 → s.funcs.find fn = some f →
          x1.getLsbD 20 = true → f.groups.find? (fun e => e.1 = x1.toNat % 2 ^ 20 && e.2.1 = prg) = some (x1.toNat % 2 ^ 20, prg, c) →
          ∃ u : State, exec (.prgr rc a) s = .next (u.after n n.g 8) ∧ ∃ f', u.funcs.find fn = some f'
            ∧ f'.groups = f.groups.filter (fun e => !(e.1 = x1.toNat % 2 ^ 20 && e.2.1 = prg)) ∧ f'.pageReqs = f.pageReqs - c
            ∧ (rc = .fail → f'.pri = false ∧ f'.state = 4) ∧ (rc ≠ .fail → f' = { f with groups := f'.groups, pageReqs := f'.pageReqs })
            ∧ ((s.sub (fnSub fn)).ide = false → ∃ t, u.sent = s.sent ++ [t])))

/-- SRD, SWR and their two writes of their own rows (R64, R85, R385, R428, R433): SRD opens a pending result of the register, SRD LANEID of the lane
numbers; SRD FPFLAGS closes the windows on the fragment's pending floating-point results and waits for those that are not written; SWR writes the
register; STAGEQ takes each field clamped to 64. A number that takes no write traps 0x02D. -/
def Obligations.SpecialRegisters : Prop :=
  ∀ (s : State) (n : Now), s.permits .any n → n.fits 8 → ∀ (la : La) (num : BitVec 12) (d : Fin 128) (a : SReg),
    let x := n.g.sget a.val
    let reads (s : State) (n : Now) (num : BitVec 12) (regs : List PendReg) (vals : List RegVal) : Prop :=
      exec (.srd la num d) s = .next (s.opened n { regs := regs, vals := some vals, due := s.clock + 2 } la.val)
    (barredReg n num.toNat = false → num ≠ 0x010 → (num = 0 → n.t.kind = .prologue ∧ d.val < 64) →
        reads s n num [.s d.val] [.s d.val (s.specialReg n num.toNat)])
      ∧ (let u := s.closeFloats s.cur
        (∀ m, (∀ k ∈ n.floats, n.g.resultIn k = true) → u.now = some m → exec (.srd la 0x010 d) s = .next (u.opened m
            { regs := [.s d.val], vals := some [.s d.val (m.g.fpflags.setWidth 64)], due := s.clock + 2 } la.val))
          ∧ ((∃ k ∈ n.floats, n.g.resultIn k = false) → exec (.srd la 0x010 d) s = .next (u.putFrag s.cur { n.f.closes n.floats with
              st := .waitL, why := .results (n.floats.filter (fun k => !n.g.resultIn k)), ready := none })))
      ∧ (num = 0 → n.t.kind = .prologue → 64 ≤ d.val → exec (.srd la num d) s = .next (s.after n n.g 8))
      ∧ (num = 0 → n.t.kind ≠ .prologue → reads s n num [.v d.val] ((lanesOf n.f.em).map (fun i => .v d.val i (BitVec.ofNat 32 i))))
      ∧ s.specialReg n 0x009 = BitVec.ofNat 64 s.clock
      ∧ (n.t.kind ≠ .prologue → s.specialReg n 0x001 = BitVec.ofNat 64 s.cur.grp ∧ s.specialReg n 0x003 = BitVec.ofNat 64 (n.t.lin % 2 ^ 31)
        ∧ s.specialReg n 0x008 = BitVec.ofNat 64 (n.t.pasid % 2 ^ 20))
      ∧ (n.t.kind = .compute → 0x020 ≤ num.toNat → num.toNat ≤ 0x0FF → s.specialReg n num.toNat = 0)
      ∧ (n.t.kind = .system → sysWritable num.toNat = true →
        exec (.swr num a) s = .next ((s.putHub (hubOfCore n.t.core) ((s.hub (hubOfCore n.t.core)).writeReg num.toNat x)).after n (n.g.writeReg num.toNat x) 8))
      ∧ (n.t.kind = .system → sysWritable num.toNat = false → exec (.swr num a) s = .next (s.trapNow n { code := 0x02D }))
      ∧ exec (.fpflagsWrite a) s = .next (s.after n { n.g with fpflags := x.setWidth 5 } 8)
      ∧ (n.t.kind = .system → ∃ q : Word, exec (.stageqWrite a) s = .next (({ s with stageq := q } : State).after n n.g 8)
        ∧ ∀ k, k < 8 → q.toNat / 2 ^ (8 * k) % 256 = min 64 (x.toNat / 2 ^ (8 * k) % 256))

/-- ERET, TLBI, PGHARV and CSCOPE (R359, R360, R425, R429): with V set the group goes on at TRAPPC with the lanes of TRAPEM and V clear; the translations
named leave every cache, and the fragment goes on when the lane copies and memory counter operations under way, which may have used them, are
performed (the model's choice of log 122); the harvest's count; a scope entry is set. PARK, HALT and BMODE (R184, R185, R279, R430 to R432): PARK
waits as CWAIT does; HALT leaves the active set until its deadline, and does nothing at one that has passed; BMODE's fragment waits in WAIT-L behind
the team's earlier switches: its own begins once nothing of the team is outstanding on its banks, at once where that is so, and the bank leaves its
mode; 512 ck later it has its new one and the fragment goes on. -/
def Obligations.SystemWords : Prop :=
  (∀ (s : State) (n : Now), s.permits .system n → n.fits 8 → ∀ (kind : TlbiKind) (g clr : Bool) (d a : SReg) (e : Fin 32),
      let x := n.g.sget a.val
      let y := (n.g.sget (a.val + 1)).toNat
      let z := (n.g.sget (a.val + 2)).toNat
      let w := (n.g.sget (a.val + 3)).toNat
      let cnt := if kind = .range then z else 1
      let keep := tlbiKeeps kind g (x.toNat % 2 ^ 20) (y / pageBytes) cnt
      let ops := (s.ops.all.filter (fun e => match e.2.ctr with | .mem _ => true | _ => false)).map (·.1)
      let retries : State := s.putFrag s.cur { n.f with st := .waitL, why := .busy (s.clock + 1), ready := none }
      (∀ s', n.g.trap.v = true → s.reaches n n.g.trap.pc s' →
          exec .eret s = .next (s'.holding { n.g with trap := { n.g.trap with v := false } }
            { n.f with pc := n.g.trap.pc, em := n.g.trap.em &&& n.f.em, ready := some (s'.clock + 2) }))
        ∧ (n.g.trap.v = false → exec .eret s = .next (s.trapNow n { code := 0x02F }))
        ∧ (a.val + (match kind with | .range => 2 | .va => 1 | _ => 0) < 64 → (kind = .va ∨ kind = .range → y % 0x10000 = 0 ∧ 1 ≤ cnt ∧ cnt ≤ 2 ^ 24) →
          (s.torn ≠ [] → exec (.tlbi kind g a) s = .next retries)
          ∧ (s.torn = [] → ∃ u : State, u.mem = s.mem
            ∧ (∀ k, (u.core k).tlb = (s.core k).tlb.filter keep)
            ∧ (∀ k, (u.fieldTlb.find k) = (s.fieldTlb.find k).map (·.filter keep) ∧ (u.tte.find k) = (s.tte.find k).map (·.filter keep)
              ∧ (u.ta.find k) = (s.ta.find k).map (·.filter keep))
            ∧ exec (.tlbi kind g a) s = .next (u.goes n
                (if s.laneCopies = [] ∧ ops = [] then none else some (.waitL, .accesses s.laneCopies.keys ops)))))
        ∧ (a.val + 3 < 64 → y % 0x10000 = 0 → y < 2 ^ 56 → 1 ≤ z → z ≤ 2 ^ 24 → w % 8 = 0 →
          (s.migrating (x.toNat % 2 ^ 20) y z = true → exec (.pgharv clr d a) s = .next retries)
          ∧ (∀ c s', s.migrating (x.toNat % 2 ^ 20) y z = false →
            s.harvest (n.party s.cur.team) (hubOfCore n.t.core) (x.toNat % 2 ^ 20) y w clr z 0 0 (z / 8 + 1) = (.ok c, s') →
            exec (.pgharv clr d a) s = .next (s'.after n (n.g.sset d.val (BitVec.ofNat 64 c)) 8)))
        ∧ (∀ l s', 8 ≤ e.val → a.val + 1 < 64 → s.readWords (n.party s.cur.team) y 24 = (.ok l, s') →
          exec (.cscope a e) s = .next ((s'.setScope (x.toNat % 2 ^ 20) e.val l).after n n.g 8)))
    ∧ (∀ (s : State) (n : Now), s.permits .cores n → n.fits 8 → ∀ (a b : SReg) (acq : Option Scope) (tr : BankTr) (q : RingN),
      let dl := (n.g.sget a.val).toNat
      let w : Switch := { who := s.cur, pc := n.f.pc, tr := tr, q := q.val }
      let u := s.goes n (some (.waitL, .answer))
      (∀ k s1, (n.t.kind = .system ∨ s.holdsBaton s.cur.team = false ∧ s.waitsBaton s.cur.team = false) →
          s.ctrOperand n s.cur.team .wait (n.g.sget a.val) = (.ok k, s1) →
          exec (.park a b acq) s = .next ((s1.emit (opOf s n k (.wait (n.g.sget b.val)) (n.g.sget a.val) acq)).goes n
            (some (.waitC, if n.t.kind = .system then .answer else .park))))
        ∧ (n.t.kind = .system → dl ≤ s.clock → exec (.halt a) s = .next (s.after n n.g 8))
        ∧ (n.t.kind = .system → s.clock < dl → exec (.halt a) s = .next (s.holding n.g
            { n.f with pc := n.f.pc + 8, st := .waitL, why := .deadline dl s.clock, ready := none, active := none }))
        ∧ (n.t.kind = .compute → n.t.switches = [] → n.t.switchFault tr q.val = none →
          if s.bankBusy s.cur.team then exec (.bmode tr q) s = .next (u.putTeam s.cur.team { n.t with switches := [w] })
          else
            let (x, c) := switchBegins { n.t with switches := [w] } s.cur.team (s.core n.t.core) tr q.val
            exec (.bmode tr q) s = .next ((u.putTeam s.cur.team { x with switches := [{ w with begun := some s.clock }] }).putCore n.t.core c))
        ∧ (∀ code, n.t.kind = .compute → n.t.switches = [] → n.t.switchFault tr q.val = some code →
          exec (.bmode tr q) s = .next (s.trapNow n { code := code }))
        ∧ (n.t.kind = .system → exec (.bmode tr q) s = .next (s.trapNow n { code := 0x067 }))
        ∧ (∀ (w : Switch) (rest : List Switch) ck, n.t.switches = w :: rest → w.begun = some ck → ck + 512 ≤ s.clock →
          let t := s.bankStep s.cur.team
          (∃ x, t.teams.find s.cur.team = some x ∧ x.switches = rest ∧ x.bs = n.t.bs + (if w.tr = .scratch then 1 else 0))
            ∧ ∀ f, s.frags.find w.who.fid = some f → t.frags.find w.who.fid = some { f with
                st := if f.active.isSome then .active else .pending, why := .none, ready := some (s.clock + 1) }))

/-- Taking packets (R363, R365 to R368, R375): the FE asks once for TAIL to reach NEXT + 1; with it reached, a valid directory entry and QCB and a packet
that can be read, it takes the packet at NEXT, a LAUNCH with its descriptor. A malformed word 0 sets HALT and FCAUSE to 0x0B6. A queue that stopped
rereads its entry and QCB, and asks for TAIL afresh. The packets that the FE performs itself (R369, R370): CADD, CWAIT, WRITE, WRSIG, COPY and MARKER,
with their operands checked, have their effect; each retires at once but CWAIT, which waits, and a COPY of some bytes, which retires when an engine
takes it. -/
def Obligations.Packets : Prop :=
  (∀ (s : State) (k : Nat) (q : Queue), s.queues.find k = some q →
      let may := q.step = .idle ∧ q.detach = false ∧ q.suspended = false ∧ q.halted = false ∧ q.stopped = false ∧ s.serves q = true
      let w := s.memWord q.qcb
      (∀ c s1, may → q.reached = false → q.tailWait = false → s.hubOperand q.hub q.pasid .wait q.tail = (.ok c, s1) →
          Completes (.packetTake k) s (fun u => (∃ q', u.queues.find k = some q' ∧ q'.tailWait = true ∧ q'.next = q.next)
            ∧ ∃ id o, u.ops.find id = some o ∧ o.ctr = c ∧ o.act = .wait (BitVec.ofNat 64 (q.next + 1)) ∧ o.who = .tail k ∧ o.scope = some 6))
        ∧ (∀ l s2, may → q.reached = true → dirBad (s.dirEntry q.hub q.pasid) = false → qcbBad w = false → w.getLsbD 3 = false →
          (s.updQueue k (fun q => { q with prio := w.toNat / 2 ^ 16 % 8 })).feRead q.hub q.pasid (q.slot q.next).toNat 8 = (.ok l, s2) → packetBad l = false →
          let p := packetOf q.next l
          let takes (p : Packet) : Prop := Completes (.packetTake k) s (fun u => ∃ q', u.queues.find k = some q' ∧ q'.pkt = some p ∧ q'.step = .taken
            ∧ q'.next = q.next ∧ q'.prio = w.toNat / 2 ^ 16 % 8)
          (p.type ≠ 1 → takes p) ∧ (∀ d s3, p.type = 1 → s2.readDesc q (p.fld 0) = (.ok d, s3) → takes { p with desc := some d }))
        ∧ (may → q.reached = true → dirBad (s.dirEntry q.hub q.pasid) = false → qcbBad w = true →
          Completes (.packetTake k) s (fun u => ∃ q', u.queues.find k = some q' ∧ q'.halted = true ∧ q'.fcause = 0x0B6 ∧ q'.next = q.next ∧ q'.pkt = q.pkt))
        ∧ (q.halted = true ∨ q.stopped = true → Completes (.qcbReread k) s (fun u => ∃ q', u.queues.find k = some q'
            ∧ q'.stopped = dirBad (s.dirEntry q.hub q.pasid) ∧ q'.halted = (qcbBad w || w.getLsbD 3) ∧ q'.reached = false ∧ q'.next = q.next
            ∧ (qcbBad w = true → q.malformed = false → q'.fcause = 0x0B6))))
    ∧ (∀ (s s1 : State) (k : Nat) (q : Queue) (p : Packet) (c : Ctr),
      let starts (type : Nat) := s.started k type = some (q, p)
      let who : Party := { place := .hub q.hub, pasid := q.pasid }
      let d := doneOf (p.fld 3) (p.fld 4).toNat p.scope
      (starts 3 → s.hubOperand q.hub q.pasid (.add false) (p.fld 0) = (.ok c, s1) → (p.ord = true → s1.settled = true) →
          Completes (.caddPacket k) s (fun u => u = ((s1.feAdd q c (p.fld 0) (p.fld 1).toNat p.scope).depDev k).retire k false ∧ u.retired k q false))
        ∧ (starts 4 → s.hubOperand q.hub q.pasid .wait (p.fld 0) = (.ok c, s1) →
          Completes (.cwaitPacket k) s (fun u => (∃ q', u.queues.find k = some q' ∧ q'.step = .waiting ∧ q'.next = q.next)
            ∧ ∃ id o, u.ops.find id = some o ∧ o.ctr = c ∧ o.act = .wait (p.fld 1) ∧ o.who = .packet k ∧ o.scope = p.scope))
        ∧ (∀ l, starts 5 → s.checkAccess who .store (p.fld 0).toNat 8 = (.ok l, s1) →
          Completes (.write k) s (fun u => u = ((s1.writePieces who l (leBytes 8 (p.fld 1).toNat)).depDev k).retire k false ∧ u.retired k q false))
        ∧ (∀ l s2, starts 6 → s.checkAccess who .store (p.fld 0).toNat 8 = (.ok l, s1) → s1.hubOperand q.hub q.pasid (.add false) (p.fld 2) = (.ok c, s2) →
          s2.settled = true →
          Completes (.wrsig k) s (fun u => u = (((s2.writePieces who l (leBytes 8 (p.fld 1).toNat)).feAdd q c (p.fld 2) (p.fld 3).toNat
            (some (hubScope p.sc))).depDev k).retire k false ∧ u.retired k q false))
        ∧ (starts 2 → s.checkDone q d = (none, s1) → p.fld 2 = 0 →
          Completes (.copyPacket k) s (fun u => u = ((s1.makeDone k d).depDev k).retire k false ∧ u.retired k q false))
        ∧ (starts 2 → s.checkDone q d = (none, s1) → p.fld 2 ≠ 0 →
          Completes (.copyPacket k) s (fun u => ∃ id x q', u.copies.find id = some x ∧ x.kind = .linear (p.fld 0) (p.fld 1) (p.fld 2).toNat
            ∧ x.own = .packet k p.idx d ∧ x.running = false ∧ (u.copyQueue.find (4 * q.hub)).getD [] = (s1.copyQueue.find (4 * q.hub)).getD [] ++ [id]
            ∧ u.queues.find k = some q' ∧ q'.step = .copying id ∧ q'.next = q.next))
        ∧ (starts 8 → Completes (.marker k) s (fun u => u.retired k q false ∧ ∃ q', u.queues.find k = some q' ∧ q'.mark = p.fld 0)))

/-- LAUNCH and GRAPH packets (R369, R371, R375, R400, R402): a launch, with the descriptor read when its packet was taken, starts at its prologue or at
admission; a graph whose nodes read well runs with every node of no predecessor started, and its packet retires. -/
def Obligations.LaunchAndGraphPackets : Prop :=
  ∀ (s s1 s2 : State) (k : Nat) (q : Queue) (p : Packet),
    let d (i : Nat) := doneOf (p.fld i) (p.fld (i + 1)).toNat p.scope
    (∀ desc, s.started k 1 = some (q, p) → p.desc = some desc → s.checkDone q (d 3) = (none, s1) →
        Completes (.launch k) s (fun u => ∃ id l q', u.launches.find id = some l ∧ l.desc = desc ∧ l.grid = p.fld 1 ∧ l.args = p.fld 2 ∧ l.own = .packet k p.idx
          ∧ l.done = d 3 ∧ l.step = (if desc.plen = 0 then .admission else .prologue) ∧ u.queues.find k = some q' ∧ q'.launch = some id ∧ q'.next = q.next))
      ∧ (∀ l s3 nodes, s.queues.find k = some q → q.pkt = some p → p.type = 7 → q.step = .taken ∨ q.step = .room → (p.bar = true → q.live = []) →
        q.suspended = false → s.serves q = true → s.checkDone q (d 2) = (none, s1) → (s.graphLoad q.hub).1 < 64 → (p.fld 0).toNat % 64 = 0 →
        s1.feRead q.hub q.pasid (p.fld 0).toNat 8 = (.ok l, s2) →
        let h := (l.headD 0).toNat
        let nn := h / 2 ^ 16 % 2 ^ 11
        h / 2 ^ 27 = 0 → 1 ≤ nn → nn ≤ 1024 → h % 2 ^ 16 = 1 → (∀ x ∈ l.tail, x = 0) → (s.graphLoad q.hub).2 + nn ≤ 4096 →
        s2.loadNodes q (p.fld 0).toNat nn 0 nn = (.ok nodes, s3) →
        Completes (.graph k) s (fun u => u.retired k q true ∧ ∃ g x, u.graphs.find g = some x ∧ x.va = p.fld 0 ∧ x.arg = p.fld 1 ∧ x.queue = k ∧ x.idx = p.idx
          ∧ x.done = d 2 ∧ x.ended = false ∧ x.fault = none
          ∧ ∀ j, x.nodes.find j = (nodes.find j).map (fun n => if n.npred = 0 then { n with running := true, due := true } else n)))

/-- The nodes of a graph (R399, R403, R406), each with its arguments read: a KERNEL node starts a launch, a COPY node a copy, CADD sends its add, at whose
end it ends, CWAIT waits, and asks afresh for a wait that a suspension withdrew; COND, SWITCH and LOOP choose a successor, END stops the graph. A node
that reads its fields one by one keeps what it has read (R404; that it may is the model's, log 129). Arrivals (R402, R405): an arrival below the limit
at an idle node with fewer arrivals than its threshold is counted, and starts the node when it makes up the threshold; after END or a fault none
starts. The 256th is a graph fault 0x0B5. The ends of graphs (R405, R411, R414): with no node running the graph is gone, its completion add made
unless it faulted, and its packet has ended; a detached queue goes with its last packet (R365). With no start or end for the watchdog limit the graph
takes the fault 0x0BA. -/
def Obligations.Graphs : Prop :=
  (∀ (s s1 s2 : State) (g j : Nat) (x : Machine.Graph) (q : Queue) (n : GNode) (l : List Word) (c : Ctr) (v : Nat),
      let f (i : Nat) : Word := l.getD (i - 1) 0
      let zero (a : Nat) : Prop := ∀ i, a ≤ i → i ≤ 7 → f i = 0
      let due (kind : Nat) : Prop := s.nodeDue g j kind = some (x, q, n) ∧ s.nodeArgs x q j n = (.ok l, s1) ∧ l.length = 7
      let part (kind : Nat) : Prop := s.nodeDue g j kind = some (x, q, n) ∧ s.nodeArgs x q j n = (.ok l, s1) ∧ l.length < 7
      let kept := s1.updGraph g (fun y => { y with nodes := y.nodes.upd j (fun n => { n with args := l }) })
      let d := doneOf (f 4) (f 5).toNat n.scope
      let setIt (s : State) (i : Nat) : State := s.updGraph g (fun y => { y with nodes := y.nodes.upd j (fun n => { n with it := i }) })
      (∀ desc s3, due 1 → (f 1).toNat % 128 = 0 → (f 2).getLsbD 63 = false → (f 5).toNat < 2 ^ 32 → zero 6 → s1.checkDone q d = (none, s2) →
          s2.readDesc q (f 1) = (.ok desc, s3) →
          Completes (.kernelNode g j) s (fun u => ∃ id y, u.launches.find id = some y ∧ y.desc = desc ∧ y.grid = f 2 ∧ y.args = (if f 3 = 0 then x.arg else f 3)
            ∧ y.own = .node g j ∧ y.done = d))
        ∧ (due 2 → (f 3).toNat ≤ 2 ^ 40 → (f 5).toNat < 2 ^ 32 → zero 6 → s1.checkDone q d = (none, s2) →
          exec (.copyNode g j) s = .next (if f 3 = 0 then (s2.makeDone x.queue d).nodeEnd g j n.succs
            else (s2.madeDue g j).feCopy q (.node g j d) (f 1) (f 2) (f 3).toNat))
        ∧ (due 3 → (f 2).toNat < 2 ^ 32 → zero 3 → s1.hubOperand q.hub q.pasid (.add false) (f 1) = (.ok c, s2) →
          exec (.caddNode g j) s = .next ((s2.emit { ctr := c, act := .add (f 2), who := .node g j, scope := n.scope, pasid := q.pasid, va := f 1 }).madeDue g j))
        ∧ (∀ o, s.nodeDue g j 4 = some (x, q, n) → n.asked = some o → exec (.cwaitNode g j) s = .next ((s.emit { o with seq := 0, retried := false }).updGraph g
          (fun y => { y with nodes := y.nodes.upd j (fun n => { n with due := false, asked := none }) })))
        ∧ (due 4 → n.asked = none → zero 3 → s1.hubOperand q.hub q.pasid .wait (f 1) = (.ok c, s2) →
          exec (.cwaitNode g j) s = .next ((s2.emit { ctr := c, act := .wait (f 2), who := .node g j, scope := n.scope, pasid := q.pasid, va := f 1 }).madeDue g j))
        ∧ (due 5 → (f 1).toNat % 4 = 0 → zero 2 → s1.feRead32 q (f 1).toNat = (.ok v, s2) →
          exec (.condNode g j) s = .next (s2.nodeEnd g j (if v ≠ 0 then n.succ0 else n.succ1)))
        ∧ (due 7 → (f 1).toNat % 4 = 0 → f 2 = 0 → f 3 = 0 → s1.feRead32 q (f 1).toNat = (.ok v, s2) →
          exec (.switchNode g j) s = .next (s2.nodeEnd g j (if v ≤ n.nsw then succOf (n.table.getD v 0xFFFF) else n.succ0)))
        ∧ (∀ go, due 6 → (f 1).toNat % 4 = 0 → 1 ≤ (f 2).toNat % 2 ^ 32 → (f 2).toNat / 2 ^ 33 = 0 → (f 3).toNat % 8 = 0 → zero 4 →
          s1.loopGo q n (f 1) (f 2) = (.ok go, s2) →
          (go = true → n.it < (f 2).toNat % 2 ^ 32 → exec (.loopNode g j) s = .next ((setIt s2 (n.it + 1)).nodeEnd g j n.succ0))
            ∧ (¬(go = true ∧ n.it < (f 2).toNat % 2 ^ 32) → f 3 = 0 → exec (.loopNode g j) s = .next ((setIt s2 0).nodeEnd g j n.succ1))
            ∧ (∀ r s3, ¬(go = true ∧ n.it < (f 2).toNat % 2 ^ 32) → f 3 ≠ 0 →
              s2.checkAccess { place := .hub q.hub, pasid := q.pasid } .store (f 3).toNat 8 = (.ok r, s3) →
              exec (.loopNode g j) s = .next ((setIt (s3.writePieces { place := .hub q.hub, pasid := q.pasid } r (leBytes 8 n.it)) 0).nodeEnd g j n.succ1)))
        ∧ (due 8 → zero 1 → exec (.endNode g j) s = .next ((s1.updGraph g (fun y => { y with ended := true })).nodeEnd g j []))
        ∧ (part 1 → exec (.kernelNode g j) s = .next kept) ∧ (part 2 → exec (.copyNode g j) s = .next kept) ∧ (part 3 → exec (.caddNode g j) s = .next kept)
        ∧ (part 4 → n.asked = none → exec (.cwaitNode g j) s = .next kept) ∧ (part 5 → exec (.condNode g j) s = .next kept)
        ∧ (part 6 → exec (.loopNode g j) s = .next kept) ∧ (part 7 → exec (.switchNode g j) s = .next kept) ∧ (part 8 → exec (.endNode g j) s = .next kept))
    ∧ (∀ (s : State) (g j : Nat) (x : Machine.Graph) (n : GNode), s.graphs.find g = some x → x.nodes.find j = some n → x.ended = false →
      (n.arr < 255 → ∃ y m, (s.arrive g j).graphs.find g = some y ∧ y.nodes.find j = some m
        ∧ (x.fault = none → n.running = false → n.thr ≤ n.arr + 1 → m.running = true ∧ m.due = true ∧ m.arr = n.arr + 1 - n.thr)
        ∧ (x.fault ≠ none ∨ n.running = true ∨ n.arr + 1 < n.thr → m = { n with arr := n.arr + 1 }))
      ∧ (n.arr = 255 → x.fault = none → ∃ y, (s.arrive g j).graphs.find g = some y ∧ y.fault = some (0x0B5, x.va + BitVec.ofNat 64 (64 + 64 * j))))
    ∧ (∀ (s : State) (g : Nat) (x : Machine.Graph), s.graphs.find g = some x →
      ((∀ e ∈ x.nodes.all, e.2.running = false) → ∃ u : State, exec (.graphEnd g) s = .next u ∧ u.graphs.find g = none
          ∧ ∀ q, s.queues.find x.queue = some q → let live := q.live.filter (· ≠ x.idx)
            (q.detached = false ∨ live ≠ [] → ∃ q', u.queues.find x.queue = some q' ∧ q'.live = live ∧ q'.next = q.next)
              ∧ (q.detached = true → live = [] → u.queues.find x.queue = none))
        ∧ (∀ q, x.fault = none → s.queues.find x.queue = some q → x.since + q.wdog * 1000 * 700 ≤ s.clock →
          Completes (.graphWatchdog g) s (fun u => (∃ y, u.graphs.find g = some y ∧ y.fault = some (0x0BA, 0))
            ∧ ∃ q', u.queues.find x.queue = some q' ∧ q'.fcause = 0x0BA ∧ q'.fpc = 0 ∧ q'.fidx = x.idx)))

/-- Prologues (R26, R378, R379): a run starts on a free engine of its FE with s1 to s3 of R378; PLAUNCH and PREPEAT send their launch to admission with
the grid and arguments they give; PCANCEL ends it without a launch; a run of 2 µs ends with 0x0B7. -/
def Obligations.Prologues : Prop :=
  ∀ (s : State) (n : Now) (id : Nat) (l : Launch) (q : Queue), s.launches.find id = some l → s.queues.find l.queue = some q →
    (l.step = .prologue → q.suspended = false → s.serves q = true → (s.coreTeams (4096 + q.hub)).length < 16 →
        Completes (.prologueRun id) s (fun u => ∃ t x gr f y, u.teams.find t = some x ∧ u.groups.find (16 * t) = some gr ∧ u.frags.find (1024 * t) = some f
          ∧ x.kind = .prologue ∧ x.launch = id ∧ x.core = 4096 + q.hub ∧ x.pasid = l.pasid ∧ f.pc = l.desc.prol ∧ f.em = 1
          ∧ gr.sget 1 = l.arg0 ∧ gr.sget 2 = BitVec.ofNat 64 l.run ∧ (∀ k i, l.own = .packet k i → gr.sget 3 = q.base + BitVec.ofNat 64 (64 * (i % 2 ^ q.lsz)))
          ∧ u.launches.find id = some y ∧ y = { l with step := .inPrologue }))
      ∧ (∀ (a : SReg) (r : BitVec 8), s.permits .prologue n → n.t.launch = id → a.val < 63 →
        let ends (again : Bool) (u : State) : Prop := u.teams.find s.cur.team = none
          ∧ u.launches.find id = some { l with step := .admission, grid := n.g.sget a.val, args := n.g.sget (a.val + 1), repeats := again, since := s.clock }
        Completes (.plaunch a) s (ends false) ∧ Completes (.prepeat a r) s (ends (l.run < r.toNat)))
      ∧ (s.permits .prologue n → n.t.launch = id → Completes .pcancel s (fun u => u.teams.find s.cur.team = none ∧ u.launches.find id = none
          ∧ ∀ k i, l.own = .packet k i → ∀ q, s.queues.find k = some q → u.retired k q false))
      ∧ (∀ t x k i, s.teams.find t = some x → x.kind = .prologue → x.launch = id → x.watch + 1400 ≤ s.clock → s.teamFrags t ≠ [] → l.own = .packet k i →
        ∀ qk, s.queues.find k = some qk → Completes (.prologueTimeout t) s (fun u => u.teams.find t = none ∧ u.launches.find id = none
          ∧ ∃ q', u.queues.find k = some q' ∧ q'.fcause = 0x0B7 ∧ q'.next = qk.next + 1))

/-- Admission, staging and dispatch (R376, R383, R386 to R389): a launch with no refusal, every page of its ranges found and its areas free is admitted
with its pages leased; the lines of the next team are charged within the quota, a line once for a launch; the next cluster's teams are placed on the
cores of a rectangle that has room, each group with one fragment of all 32 lanes at the entry, and dispatched at once where no scratch slice is to be
staged. The end of a launch (R257, R369, R379, R384, R405) with its last team: it is gone unless its prologue asked to run again, in which case it
goes back to it with the next run index; a packet's launch ends its packet, or retires it where it failed and would have run again. -/
def Obligations.Dispatching : Prop :=
  (∀ (s : State) (id : Nat) (l : Launch) (q : Queue), s.launches.find id = some l → s.queues.find l.queue = some q →
      (∀ rs s1 l' s2, l.step = .admission → q.suspended = false → s.serves q = true → s.gridRefusal l q.fields = none →
          (if l.ranges.isEmpty then s.readRanges q l.desc.wset.toNat (gridTeams l.grid) l.desc.bs l.desc.nws else (.ok l.ranges, s)) = (.ok rs, s1) →
          let l1 : Launch := { l with ranges := rs }
          let s1' : State := { s1 with launches := s1.launches.put id l1 }
          let v := s1'.leaseView q.hub q.pasid (gridTeams l.grid) rs
          v.bad = none → s1'.leaseTooBig v = false → (∀ i, i < gridTeams l.grid → 256 * (l1.lines i).length ≤ s1'.quota) → v.bring = [] → v.move = [] →
          s1'.takeAreas l1 q.fields = some (l', s2) →
          Completes (.admission id) s (fun u => ∃ y, u.launches.find id = some y ∧ y.step = .admitted ∧ y.total = gridTeams l.grid ∧ y.left = y.total
            ∧ y.nextTeam = 0 ∧ y.lease = v.pages ∧ y.ranges = rs ∧ y.spill = l'.spill ∧ y.reserve = l'.reserve ∧ y.cold = l'.cold))
        ∧ (let lin := l.lin l.staged.length
          let new := (l.lines lin).filter (fun x => !l.paid.contains x)
          l.step = .admitted → l.failed = none → q.suspended = false → lin < l.total → l.lines lin ≠ [] → s.charged + 256 * new.length ≤ s.quota →
          (∀ e ∈ s.launches.all, e.1 ≠ id → s.outranks e (id, l) = true → s.nextLines e.2 = none) →
          exec (.staging id lin) s = .next { s with
            launches := s.launches.put id { l with staged := l.staged ++ [lin], charged := l.charged ++ new, paid := l.paid ++ new } })
        ∧ (∀ k cores, s.canDispatch id l = true → s.firstToPlace id l = true → l.desc.groups ≤ 16 →
          let c := l.desc.cols * l.desc.rows
          s.fitsAt q.fields k (l.desc.cols, l.desc.rows) (l.nextLins.map (fun _ => some (l.desc.need l.ctx))) = some cores →
          Completes (.teamDispatch id k) s (fun u =>
            (∃ y, u.launches.find id = some y ∧ y.nextTeam = l.nextTeam + (c - l.unplaced.length) ∧ y.unplaced = l.unplaced.drop c)
            ∧ ∀ i, i < c → let t := s.nextId + i
              (∃ x, u.teams.find t = some x ∧ x.kind = .compute ∧ x.launch = id ∧ x.lin = l.lin i ∧ x.core = cores.getD i 0 ∧ x.idx = i
                ∧ x.clu = (l.desc.cols, l.desc.rows) ∧ x.groups = l.desc.groups ∧ x.pasid = l.pasid
                ∧ ((∀ r ∈ l.ranges, ¬(r.target = 2 ∧ r.reads = true)) → x.run = .resident)
                ∧ ((∃ r ∈ l.ranges, r.target = 2 ∧ r.reads = true ∧ r.prio < 8 ∧ 0 < r.bytes) → x.run = .placed))
              ∧ ∀ j, j < l.desc.groups → ∃ g f, u.groups.find (16 * t + j) = some g ∧ u.frags.find (64 * (16 * t + j) + g.slot) = some f
                ∧ g.sget 1 = l.args ∧ f.em = BitVec.allOnes 32 ∧ f.pc = l.desc.entry)))
    ∧ (∀ (s : State) (id : Nat) (l : Launch), s.launches.find id = some l → l.step = .admitted → l.total ≤ l.nextTeam → l.unplaced = [] → l.left = 0 →
      (l.repeats = false → Completes (.launchEnd id) s (fun u => u.launches.find id = none
          ∧ ∀ k i q, l.own = .packet k i → s.queues.find k = some q → let live := q.live.filter (· ≠ i)
            (q.detached = false ∨ live ≠ [] → ∃ q', u.queues.find k = some q' ∧ q'.live = live ∧ q'.next = q.next)
              ∧ (q.detached = true → live = [] → u.queues.find k = none)))
        ∧ (l.repeats = true → l.failed = none → Completes (.launchEnd id) s (fun u => ∃ y, u.launches.find id = some y ∧ y.step = .prologue ∧ y.run = l.run + 1
          ∧ y.repeats = false ∧ y.desc = l.desc ∧ y.lease = []))
        ∧ (∀ c k i q, l.repeats = true → l.failed = some c → l.own = .packet k i → s.queues.find k = some q →
          Completes (.launchEnd id) s (fun u => u.launches.find id = none ∧ u.retired k q false)))

/-- Issue and the active set (R144 to R147, R150): a ck holds back the fragments that cannot issue, which touches fragments alone and no ready one, and
chooses at most two ACTIVE ready fragments of a compute core and one of a system core, some where any is ready; a free place takes the PENDING
fragment that is next; one that has waited 8 ck takes the place of the ready fragment that entered earliest. Results and deadlines (R31, R64, R84,
R201, R432): a result that is known and due is written to its registers, and to no others; with no window on it open it is gone with its flags ORed
in, else it stays until its windows close; a fragment that waits for it alone is ready; some of its lanes may be written earlier (log 26); bad data is
not written, and stops its team. A fragment in HALT goes on at its deadline. -/
def Obligations.IssueAndResults : Prop :=
  (∀ (s : State) (k : Nat),
      (∃ (u : State) (l : List Cur), exec (.issueCycle k) s = .next { u with issueQ := s.issueQ ++ l } ∧ { u with frags := s.frags } = s
          ∧ (∀ e ∈ s.readyFrags k, u.frags.find e.1 = s.frags.find e.1)
          ∧ (k < 4096 → l.length ≤ 2) ∧ (2048 ≤ k → k < 4096 → l.length ≤ 1) ∧ (u.readyFrags k ≠ [] → l ≠ [])
          ∧ ∀ c ∈ l, ∃ e ∈ u.readyFrags k, e.1 = c.fid ∧ e.2.st = .active ∧ (∃ r, e.2.ready = some r ∧ r ≤ s.clock) ∧ (u.nextWord e.1).stands = .ready)
        ∧ (∀ f x y, ((s.coreFrags k).filter (fun e => e.2.active.isSome)).length < activePlaces k → s.nextIn k = some (f, x) → s.frags.find f = some y →
          Completes (.swapExchange k) s (fun u => u.frags.find f = some { y with st := .active, active := some s.clock, waitedAt := none }
            ∧ (∀ g, g ≠ f → u.frags.find g = s.frags.find g) ∧ { u with frags := s.frags } = s))
        ∧ (∀ f x y, s.exchange k = (none, none) → s.nextIn k = some (f, x) → s.frags.find f = some y → s.readyFrags k ≠ [] →
          (∃ r, x.ready = some r ∧ r + 8 ≤ s.clock) →
          Completes (.pendingAgeExpiry k) s (fun u => (∃ z, u.frags.find f = some z ∧ z.st = .active ∧ z.active = some s.clock)
            ∧ ∃ e ∈ s.readyFrags k, (∀ e' ∈ s.readyFrags k, e.2.active.getD 0 ≤ e'.2.active.getD 0)
              ∧ ∀ z, e.1 ≠ f → s.frags.find e.1 = some z → u.frags.find e.1 = some { z with st := .pending, active := none, ready := some s.clock })))
    ∧ (∀ (s : State) (gid slot pid : Nat) (g : Machine.Group),
      (∀ p l, s.pendOf gid pid = some p → p.due ≤ s.clock → p.vals = some l → s.groups.find gid = some g → (∀ q j x, RegVal.v q j x ∈ l → j < 32) →
          (p.bad = none → Completes (.resultWrite gid slot pid none) s (fun u =>
              (∃ h, u.groups.find gid = some h ∧ h.takes g l ∧ { h with s := g.s, v := g.v, p := g.p, fpflags := g.fpflags, pends := g.pends } = g
                ∧ ((∀ e ∈ g.pends.all, e.1 ≠ pid → e.2.written = true → s.windowOpen gid e.1 = true) →
                  h.fpflags = if s.windowOpen gid pid then g.fpflags else g.fpflags ||| p.flags))
              ∧ u.pendOf gid pid = (if s.windowOpen gid pid then some { p with vals := some [], written := true } else none)
              ∧ (∀ k, k ≠ gid → u.groups.find k = s.groups.find k) ∧ u.mem = s.mem ∧ u.teams = s.teams
              ∧ ∀ k f, s.frags.find k = some f → k / 64 = gid → f.why = .results [pid] → u.frags.find k
                = some { f with st := if f.active.isSome then .active else .pending, why := .none, ready := some s.clock }))
            ∧ (∀ r m, p.bad = none → Completes (.resultWrite gid slot pid (some (r, m))) s (fun u => u.pendOf gid pid = some p ∧ ∃ h, u.groups.find gid = some h
              ∧ { h with v := g.v } = g ∧ ∀ q i, i < 32 → h.vget q i = if q = r ∧ m.getLsbD i = true then (lastLane l q i).getD (g.vget q i) else g.vget q i))
            ∧ (∀ f t, p.bad = some f → s.teams.find (gid / 16) = some t → t.kind = .compute → t.run = .resident → (f.code = 0x050 → t.paged = false) →
              Completes (.resultWrite gid slot pid none) s (fun u => u.pendOf gid pid = none
                ∧ (∃ h, u.groups.find gid = some h ∧ { h with pends := g.pends } = g)
                ∧ ∃ x, u.teams.find (gid / 16) = some x ∧ x.run = .stopped ∧ x.trap.code = f.code ∧ x.trap.pc = p.pc)))
        ∧ (∀ n ck since, s.at' ⟨gid, slot⟩ = some n → n.f.why = .deadline ck since → ck ≤ s.clock →
          Completes (.haltWake gid slot) s (fun u => u.frags.find (64 * gid + slot)
            = some { n.f with st := if n.f.active.isSome then .active else .pending, why := .none, ready := some (s.clock + 1) })))

/-- A counter's home (R198, R218 to R223, R240): an add adds modulo 2^64 and answers the old value, and every waiter of the counter that the new value
reaches is answered; a read answers the value, a test whether it has reached; a wait that is reached is answered, and one that is not takes an entry;
a set that nothing refuses sets. A home that is full (R224, R227, R228): the entry held longest goes to the cold list and the oldest retry takes an
entry; a wait whose limit has passed ends with 0x098 in its fragment and 0x099 in its packet. -/
def Obligations.Homes : Prop :=
  (∀ (s : State) (id : Nat) (o : CtrOp), s.ops.find id = some o → s.ready o = true → s.ctrGone o.ctr = false → s.settled = true →
      (∃ pa, o.ctr = .mem pa) ∨ (∃ t i, o.ctr = .scr t i) → (∃ f p, o.who = .frag f p) →
      let v := s.ctrGet o.ctr
      let answered (u : State) (o : CtrOp) (a : AnsVal) : Prop := ∃ k, u.answers.find k = some ⟨o, a⟩
      let h := s.home (s.homeOf o.ctr)
      (∀ x, o.act = .add x → Completes (.homeCounterOp id) s (fun u => u.ctrGet o.ctr = v + x ∧ answered u o (.value v)
          ∧ ∀ w ∈ h.general ++ h.reserved, w.op.ctr = o.ctr → (v + x - w.t).toNat < 2 ^ 63 → (∃ f p, w.op.who = .frag f p) → answered u w.op .reached))
        ∧ (o.act = .read → Completes (.homeCounterOp id) s (fun u => u.ctrGet o.ctr = v ∧ answered u o (.value v)))
        ∧ (∀ t, o.act = .test t → (t - v).toNat ≠ 2 ^ 63 → Completes (.homeCounterOp id) s (fun u => u.ctrGet o.ctr = v ∧ answered u o (.bool ((v - t).toNat < 2 ^ 63))))
        ∧ (∀ t, o.act = .wait t → (t - v).toNat ≠ 2 ^ 63 → (v - t).toNat < 2 ^ 63 → Completes (.homeCounterOp id) s (fun u => answered u o .reached))
        ∧ (∀ t, o.act = .wait t → 2 ^ 63 < (v - t).toNat → h.general.length < (homeSize (s.homeOf o.ctr)).1 → h.retry = [] →
          Completes (.homeCounterOp id) s (fun u => ∃ w, w.op = o ∧ w.t = t ∧ (u.home (s.homeOf o.ctr)).general = h.general ++ [w] ∧ u.answers = s.answers))
        ∧ (∀ x, o.act = .set x → s.setRefused o.ctr = none → Completes (.homeCounterOp id) s (fun u => u.ctrGet o.ctr = x ∧ answered u o .done)))
    ∧ (∀ (s : State) (k : Nat),
      (∀ w l o r, (s.home k).general = w :: l → (s.home k).retry = o :: r → l.length < (homeSize k).1 →
          Completes (.coldMoveTick k) s (fun u => u.cold = s.cold ++ [w] ∧ (u.home k).retry = r ∧ ∃ x, x.op = o ∧ (u.home k).general = l ++ [x]))
        ∧ (∀ o f p, s.retrying k = some o → s.limitPassed o = true → o.who = .frag f p → exec (.waiterRefusalLimit k) s
            = .next ((s.withdraw (fun x => x.seq = k && x.who = o.who || x.seq = k && sameFrag x.who o.who)).raise ⟨f / 64, f % 64⟩ o.pc
                { code := 0x098, va := some o.va }))
        ∧ (∀ o q j, s.retrying k = some o → s.limitPassed o = true → o.who = .packet j → s.queues.find j = some q →
          Completes (.waiterRefusalLimit k) s (fun u => ∃ q', u.queues.find j = some q' ∧ q'.fcause = 0x099 ∧ q'.next = q.next + 1)))

/-- Answers (R223, R233, R236, R282, R367, R370): a wait that is reached lets its fragment go on; a copy is gone, and its token falls, with its completion
add; TAIL's answer lets the FE take; a CWAIT packet retires; a CADD or CWAIT node ends; a value fills its pending result. -/
def Obligations.CounterAnswers : Prop :=
  ∀ (s : State) (id : Nat) (a : Ans), s.answers.find id = some a →
    (∀ f p y t, a.op.who = .frag f p → (∃ x, a.op.act = .wait x) → a.op.pend = none → a.val = .reached → s.frags.find f = some y → s.teams.find (f / 1024) = some t →
        Completes (.counterAnswer id) s (fun u => u.frags.find f
          = some { y with st := if y.active.isSome then .active else .pending, why := .none, ready := some (s.clock + 1) }))
      ∧ (∀ f p t pid r x, a.op.who = .frag f p → a.op.act = .read → a.op.pend = some pid → a.val = .value x → s.teams.find (f / 1024) = some t →
        s.pendOf (f / 64) pid = some r → r.need ≤ 1 → r.got = [] →
        Completes (.counterAnswer id) s (fun u => u.pendOf (f / 64) pid = some { r with need := 0, vals := some [.s a.op.reg x] }))
      ∧ (∀ gid tok cid g, a.op.who = .token gid tok cid → s.groups.find gid = some g →
        Completes (.counterAnswer id) s (fun u => u.groups.find gid = some (g.tset tok (g.tget tok - 1)) ∧ u.copies.find cid = none ∧ u.laneCopies.find cid = none))
      ∧ (∀ k q, a.op.who = .tail k → a.val = .reached → s.queues.find k = some q →
        Completes (.counterAnswer id) s (fun u => u.queues.find k = some { q with reached := true }))
      ∧ (∀ k q, a.op.who = .packet k → (∀ c, a.val ≠ .trap c) → s.queues.find k = some q → q.step = .waiting →
        Completes (.counterAnswer id) s (fun u => u.retired k q false))
      ∧ (∀ g j x n, a.op.who = .node g j → (∀ c, a.val ≠ .trap c) → s.graphs.find g = some x → x.nodes.find j = some n →
        exec (.counterAnswer id) s = .next (({ s with answers := s.answers.del id } : State).nodeEnd g j n.succs))

/-- Caches and walks (R190, R191, R208, R348): LT advances by one each microsecond; a sector 2 µs old is written to its home and stays clean; an evicted
line is gone, with what it held dirty at home; a walk that finds a page present sets the accessed bit of its leaf. -/
def Obligations.CachesAndWalks : Prop :=
  ∀ (s : State) (k key : Nat),
    exec (.logicalTimeTick k) s = .next (s.putCore k { s.core k with lt := (s.core k).lt + 1 })
      ∧ (∀ x c, (s.core k).l1.find key = some x → x.oldest = some c → c + 1400 ≤ s.clock → s.settled = true →
        Completes (.writebackTimer k key false) s (fun u => (u.core k).l1.find key = some { x with dirty := 0, oldest := none }
          ∧ ∀ q, u.memByte q = if q / 64 = key ∧ x.dirty.getLsbD (q % 64) = true then Cells.get 0 x.data (q % 64) else s.memByte q))
      ∧ Completes (.writebackTimer k key true) s (fun u => (u.core k).l1.find key = none ∧ (u.core k).ro.find key = none
          ∧ ∀ p : Party, p.place = .core k → s.settled = true → ∀ q, u.latest p q = s.latest p q)
      ∧ (∀ pasid va e at' size table, va < 2 ^ 56 → (s.tlbOf (placeOf k)).find? (fun x => s.entryHits (placeOf k).hubOf pasid va x) = none →
        s.walk (placeOf k).hubOf pasid va = .leaf e at' size table → pteP e = true → s.settled = true →
        Completes (.pageWalk k pasid va) s (fun u => u.memWord at' = s.memWord at' ||| 0x20))

/-- Parking and relaunch of a team that is no cluster's (R151, R152, R154): past its threshold the park sequence begins; with nothing of it on its way and
a save area it is saved, with no fragment in the active set; queued for relaunch with a good record it becomes resident on a core that has room. -/
def Obligations.ParkingAndRelaunch : Prop :=
  ∀ (s : State) (t : Nat) (x : Team), s.teams.find t = some x → x.peers = [] → x.kind = .compute →
    (x.run = .resident → x.parkNow = false → s.dueToPark t = true →
        Completes (.parkThreshold t) s (fun u => u.teams.find t = some { x with run := .parking 1 }))
      ∧ (∀ s1, x.run = .parking 1 → x.parkNow = false → s.idleTeam t = true → s.quiet t = true → s.tokensZero t false = true → s.engineDone t x true = true →
        s.spanBad t = false → s.takeSpace [t] = some s1 →
        let s2 := (s1.saveTeam t .parked).updTeam t (fun y => { y with npark := min 0xFFFF (y.npark + 1), parkNow := false })
        s2.unwakeable [t] = false →
        let came := (s1.teamFrags t).any (fun e => e.2.why = .pageHere)
        exec (.parkSave t) s = .next (if came || s2.tokenWoken t then s2.requeue t else s2)
          ∧ (∃ y, s2.teams.find t = some y ∧ y.run = .parked ∧ y.saveAt ≠ none ∧ y.npark = min 0xFFFF (x.npark + 1))
          ∧ ∀ e ∈ s2.frags.all, e.1 / 1024 = t → e.2.active = none)
      ∧ (∀ q k c r, x.run = .relaunch → s.running = true → s.queues.find x.queue = some q →
        (∀ y, s.ctxs.find x.ctx = some y → y.suspended = false ∧ y.killed = false) → s.fitsAt q.fields k x.clu [some (s.needOf t x)] = some (c :: r) →
        (∀ l, s.launches.find x.launch = some l → s.firstToPlace x.launch l = true) → s.recordFault t = none → s.coldBad t = false → Completes (.teamRelaunch t k) s (fun u => ∃ y, u.teams.find t = some y ∧ y.run = .resident ∧ y.core = c ∧ y.lin = x.lin))

/-- The ends and stops of a team (R159, R179, R374, R414, R415, R420): a team with nothing left of it ends, and its launch has one fewer; a stopped team
whose trap may be resumed is saved and logged; a context without progress for its limit ends; a spent budget stops the team with 0x03D; a pre-emption
begins, and cancels the staging of its launch; a slice with another launch waiting suspends its queue, and restarts with none. -/
def Obligations.TeamsEndAndStop : Prop :=
  ∀ (s : State) (t : Nat) (x : Team), s.teams.find t = some x → x.kind = .compute →
    ((∀ g ∈ s.groupsOf t, s.groupDone g = true) → s.tokensZero t false = true → s.engineDone t x true = true → s.teamCopies t = [] → x.run ≠ .stopped →
        x.run ≠ .trapped → Completes (.teamEnd t) s (fun u => u.teams.find t = none
          ∧ ∀ l, s.launches.find x.launch = some l → u.launches.find x.launch = some { l with left := l.left - 1 }))
      ∧ (let soft := x.trap.code.toNat / 8 = 6
        let s1 : State := if soft then { s with frags := s.frags.upd (64 * (16 * t + x.trap.grp) + x.trap.slot) (fun f => { f with pc := x.trap.pc + 8 }) } else s
        let s2 := s1.updTeam t (fun y => { y with dbg := { y.dbg with skip := x.trap.code.toNat / 8 = 7 } })
        x.run = .stopped → s.quiet t = true → s.engineDone t x false = true → x.trap.atIssue = true → resumable x.trap.code = true → s2.spanBad t = false →
        Completes (.teamStop t) s (fun u => ∃ y, u.teams.find t = some y ∧ y.run = .trapped ∧ y.trap = x.trap))
      ∧ (∀ c, s.ctxs.find x.ctx = some c → c.killed = false → x.onCore = true → (t, x) ∈ s.teams.all → s.running = true → c.watch + c.wdog * 700000 ≤ s.clock →
        Completes (.watchdogExpiry x.ctx) s (fun u => ∃ c', u.ctxs.find x.ctx = some c' ∧ c'.killed = true))
      ∧ (∀ e l, x.dbg.budget = some 0 → x.run = .resident → s.teamFrags t = e :: l →
        Completes (.debugBudgetExpiry t) s (fun u => ∃ y, u.teams.find t = some y ∧ y.run = .stopped ∧ y.trap.code = 0x03D ∧ y.dbg.budget = none))
      ∧ (∀ cause, x.run = .resident → x.peers = [] → (∀ e ∈ s.teams.all, e.2.launch = x.launch → e.2.run ≠ .placed) → Completes (.preempt t cause) s (fun u =>
          u.teams.find t = some { x with run := .preempting, cause := BitVec.ofNat 9 (0x140 + cause.val) }
          ∧ ∀ l, s.launches.find x.launch = some l → ∃ l', u.launches.find x.launch = some l' ∧ l'.staged = [] ∧ l'.charged = [] ∧ l'.nextTeam = l.nextTeam))
      ∧ (∀ k q c, s.queues.find k = some q → q.sliceStart = some c → c + q.slice * 700 ≤ s.clock →
        let ts := s.runningOf k
        (s.firstWaiting k q.prio = none ∨ ts = [] → exec (.timeSliceExpiry k) s = .next (s.updQueue k (fun q => { q with sliceStart := some s.clock })))
          ∧ (s.firstWaiting k q.prio ≠ none → ts ≠ [] → Completes (.timeSliceExpiry k) s (fun u => ∃ q', u.queues.find k = some q' ∧ q'.suspended = true ∧ q'.next = q.next)))

/-- Copies on their way (R286, R291, R298, R300, R304): an idle engine takes the oldest queued copy; a chunk whose places translate reads them all and
then writes, and moves the progress on, and the last one has made every move of the copy; a lane copy reads every lane and then writes; a cancelled
one moves nothing and lowers its token. Reads and writes may be steps of their own (log 129). -/
def Obligations.CopyProgress : Prop :=
  ∀ (s : State) (id : Nat),
    (∀ die r c gid tok, s.copyQueue.find die = some (id :: r) → s.copies.find id = some c → c.own = .group gid tok → c.die = die → c.cancel = false →
        (s.copies.all.filter (fun e => e.2.die = die && e.2.running)).length < 16 →
        Completes (.copyEngineStart die) s (fun u => u.copies.find id = some { c with running := true } ∧ u.copyQueue.find die = some (r.filter (· ≠ id))))
      ∧ (∀ c src dst s1 t s2, s.copies.find id = some c → c.cancel = false → c.running = true → s.copyHeld c = false → s.copyStops c = false →
        let p := s.copyParty c
        let core := match c.own with | .group _ _ => some p.2.core | _ => none
        let hi := min (c.prog + c.kind.chunk) c.kind.total
        s.chunkPlan p.1 p.2 c c.prog hi = (.ok (src, dst), s1) → s1.tears true = (t, s2) →
        let u := s2.atWrites core (dst.zip (c.kind.moves c.prog hi (src.map (fun e => s2.atRead e.1 e.2))))
        exec (.copyChunk id) s = .next (
          if t then s2.tearInto { core := core, todo := getPieces src, next := .chunk id c.prog hi dst }
          else if hi = c.kind.total then u.copyDone id c
          else ({ u with copies := u.copies.put id { c with prog := hi } } : State).walkAhead (u.copyParty c).1 c.kind hi))
      ∧ (∀ c, s.laneCopies.find id = some c → c.adding = false →
        (c.cancel = true → exec (.cpyComplete id) s = .next (s.copyGone c.gid c.tok id))
          ∧ (∀ t s1, c.cancel = false → ({ s with laneCopies := s.laneCopies.put id { c with adding := true } } : State).tears true = (t, s1) →
            let core := (s.teams.find (c.gid / 16)).map (·.core)
            exec (.cpyComplete id) s = .next (if t then s1.tearInto
                { core := core, todo := numbered (c.lanes.zipIdx.map (fun e => .get [(e.2, e.1.1, c.size)])), next := .lanes id }
              else (s1.laneMoves core c).copyEnds id c.gid c.tok c.ctr c.pasid c.pc)))

/-- The matrix engine's head operation (R309, R310, R320, R324, R326): MBQ and MBQS load their quarter, MZERO clears its tiles and MLOADA fills one, every
other word of the team's tiles unchanged; a step of MMA that finds no fault gives every word of its tile the sum of R320, with the next step at the
head, or the operation gone and its token lower; one that finds a fault stops the team with its progress; a free baton goes to the head of its queue. -/
def Obligations.EngineSteps : Prop :=
  ∀ (s : State) (k : Nat) (e : EngEnt) (r : List EngEnt) (t : Team) (g : Machine.Group), (s.core k).engine = e :: r → s.teams.find e.who.team = some t →
    s.groups.find e.who.gid = some g →
    let word (t : Team) (i : Nat) : Lane := Cells.get 0 t.tiles i
    (∀ q c data, e.op = .mbq q c data → Completes (.engineOpPerform k) s (fun u => (u.core k).engine = r
        ∧ ∃ l, (u.core k).latches.find q = some l ∧ l.data = data))
      ∧ (∀ q c a tok, e.op = .mbqs q c a tok → Completes (.engineOpPerform k) s (fun u => (u.core k).engine = r
        ∧ u.groups.find e.who.gid = some (g.tset tok (g.tget tok - 1)) ∧ ∃ l, (u.core k).latches.find q = some l
        ∧ ∀ o, o < quarterBytes c → Cells.get 0 l.data o = Cells.get 0 t.scratch ((a + o) % 2 ^ 21)))
      ∧ (∀ tile cnt, e.op = .mzero tile cnt → Completes (.engineOpPerform k) s (fun u => (u.core k).engine = r ∧ ∃ t', u.teams.find e.who.team = some t'
        ∧ ∀ i, word t' i = if 4096 * tile ≤ i ∧ i < 4096 * (tile + cnt) then 0 else word t i))
      ∧ (∀ tile data, e.op = .mloada tile data → Completes (.engineOpPerform k) s (fun u => (u.core k).engine = r ∧ ∃ t', u.teams.find e.who.team = some t'
        ∧ ∀ i, word t' i = if 4096 * tile ≤ i ∧ i < 4096 * (tile + 1) then Cells.get 0 data (i - 4096 * tile) else word t i))
      ∧ (∀ f tile a comp rep prog tok, e.op = .mma f tile a comp rep prog tok → e.failed = false → (prog = 0 ∨ f.bstep = 0) →
        let m : MmaStep := { t := t, f := f, a := a + prog * f.astep, sa := f.ascale + 2048 * prog, sb := f.bscale + 2048 * prog
                             latches := fun q => { ((s.core k).latches.find q).getD {} with comp := comp } }
        (∀ code, m.fault = some code → t.run = .resident → Completes (.mmaStep k) s (fun u => ∃ t', u.teams.find e.who.team = some t'
            ∧ t'.run = .stopped ∧ t'.trap.code = code ∧ t'.trap.pc = e.pc ∧ t'.trap.data = BitVec.ofNat 64 prog ∧ t'.tiles = t.tiles))
        ∧ (m.fault = none → Completes (.mmaStep k) s (fun u => (∃ t', u.teams.find e.who.team = some t'
            ∧ (∀ i j, i < 64 → j < 64 → word t' (4096 * tile + 64 * i + j) = (mmaWord m (word t (4096 * tile + 64 * i + j)) i j).1)
            ∧ ∀ i, i / 4096 ≠ tile → word t' i = word t i)
          ∧ (prog < rep → (u.core k).engine = { e with op := .mma f tile a comp rep (prog + 1) tok } :: r)
          ∧ (rep ≤ prog → (u.core k).engine = r ∧ u.groups.find e.who.gid = some (g.tset tok (g.tget tok - 1))))))
      ∧ (∀ h q, (s.core k).holder = none → (s.core k).grantTo = none → (s.core k).batonQ = h :: q → (s.core k).busyFor (h / 16) = false →
        Completes (.batonGrant k) s (fun u => (u.core k).holder = some h ∧ (u.core k).batonQ = q.filter (· ≠ h)))

/-- The ring logic and the traffic arbiters (R268 to R270, R273, R275, R391): the oldest push of which every earlier effect of its fragment is made is
published and the published counter rises by as much; a cluster peer's request is answered; a spilled record comes back into a free slot; an arbiter
grants one of its requests. Soft errors and a full log (R187, R413, R416, R426): a corrected error counts in its byte of SERRCNT up to 255; an
uncorrectable one stops a compute team with the code of its structure, or marks memory; a log full for a second ends the contexts whose entries it
holds back. -/
def Obligations.RingLogicAndErrors : Prop :=
  (∀ (s : State) (t q : Nat) (x : Team) (r : Ring), s.teams.find t = some x → x.rings.find q = some r →
      (∀ b rest, r.batches = b :: rest → s.settled = true → (∀ o ∈ r.arrived, s.clock ≤ o.since) →
          (∀ e ∈ s.ops.all, sameFrag e.2.who (.frag b.fid 0) = true → b.seq ≤ e.2.seq) → Completes (.ringPublish t q) s (fun u =>
          (∃ x', u.teams.find t = some x' ∧ x'.rings.find q = some { r with pub := r.pub + b.count, batches := rest })
            ∧ u.scrCounter t (56 + q) = s.scrCounter t (56 + q) + BitVec.ofNat 64 b.count))
        ∧ (∀ o d p, r.arrived = [o] → o.since < s.clock → o.act = .info d → s.pendOf o.who.gid o.pend = some p → Completes (.ringPublish t q) s (fun u =>
          u.pendOf o.who.gid o.pend = some { p with bad := none, due := max o.due p.due, vals := some [.s d (BitVec.ofNat 64 r.tail)
            , .s (d + 1) (BitVec.ofNat 64 r.head), .s (d + 2) (BitVec.ofNat 64 (r.cap % 2 ^ 17 * 2 ^ 32 + r.spilled % 2 ^ 24))] }))
        ∧ (0 < r.spilled → r.onChip < r.cap → r.held = [] → s.poisoned (x.spillAt q r (r.head + r.onChip)) 32 = false → Completes (.ringRefill t q) s (fun u =>
          ∃ x', u.teams.find t = some x' ∧ x'.rings.find q = some { r with spilled := r.spilled - 1 }))
        ∧ (∀ i a w, s.arbiters.find i = some a → a.pick s.clock = some w →
          exec (.arbiterAging i) s = .next { s with arbiters := s.arbiters.put i { waiting := a.waiting.erase w, grants := a.grants + 1 } }))
    ∧ (∀ (s : State),
      (∀ site, let h := s.softSite site
          let n := (s.hub h.1).serrcnt.toNat / 2 ^ (8 * h.2) % 256
          Completes (.sramEccError site false) s (fun u => (u.hub h.1).serrcnt = if n < 255 then (s.hub h.1).serrcnt + BitVec.ofNat 64 (2 ^ (8 * h.2)) else (s.hub h.1).serrcnt))
        ∧ (∀ t x off site code, s.teams.find t = some x → x.kind = .compute → x.run = .resident →
          (site, code) ∈ [(EccSite.registerFile true t, 0x16A#9), (.registerFile false t, 0x16B#9), (.scratchBank t off, 0x168#9), (.ringBank t, 0x169#9), (.tile t, 0x16C#9),
            (.counterStore t, 0x16E#9)] →
          Completes (.sramEccError site true) s (fun u => ∃ y, u.teams.find t = some y ∧ y.run = .stopped ∧ y.trap.v = true ∧ y.trap.code = code))
        ∧ (∀ pa, let marks (site : EccSite) : Prop := Completes (.sramEccError site true) s (fun u => u.mem = s.mem
            ∧ ∀ q, Cells.get false u.poison q = (decide (q / 64 = pa / 64) || Cells.get false s.poison q))
          marks (.hbm pa) ∧ marks (.lpddrCxl pa))
        ∧ (∀ k key, Completes (.sramEccError (.l1Clean k key) true) s (fun u => (u.core k).l1.find key = none)
          ∧ Completes (.sramEccError (.tlb k) true) s (fun u => (u.core k).tlb = []))
        ∧ (∀ h c, (s.hub h).fullSince = some c → c + 700000000 ≤ s.clock → Completes (.faultLogFullTimeout h) s (fun u =>
          ∀ e ∈ (s.hub h).flog, e.team ≠ none → ∀ x, s.ctxs.find e.ctx = some x → ∃ x', u.ctxs.find e.ctx = some x' ∧ x'.killed = true)))

/-- Calls (R439, R440, R447, R482): ECHO does nothing but end; an end writes STATUS and RESULT, 0x139 where the block has lost its page or a right, adds 1
to CTR as a release at SYS, and removes the call; such a block ends its call at any step, and a call whose service a live update switches is held; one
that has run past twice its worst case is marked overrun, and ends with 0x0BB; one that its queue has not taken in a millisecond ends its SVCALL with
0x13B. The services of queues and contexts (R340, R365, R366, R372, R417, R440): each with good arguments has its effect and ends with status 0. -/
def Obligations.CallsAndContexts : Prop :=
  (∀ (s u : State) (id : Nat) (c : Call),
      (s.serving 0 id c u → exec (.echo id) s = .next (u.endCall id c 0))
        ∧ (∀ (status : Code) (r : Nat) (whole pa : Option Nat) (w v : State), Cells.wf none s.calls = true → s.blockAt c true = (whole, w) → w.blockAt c false = (pa, v) →
          let t := s.endCall id c status r
          t.calls.find id = none
            ∧ (∀ a, pa = some a → whole ≠ none → status ≠ 0x139 → v.settled = true →
              t.memWord (a + 16) = BitVec.ofNat 64 (r % 2 ^ 32 * 2 ^ 32 + (if c.overrun = true then 0x0BB else status.toNat)))
            ∧ (whole = none ∨ status = 0x139 → ∃ (x y : State) (o : CtrOp), o = { ctr := c.ctr, act := .add 1, who := .nobody, scope := some 6, pasid := c.pasid, va := c.ctrVa, team := c.team } ∧ y = (x.logBlock c).emit o
                ∧ t = ({ y with calls := y.calls.del id } : State).admitCalls c.hub 1
              ∧ ∀ a, pa = some a → v.settled = true → x.memWord (a + 16) = 0x139)
            ∧ (∃ k o, t.ops.find k = some o ∧ o.ctr = c.ctr ∧ o.act = .add 1 ∧ o.scope = some 6 ∧ o.pasid = c.pasid))
        ∧ (∀ v, s.calls.find id = some c → c.num = 0 → c.who = none → s.running = true → c.begun ≠ none → s.blockAt c true = (none, v) →
          exec (.echo id) s = .next (v.endCall id c 0x139))
        ∧ (s.calls.find id = some c → c.num = 0 → c.who = none → s.running = true → c.begun = none → s.switching 0 = true → c.hold = none →
          exec (.echo id) s = .next (({ s with calls := s.calls.put id { c with hold := some s.clock } } : State).logEntry c.hub
            { code := 0x175, lin := c.lin, pasid := c.pasid, va := c.block }))
        ∧ (∀ b, s.calls.find id = some c → c.begun = some b → c.overrun = false → c.num < 48 → (c.num = 16 → c.step ≠ 0) → b + 2 * s.callLimit c ≤ s.clock →
          Completes (.serviceOverrun id) s (fun t => t.calls.find id = some { c with overrun := true }))
        ∧ (∀ gid slot, s.calls.all.find? (fun e => e.2.who = some ⟨gid, slot⟩) = some (id, c) → c.since + 700000 ≤ s.clock →
          exec (.svcallQueueTimeout gid slot) s
            = .next (({ s with calls := s.calls.del id } : State).raise ⟨gid, slot⟩ c.pc { code := 0x13B, va := some c.block })))
    ∧ (∀ (s u : State) (id : Nat) (c : Call),
      let ends (i : Instr) (v : State) : Prop := exec i s = .next (v.endCall id c 0)
      let pasid := (c.arg 0).toNat
      (∀ x pool u1, s.serving 1 id c u → u.pasidBad c.hub (c.arg 0) = false →
          let d := u.dirEntry c.hub pasid
          let n := (c.arg 1).toNat
          let qcb := bits d 63 39 * 2 ^ 20 + 256 * n
          let w := (List.range 32).map (fun i => u.memWord (qcb + 8 * i))
          let q := queueOf pasid qcb 0 w u.clock
          dirBad d = false → n < 2 ^ bits d 9 6 → u.queues.find (pasid * 4096 + n) = none → u.ctxs.find q.ctx = some x → qcbRefused w = false →
          x.pasid = pasid → x.killed = false → (u.queues.all.filter (fun e => e.2.hub = q.hub && !e.2.detached)).length < 1024 →
          u.setAside (q.ppool * 0x10000) = some (pool, u1) →
          Completes (.qattach id) s (fun t => (∃ z, t.queues.find (pasid * 4096 + n) = some z ∧ { z with tailWait := false } = { q with pool := pool })
            ∧ ∃ y, t.ctxs.find q.ctx = some y ∧ y.wdog = q.wdog ∧ y.queues = x.queues ++ [pasid * 4096 + n]))
        ∧ (∀ q, s.serving 2 id c u → (c.arg 1).toNat < 4096 → u.queues.find (pasid * 4096 + (c.arg 1).toNat) = some q → q.detached = false → q.step = .idle →
          Completes (.qdetach id) s (fun t => (q.live = [] → t.queues.find (pasid * 4096 + (c.arg 1).toNat) = none)
            ∧ ∀ z, t.queues.find (pasid * 4096 + (c.arg 1).toNat) = some z → z.detached = true))
        ∧ (s.serving 3 id c u → u.pasidBad c.hub (c.arg 0) = false → u.sysPasid pasid = false → (c.arg 1).toNat < 2 ^ 16 →
          (∀ y, u.ctxs.find (c.arg 1).toNat = some y → y.killed = true ∧ y.queues = [] ∧ ∀ z, u.quarantine.find (c.arg 1).toNat = some z → z.sealed = true) →
          ends (.ctxcreate id) { u with ctxs := u.ctxs.put (c.arg 1).toNat { pasid := pasid, watch := u.clock } })
        ∧ (∀ x, s.serving 4 id c u → u.ctxs.find (c.arg 0).toNat = some x → x.killed = false →
          ends (.ctxkill id) (u.endContext (c.arg 0).toNat 0x178)
            ∧ ∃ y, (u.endContext (c.arg 0).toNat 0x178).ctxs.find (c.arg 0).toNat = some y ∧ y.killed = true)
        ∧ (∀ t x, s.serving 5 id c u → u.teams.all.find? (fun e => e.2.saveAt = some (c.arg 0).toNat) = some (t, x) →
          let woken : State := { u with ctxs := u.ctxs.upd x.ctx (fun y => { y with suspended := false }) }
          let again (v : State) : State := (((v.ctxs.find x.ctx).map (·.queues)).getD []).foldl (fun (s : State) k => s.resumeQueue k) v
          let susp : Prop := ∃ y, u.ctxs.find x.ctx = some y ∧ y.suspended = true
          (x.run = .trapped → x.unlogged = true → c.arg 1 = 0 ∨ c.arg 1 = 1 → exec (.ctxresume id) s = .next u)
            ∧ (x.run = .trapped → x.unlogged = false → c.arg 1 = 0 → ends (.ctxresume id) (u.updTeam t (fun y => { y with run := .relaunch })))
            ∧ (x.run = .trapped → x.unlogged = false → c.arg 1 = 1 → ends (.ctxresume id) (u.failLaunch x.launch x.trap.code x.trap.pc))
            ∧ (x.run ≠ .trapped → susp → c.arg 1 = 0 → ends (.ctxresume id) (again woken))
            ∧ (x.run ≠ .trapped → susp → c.arg 1 = 1 → ends (.ctxresume id) (again (woken.failLaunch x.launch x.trap.code x.trap.pc))))
        ∧ (∀ x, s.serving 6 id c u → u.ctxs.find (c.arg 0).toNat = some x → x.killed = false →
          let v := if x.suspended = true then u else x.queues.foldl (fun (s : State) k => s.suspendQueue k) { u with ctxs := u.ctxs.put (c.arg 0).toNat { x with suspended := true } }
          let ts := (u.teams.all.filter (fun e => e.2.kind = .compute && e.2.ctx = (c.arg 0).toNat && e.2.onCore)).map (fun (e : Nat × Team) => e.1)
          (ts = [] → ends (.ctxsuspend id) v)
            ∧ (ts ≠ [] → exec (.ctxsuspend id) s = .next (v.preemptTeams ts 0x142)))
        ∧ (∀ x w u1, s.serving 14 id c u → u.ctxs.find (c.arg 0).toNat = some x → x.killed = false → 8 ≤ (c.arg 1).toNat → (c.arg 1).toNat ≤ 31 →
          u.svcRead c (c.arg 2).toNat 24 = (.ok w, u1) →
          ends (.scopeset id) (u1.setScope x.pasid (c.arg 1).toNat (w.flatMap (fun x => leBytes 8 x.toNat)))))

/-- The services of debugging, information, power and firmware (R411, R440, R445, R446, R473, R474, R479, R480, R482). -/
def Obligations.DebugAndInformationServices : Prop :=
  ∀ (s u : State) (id : Nat) (c : Call) (ans : Answer),
    let ends (i : Instr) (v : State) (st : Code) (r : Nat) : Prop := exec i s = .next (v.endCall id c st r)
    let writes (i : Instr) (u : State) (va : Word) (l : List Byte) (r : Nat) : Prop := ∀ v, va.toNat % 64 = 0 → u.svcWrite c va.toNat l = (true, v) → ends i v 0 r
    (∀ t x, s.serving 43 id c u → u.life ≠ .deployed → (c.arg 2).toNat < 2 ^ 9 → injection (BitVec.ofNat 9 (c.arg 2).toNat) = true →
        u.teamBy (c.arg 0) (c.arg 1) = some (t, x) → x.onCore = true →
        ends (.faultinject id) (u.raiseIn t { code := BitVec.ofNat 9 (c.arg 2).toNat }) 0 0)
      ∧ (∀ t x w u1, s.serving 44 id c u → u.life = .manufacture ∨ u.life = .retired → u.teamBy (c.arg 0) (c.arg 1) = some (t, x) →
        (c.arg 2).toNat % 32 = 0 → u.svcRead c (c.arg 2).toNat 4 = (.ok w, u1) →
        let f (i : Nat) : Nat := (w.getD i 0).toNat
        let op := f 0 % 16
        let v : State := { u1 with sessions := u1.sessions + 1 }
        f 0 / 256 = 1 → f 1 % 8 = 0 → f 2 < 2 ^ 32 → f 3 = 0 →
        (op = 0 → x.run = .resident → ends (.svcDebug id) (v.raiseIn t { code := 0x03E }) 0 0)
          ∧ (1 ≤ op → op ≤ 6 → (op = 1 → f 0 / 64 % 4 ≠ 0) → ends (.svcDebug id)
            (v.editDebug t (fun d => d.edit op (f 0 / 16 % 4) (f 0 / 64 % 4) (w.getD 1 0) (f 2))) 0 0))
      ∧ (∀ f, s.serving 29 id c u → u.funcs.find (c.arg 0).toNat = some f → writes (.funcinfo id) u (c.arg 1) (u.funcBytes f) 0)
      ∧ (s.serving 45 id c u → (c.arg 0).toNat < 2 → 1 ≤ (c.arg 2).toNat → (c.arg 2).toNat ≤ 4096 →
        let b := u.hub (c.arg 0).toNat
        let p := (u.memWord b.flogpctr.toNat).toNat
        let k := min p (min (c.arg 2).toNat (2 ^ b.flogcfg))
        writes (.logread id) u (c.arg 1) (leBytes 8 (p - k) ++ leBytes 8 k ++ List.replicate 48 0
          ++ (List.range k).flatMap (fun i => u.memRead (b.flogbase.toNat + 64 * ((p - k + i) % 2 ^ b.flogcfg)) 64)) k)
      ∧ (s.serving 47 id c u → writes (.serviceinfo id) u (c.arg 0) ((svcTimes.zip (List.range 48)).flatMap (fun e =>
          [BitVec.ofNat 8 e.2, Config.imageByte u.fwVersion (2 * e.2), Config.imageByte u.fwVersion (2 * e.2 + 1), if e.1.ext.isSome then 1 else 0]
            ++ leBytes 4 e.1.base ++ leBytes 4 e.1.unit ++ leBytes 4 e.1.ukind)) 0)
      ∧ (s.serving 41 id c u → 12000 ≤ (c.arg 0).toNat → (c.arg 0).toNat ≤ 20000 → (c.arg 0).toNat % 100 = 0 →
        ends (.poweralarm id) { u with alarmAt := (c.arg 0).toNat } 0 0)
      ∧ (∀ w u1, s.serving 35 id c u → u.svcRead c (c.arg 0).toNat 4 = (.ok w, u1) → ∃ secret : Nat → Byte,
        writes (.attest id) { u1 with fresh := u1.fresh + 2644 } (c.arg 1)
          (leBytes 8 (1 + lifeCode u1.life * 2 ^ 8) ++ List.replicate 56 0 ++ w.flatMap (fun x => leBytes 8 x.toNat)
            ++ (List.range 224).map secret ++ List.replicate 32 0 ++ (List.range 2420).map (fun i => secret (224 + i)) ++ List.replicate 1324 0) 0)
      ∧ (∀ k, s.serving 46 id c u → u.peers.find (c.arg 0).toNat = some k → exec (.clocksync id ans) s = .next (u.endCall id c ans.status ans.result.toNat))
      ∧ (s.serving 40 id c u → Completes (.retention id) s (fun t => Event.retentionEntry 1 ∈ t.agenda))
      ∧ (s.serving 42 id c u →
        let put (x : State) (c' : Call) : State := { x with calls := x.calls.put id c' }
        let n := c.changed.length
        (c.step = 0 → ans.status = 0 → u.fwMinimum ≤ ans.result.toNat →
            Completes (.fwupdate id ans) s (fun t => ∃ a, t = put u { c with step := 1, args := a } ∧ a.getD 5 0 = BitVec.ofNat 64 ans.result.toNat
              ∧ a.getD 6 0 = (if (ans.data.headD 0).getLsbD 0 = true then 1 else 0)
              ∧ ∀ k, k ∈ (a.drop 7).map (·.toNat) ↔ k < 48 ∧ ∃ b ∈ ans.data.drop 1, b.toNat = k))
          ∧ (c.step = 0 → ans.status = 0x171 → ends (.fwupdate id ans) (u.logEvent c.hub 0x171) 0x171 0)
          ∧ (c.step = 0 → ans.status ≠ 0x171 → ans.status ≠ 0 ∨ ans.result.toNat < u.fwMinimum → ends (.fwupdate id ans) (u.logEvent c.hub 0x173) 0x13D 0)
          ∧ (∀ k, c.step ≠ 0 → c.changed[c.step - 1]? = some k → (∀ e ∈ u.calls.all, e.1 ≠ id → e.2.num = k → e.2.begun = none) →
            exec (.fwupdate id ans) s = .next ((put u { c with step := c.step + 1 }).logEvent c.hub 0x170))
          ∧ (n < c.step → c.arg 6 = 0 → ends (.fwupdate id ans) { u with fwVersion := (c.arg 5).toNat } 0 0)
          ∧ (c.step = n + 1 → c.arg 6 ≠ 0 → exec (.fwupdate id ans) s = .next (put u.preemptQueues { c with step := n + 2 }))
          ∧ (n + 1 < c.step → c.arg 6 ≠ 0 → (∀ e ∈ u.teams.all, e.2.run = .preempting → e.2.cause ≠ 0x146) →
            ends (.fwupdate id ans) { u.queues.keys.foldl (fun (x : State) k => x.resumeQueue k) (u.logEvent c.hub 0x174) with fwVersion := (c.arg 5).toNat } 0 0))

/-- The services of bindings and translation for endpoints (R440, R448, R450, R452, R453, R457). -/
def Obligations.BindingServices : Prop :=
  ∀ (s u : State) (id : Nat) (c : Call),
    let ends (i : Instr) (v : State) (r : Nat) : Prop := exec i s = .next (v.endCall id c 0 r)
    (∀ w u1 u2 u3 u4 pub cons k, s.serving 17 id c u → (c.arg 0).toNat % 64 = 0 → u.svcRead c (c.arg 0).toNat 8 = (.ok w, u1) →
        let f (i : Nat) : Word := w.getD i 0
        let n := (f 2).toNat
        u1.doorbellOk c (f 0).toNat = (true, u2) → 2 ≤ n / 2 ^ 32 → n / 2 ^ 32 ≤ 65536 → 4 ≤ n % 2 ^ 32 → n % 2 ^ 32 ≤ 8 → (f 5).toNat < 2 → f 6 = 1 → f 7 = 0 →
        (f 1).toNat + n / 2 ^ 32 * 2 ^ (n % 2 ^ 32) ≤ 2 ^ 56 → u2.leased c.pasid (f 1).toNat (n / 2 ^ 32 * 2 ^ (n % 2 ^ 32)) = true →
        u2.bindCounter c.hub c.pasid (f 3) = (.ok pub, u3) →
        ((f 4 = 0 ∧ cons = none ∧ u4 = u3) ∨ (f 4 ≠ 0 ∧ ∃ x, cons = some x ∧ u3.bindCounter c.hub c.pasid (f 4) = (.ok x, u4))) →
        k < 4096 → u4.bindings.find k = none → (∀ j, j < k → u4.bindings.find j ≠ none) →
        let b : Binding := { pasid := c.pasid, dbaddr := (f 0).toNat, qbase := (f 1).toNat, depth := n / 2 ^ 32, esz := n % 2 ^ 32, ctr := pub
                             pubVa := f 3, cons := cons, follow := (f 5).getLsbD 0, seen := u4.ctrGet pub }
        ends (.dbbind id) { u4 with bindings := u4.bindings.put k b } k)
      ∧ (∀ b, s.serving 18 id c u → u.bindings.find (c.arg 0).toNat = some b → b.pasid = c.pasid → (b.follow = true → b.seen = (u.followed b).1) →
        Completes (.dbunbind id) s (fun t => t.bindings.find (c.arg 0).toNat = none ∧ ∀ k d, t.dws.find k = some d → d.binding = (c.arg 0).toNat → d.sent = true))
      ∧ (s.serving 19 id c u → (c.arg 0).toNat < 2 ^ 17 →
        let k := (c.arg 0).toNat % 2 ^ 16
        let h := (c.arg 0).toNat / 2 ^ 16
        let mode := (c.arg 3).toNat
        (mode = 0 → ends (.msibind id) (u.msiOff h k) 0)
          ∧ (∀ ctr u1, 1 ≤ mode → mode ≤ 2 → (c.arg 2).toNat < 2 ^ 20 → c.step ≠ 1 → u.bindCounter h (c.arg 2).toNat (c.arg 1) = (.ok ctr, u1) →
            (∀ o, (u1.hub h).msi.find k = some o → o.valid = true → o.pasid = (c.arg 2).toNat) →
            Completes (.msibind id) s (fun t => t.calls.find id = some { c with step := 1 } ∧ ∃ b, (t.hub h).msi.find k = some b ∧ b.installing = true
              ∧ b.pasid = (c.arg 2).toNat ∧ b.ctr = ctr ∧ b.va = c.arg 1 ∧ b.data = decide (mode = 2)))
          ∧ (∀ b, 1 ≤ mode → mode ≤ 2 → (c.arg 2).toNat < 2 ^ 20 → c.step = 1 → (u.hub h).msi.find k = some b → b.installing = true →
            ends (.msibind id) (u.msiInstalled h k b) 0))
      ∧ (s.serving 20 id c u → (c.arg 0).toNat < 2 → (c.arg 1).toNat < 2 ^ 16 → ends (.msiunbind id) (u.msiOff (c.arg 0).toNat (c.arg 1).toNat) 0)
      ∧ (∀ f, s.serving 27 id c u → u.funcs.find (c.arg 0).toNat = some f → (c.arg 1).toNat < 2 →
        let f' : Func := if c.arg 1 = 1 then { f with ats := true, refuse := false } else { f with ats := false, given := [] }
        ends (.atsctl id) { u with funcs := u.funcs.put (c.arg 0).toNat f' } 0)
      ∧ (∀ f, s.serving 28 id c u → c.step ≠ 1 → (c.arg 0).toNat < 2 ^ 23 → (c.arg 1).toNat / 2 ^ 20 % 2 ^ 43 = 0 → (c.arg 2).toNat % 0x10000 = 0 →
        1 ≤ (c.arg 3).toNat → (c.arg 3).toNat ≤ 2 ^ 24 → u.funcs.find (c.arg 0).toNat = some f → f.ats = true →
        Completes (.atsinval id) s (fun t => t.calls.find id = some { c with step := 1 }
          ∧ ∃ k r, t.reqs.find k = some r ∧ r.kind = .atsInv none (c.arg 0).toNat (some id) ∧ r.va = c.arg 2))
      ∧ (s.serving 28 id c u → c.step = 1 → u.invalOpen (some id) = false → ends (.atsinval id) u 0)

/-- The paging services (R353, R356, R359, R440, R441, R455, R458), over a range of n pages, or of one where the clause says so. The end of a page's
absence, harvests, the release of leases, the TME and clearing (R353, R356, R359, R361, R362, R458). -/
def Obligations.PagingServices : Prop :=
  (∀ (s u v : State) (id va n frame : Nat) (c : Call), u.ranged c va n →
      let ends (i : Instr) (v : State) (r : Nat) : Prop := exec i s = .next (v.endCall id c 0 r)
      let pasid := (c.arg 0).toNat
      let one (s : State) (a : Nat) (e : Word) : State := s.homeWrite a (leBytes 8 e.toNat)
      let quiet (s : State) : Prop := (∀ e ∈ s.funcs.all, e.2.given = []) ∧ ∀ k, s.invalOpen k = false
      (s.serving 7 id c u → c.step + 1 = n → u.bringPage c.hub pasid (va + c.step * 0x10000) frame none = (.done, v) →
          exec (.pagereq id frame) s = .next ((v.pageCame pasid (va + c.step * 0x10000)).endCall id { c with step := n } 0 n))
        ∧ (s.serving 7 id c u → c.step < n → u.bringPage c.hub pasid (va + c.step * 0x10000) frame none = (.wait, v) →
          exec (.pagereq id frame) s = .next { v with calls := v.calls.put id c })
        ∧ (∀ k, s.serving 7 id c u → c.step < n → u.bringPage c.hub pasid (va + c.step * 0x10000) frame none = (.bad k, v) →
          exec (.pagereq id frame) s = .next (v.endCall id c 0x13D))
        ∧ (let v := u.splitRuns c.hub pasid va n
          s.serving 8 id c u → u.migrating pasid va n = false → ∃ w k, ends (.pageout id) w k
          ∧ (n = 1 → v.skipped c.hub pasid va = true → w = v ∧ k = 0) ∧ (n = 1 → v.skipped c.hub pasid va = false → (k, w) = v.pageOut c.hub pasid va))
        ∧ (let t := c.arg 3
          let mmio := pteType t = 2
          let tables := roundUp (if mmio ∨ pteP t = false then frame else frame + n * 0x10000) 0x40000
          s.serving 9 id c u → u.templateBad t n = false → dirRoot (u.dirEntry c.hub pasid) ≠ 0 →
          (∀ i a z, i < n → u.slotOf c.hub pasid (va + i * 0x10000) = some (a, z) → pteV (u.memWord a) = false) →
          (mmio ∨ pteP t = false ∨ u.framesOk frame (n * 0x10000) (pteTier t) 0x10000 = true) →
          (u.framesOk tables (0x40000 * (4 + n / 0x8000)) 0 0x10000 = true ∨ u.framesOk tables (0x40000 * (4 + n / 0x8000)) 1 0x10000 = true) →
          ∃ w, ends (.map id frame) w n ∧ (pteP t = false → n = 1 → ∀ a, u.slotOf c.hub pasid va = some (a, 1) → w = (one u a t).tlbDropRange pasid va 1))
        ∧ (let v := u.splitRuns c.hub pasid va n
          s.serving 10 id c u → c.step ≠ 1 → u.leasedAny pasid va n = false → u.migrating pasid va n = false → quiet u → ∃ w, ends (.unmap id) w 0
          ∧ (n = 1 → ∀ a z, v.slotOf c.hub pasid va = some (a, z) → pteV (v.memWord a) = true → pteP (v.memWord a) = false →
            w = { (one v a 0).tlbDropRange pasid va 1 with backing := Cells.set false v.backing (pasid * 2 ^ 40 + va / 0x10000) false }))
        ∧ (let v := u.splitRuns c.hub pasid va n
          s.serving 11 id c u → c.step ≠ 1 → c.arg 3 &&& 14 = c.arg 3 → quiet u → ∃ w, ends (.protect id) w 0
          ∧ (n = 1 → ∀ a z, v.slotOf c.hub pasid va = some (a, z) → pteV (v.memWord a) = true →
            w = (one v a (v.memWord a &&& ~~~14#64 ||| c.arg 3)).tlbDropRange pasid va 1))
        ∧ (∀ k, s.serving 12 id c u → c.step = 0 → u.tierThere (c.arg 3).toNat = true →
          u.migrateRange c.hub pasid va (c.arg 3).toNat frame 0 (List.range n) = some (k, v) → v.migrating pasid va n = false → ends (.migrate id frame) v k)
        ∧ (s.serving 12 id c u → c.step ≠ 0 → u.migrating pasid va n = false → ends (.migrate id frame) u (c.step - 1))
        ∧ (s.serving 15 id c u → (c.arg 3).toNat ≤ 2 → (∀ i, i < n → u.leaseCount pasid (va + i * 0x10000) < 65535) → u.migrating pasid va n = false →
          Completes (.iolease id) s (fun t => t.ioLeases.find (max 1 u.ioLeases.fresh)
            = some { pasid := pasid, va := va, bytes := n * 0x10000, dir := (c.arg 3).toNat })))
    ∧ (∀ (s u v : State) (id pasid va frame tier k : Nat) (c : Call) (l : IoLease),
      (s.calls.find id = some c → c.num = faultCall → s.bringPage c.hub c.pasid c.block.toNat frame c.tier = (.done, v) →
          exec (.pagereq id frame) s = .next (({ v with calls := v.calls.del id } : State).pageCame c.pasid c.block.toNat))
        ∧ (s.serving 13 id c u → u.pasidBad c.hub (c.arg 0) = false → (c.arg 1).toNat % 0x10000 = 0 → (c.arg 1).toNat < 2 ^ 56 → 1 ≤ (c.arg 2).toNat →
          (c.arg 2).toNat ≤ 2 ^ 24 → (c.arg 3).toNat % 8 = 0 → u.migrating (c.arg 0).toNat (c.arg 1).toNat (c.arg 2).toNat = false →
          u.harvest { place := .hub c.hub, pasid := c.pasid } c.hub (c.arg 0).toNat (c.arg 1).toNat (c.arg 3).toNat false (c.arg 2).toNat 0 0
            ((c.arg 2).toNat / 8 + 1) = (.ok k, v) →
          exec (.harvest id) s = .next (v.endCall id c 0 k))
        ∧ (s.serving 16 id c u → u.ioLeases.find (c.arg 0).toNat = some l →
          let w := if c.step = 1 then u else u.invalRange l.pasid l.va (l.bytes / 0x10000) (some id)
          (w.invalOpen (some id) = true → exec (.iorelease id) s = .next { w with calls := w.calls.put id { c with step := 1, begun := if c.step = 1 then c.begun else some w.clock } })
            ∧ (w.invalOpen (some id) = false → Completes (.iorelease id) s (fun t => t.ioLeases.find (c.arg 0).toNat = none)))
        ∧ (∀ va0 old units e, s.moveUnit (s.hubFor pasid) pasid va = some (va0, old, units, e) → e.getLsbD 4 = false ∨ (tier = 0 ∧ s.wssWants pasid va0 = true) →
          s.movable old units frame tier = true →
          exec (.tmeMigration pasid va frame tier) s = .next (s.tmeMove (s.hubFor pasid) pasid va0 old units frame tier))
        ∧ (let clean (p m : Nat) : Prop := ∀ e ∈ s.poison, ¬ (p ≤ e.1 ∧ e.1 < p + m)
          let zero (t : State) (p m : Nat) : Prop := t.poison = s.poison ∧ ∀ q, Cells.get 0 t.mem q = (if p ≤ q ∧ q < p + m then 0 else Cells.get 0 s.mem q)
          s.Inv →
            (∀ pa, tierOf pa ≠ none → s.installed pa = true → s.frameNamed (pa / 0x10000 * 0x10000) = false →
              let p := pa / 0x10000 * 0x10000
              exec (.pageClear pa) s = .next (s.clearFrames 0 0 (BitVec.ofNat 64 p) p 0x10000)
                ∧ (clean p 0x10000 → zero (s.clearFrames 0 0 (BitVec.ofNat 64 p) p 0x10000) p 0x10000))
            ∧ (∀ r, s.unwiped (r * 0x200000) = true →
              Completes (.wipeRegionClear r) s (fun t => t.unwiped (r * 0x200000) = false
                ∧ ((∀ w ∈ s.wipeHeld, w.pa / 0x200000 ≠ r) → clean (r * 0x200000) 0x200000 → zero t (r * 0x200000) 0x200000)))))

/-- The services of NVMe devices and NICs (R437, R443, R444): a function that is bound is sent the command and the call waits for it; its answer is taken
up, or ends the call with the status of its failure. -/
def Obligations.DriverServices : Prop :=
  ∀ (s u v v' : State) (id : Nat) (c : Call) (ans : Answer) (f : Func) (w : List Word),
    let fn := (c.arg 0).toNat
    let va := (c.arg 1).toNat
    let fld (i : Nat) : Word := w.getD i 0
    let party : Party := { place := .hub c.hub, pasid := c.pasid }
    let ends (i : Instr) (v : State) (st : Code) (r : Nat) : Prop := exec i s = .next (v.endCall id c st r)
    let sent (i : Instr) (kind : Nat) (w : List Word) : Prop := Completes i s (fun t =>
      t.calls.find id = some { c with step := 1, args := (List.range 5).map c.arg ++ w }
      ∧ ∃ k r, t.reqs.find k = some r ∧ r.kind = .driver fn kind (some id) ∧ r.sub = fnSub fn)
    let asks (num : Nat) : Prop := s.serving num id c u ∧ u.funcs.find fn = some f ∧ c.step ≠ 1 ∧ f.state = 1
    let answered (num : Nat) : Prop := s.serving num id c u ∧ u.funcs.find fn = some f ∧ c.step = 1 ∧ u.driverOpen id = true ∧ ans.status = 0
    let d := u.driverDone id
    let dbs := [leNat (ans.data.take 8), leNat ((ans.data.drop 8).take 8)]
    let want := bits (c.arg 7) 47 32
    let k22 := if want = 0 then ans.result.toNat % 65536 else want
    let newQ (v : State) (qid kind cq : Nat) (dbs : List Nat) : EpQueue :=
      { id := qid, kind := kind, ctx := v.ctxOf c.pasid, pasid := c.pasid, cq := cq, dbs := dbs }
    (∀ num i kind, (num, i, kind) ∈ [(21, Instr.nvmeadmin id ans, 0x134), (22, .nvmeqpair id ans, 0x134), (23, .nvmeqdel id ans, 0x134)
        , (24, .nicqcreate id ans, 0x136), (25, .nicqdelete id ans, 0x136), (26, .nicfilter id ans, 0x136)] →
        s.serving num id c u → u.funcs.find fn = some f → c.step = 1 → u.driverOpen id = true → ans.status ≠ 0 → ends i d ans.status ans.result.toNat)
      ∧ (∀ l, asks 21 → va % 64 = 0 → u.svcRead c va 10 = (.ok w, v) → (fld 0).toNat % 256 ∉ [0, 1, 4, 5] → v.svcCheck party va 10 = (.ok l, v') →
        sent (.nvmeadmin id ans) 0x134 w)
      ∧ (answered 21 → d.svcWrite c (va + 64) (ans.data.take 16 ++ List.replicate (16 - ans.data.length) 0) = (true, v) →
        ends (.nvmeadmin id ans) v (if leNat ((ans.data.drop 14).take 2) / 2 ≠ 0 then 0x13D else 0) (leNat (ans.data.take 4)))
      ∧ (let x := (fld 2).toNat
        ∀ l, asks 22 → va % 64 = 0 → u.svcRead c va 8 = (.ok w, v) → (fld 0).toNat % 4096 = 0 → (fld 1).toNat % 4096 = 0 → x % 2 ^ 16 ≠ 0 → x / 2 ^ 16 % 2 ^ 16 ≠ 0 →
        x / 2 ^ 48 = 1 → (fld 3).toNat < 2 ^ 18 → fld 6 = 0 → fld 7 = 0 → v.leasedFor c.pasid (fld 0).toNat (64 * (x % 2 ^ 16 + 1)) false = true →
        v.leasedFor c.pasid (fld 1).toNat (16 * (x / 2 ^ 16 % 2 ^ 16 + 1)) true = true →
        v.svcCheck party va 8 = (.ok l, v') → sent (.nvmeqpair id ans) 0x134 w)
      ∧ (answered 22 → d.svcWrite c (va + 32) (dbs.flatMap (leBytes 8)) = (true, v) →
        ends (.nvmeqpair id ans) ((dbs.foldl (fun (s : State) a => s.mapDoorbell c.hub c.pasid fn a) v).updFunc fn
          (fun f => { f with queues := f.queues ++ [newQ d k22 3 0xFFFF dbs] })) 0 k22)
      ∧ (∀ q, f.queues.find? (fun q => q.kind = 3 && q.id = va) = some q → (asks 23 → sent (.nvmeqdel id ans) 0x134 [])
        ∧ (answered 23 → ends (.nvmeqdel id ans) (d.dropEpQueue c.hub fn q) 0 0))
      ∧ (∀ l, asks 24 → va % 64 = 0 → u.svcRead c va 8 = (.ok w, v) → v.nicqBad c f w = false → v.svcCheck party va 8 = (.ok l, v') → sent (.nicqcreate id ans) 0x136 w)
      ∧ (answered 24 → d.svcWrite c (va + 32) (leBytes 8 (leNat (ans.data.take 8))) = (true, v) →
        ends (.nicqcreate id ans) ((v.mapDoorbell c.hub c.pasid fn (leNat (ans.data.take 8))).updFunc fn (fun f => { f with queues := f.queues ++
          [newQ d (ans.result.toNat % 65536) (bits (c.arg 5) 1 0) (bits (c.arg 5) 47 32) [leNat (ans.data.take 8)]] })) 0 (ans.result.toNat % 65536))
      ∧ (∀ q, f.queues.find? (fun q => q.kind < 3 && q.id = va) = some q →
        (asks 25 → (q.kind = 2 → ∀ x ∈ f.queues, x.kind < 2 → x.cq ≠ q.id) → sent (.nicqdelete id ans) 0x136 [])
        ∧ (answered 25 → ends (.nicqdelete id ans) (d.dropEpQueue c.hub fn q) 0 0))
      ∧ (let m := (fld 0).toNat % 8
        let fid := (fld 0).toNat / 2 ^ 32 % 2 ^ 16
        asks 26 → va % 32 = 0 → u.svcRead c va 4 = (.ok w, v) → m ≤ 4 → (fld 0).toNat / 2 ^ 4 % 2 ^ 12 = 0 → (fld 0).toNat / 2 ^ 48 = 1 →
        (fld 1).toNat < 2 ^ 60 → (fld 2).toNat < 2 ^ 32 → fld 3 = 0 → ((m ≠ 0 ∧ fid = 0xFFFF) ∨ fid ∈ f.filters) →
        (m = 0 ∨ (fld 0).getLsbD 3 = true ∨ ∃ q ∈ f.queues, q.kind = 1 ∧ q.id = (fld 0).toNat / 2 ^ 16 % 2 ^ 16) → sent (.nicfilter id ans) 0x136 w)
      ∧ (answered 26 →
        let fid := bits (c.arg 5) 47 32
        let k := if fid = 0xFFFF then ans.result.toNat % 65536 else fid
        if bits (c.arg 5) 2 0 = 0 then ends (.nicfilter id ans) (d.updFunc fn (fun f => { f with filters := f.filters.erase fid })) 0 fid
        else ends (.nicfilter id ans) (d.updFunc fn (fun f => { f with filters := if f.filters.contains k then f.filters else f.filters ++ [k] })) 0 k)

/-- The services of links, peers and CXL memory (R440, R442, R457, R459 to R464). -/
def Obligations.LinkServices : Prop :=
  ∀ (s u v : State) (id k : Nat) (c : Call) (ans : Answer),
    let a0 := (c.arg 0).toNat
    let ends (i : Instr) (v : State) (st : Code) (r : Nat) : Prop := exec i s = .next (v.endCall id c st r)
    let waits (u : State) : State := { u with calls := u.calls.put id { c with step := 1 } }
    let sub : Prop := u.subArg (c.arg 0) = some k
    (∀ w, s.serving 30 id c u → sub → (c.arg 1).toNat < 128 → (c.arg 2).toNat % 32 = 0 → (u.sub k).mode = 1 → u.svcRead c (c.arg 2).toNat 4 = (.ok w, v) →
        let f (i : Nat) : Nat := (w.getD i 0).toNat
        let inb := (c.arg 1).getLsbD 6
        let key := (c.arg 1).toNat % 64 + if inb = true then 64 else 0
        let win : NtbWin := { inbound := inb, ctr := (w.getD 0 0).getLsbD 1, pasid := f 0 / 2 ^ 32, off := f 1, size := f 2, tgt := f 3 }
        f 0 % 256 < 4 → f 0 / 2 ^ 8 % 2 ^ 24 = 1 → f 0 < 2 ^ 52 → (inb = true → (w.getD 0 0).getLsbD 1 = false) → (inb = false → f 0 < 2 ^ 32) →
        (f 0 % 2 = 0 → ends (.ntbwindow id) (v.updSub k (fun u => { u with wins := u.wins.del key })) 0 0)
          ∧ (f 0 % 2 = 1 → f 1 % 0x10000 = 0 → f 2 % 0x10000 = 0 → 0x10000 ≤ f 2 → f 2 ≤ 2 ^ 40 → f 1 + f 2 ≤ 0x10000000000 / (v.sub (8 * (k / 8))).parts →
            f 3 % 0x10000 = 0 → (∀ e ∈ (v.sub k).wins.all, e.1 ≠ key → e.2.inbound = inb → overlap e.2.off e.2.size (f 1) (f 2) = false) →
            ends (.ntbwindow id) (v.updSub k (fun u => { u with wins := u.wins.put key win })) 0 0))
      ∧ (let p := (c.arg 1).toNat
        s.serving 31 id c u → sub → (u.sub k).mode = 1 → 1 ≤ p → p ≤ 1023 → u.peers.find p = none → (u.sub k).up = true → ans.status = 0 →
        Completes (.peerattach id ans) s (fun t => t.peers.find p = some k ∧ (t.sub k).peer = some p ∧ (t.sub k).session = (u.sub k).session + 1))
      ∧ (s.serving 32 id c u → u.peers.find a0 = some k → Completes (.peerdetach id ans) s (fun t => t.peers.find a0 = none ∧ (t.sub k).peer ≠ some a0))
      ∧ (∀ x, let st := (c.arg 1).toNat
        let put (x : Stream) : State := u.updSub k (fun u => { u with streams := u.streams.put st x })
        s.serving 33 id c u → sub → (u.sub k).streams.find st = some x →
        (c.step = 0 → x.keyed = true → exec (.iderefresh id ans) s = .next (waits (put { x with refreshing := some u.clock })))
          ∧ (c.step ≠ 0 → ans.status = 0 → ends (.iderefresh id ans) (put { x with refreshing := none }) 0 0))
      ∧ (∀ f, s.serving 34 id c u → u.funcs.find a0 = some f → ans.status = 0 → (c.arg 1).toNat % 64 = 0 →
        u.svcWrite c (c.arg 1).toNat (ans.data ++ List.replicate ((8 - ans.data.length % 8) % 8) 0) = (true, v) → ends (.spdmmeasure id ans) v 0 ans.data.length)
      ∧ (s.serving 38 id c u → sub →
        (c.step = 0 → exec (.portreset id ans) s = .next ((waits u).subDown k) ∧ ((waits u).subDown k |>.sub k).up = false)
          ∧ (c.step ≠ 0 → ans.status = 0 → ends (.portreset id ans) (u.subUp k) 0 0 ∧ ((u.subUp k).sub k).up = true))
      ∧ (∀ f, s.serving 39 id c u → u.funcs.find a0 = some f →
        (c.step = 0 → exec (.flr id ans) s = .next ((waits u).resetFunc c.hub a0)
          ∧ ∃ g, ((waits u).resetFunc c.hub a0).funcs.find a0 = some g ∧ g.state = 2 ∧ g.given = [] ∧ g.ats = false ∧ g.pri = false ∧ g.filters = [])
          ∧ (c.step ≠ 0 → ans.status = 0 → ends (.flr id ans) { u with funcs := u.funcs.put a0 { f with state := 1 } } 0 0))
      ∧ (s.serving 36 id c u → sub → (u.sub k).mode = 2 → (u.sub k).up = true → ans.status = 0 →
        Completes (.cxlonline id ans) s (fun t => (t.sub k).cxlBytes = min (u.sub k).reported (0x20000000000 / (u.sub (8 * (k / 8))).parts)))
      ∧ (∀ frame, s.serving 37 id c u → sub → (u.sub k).mode = 2 → ans.status = 0 →
        u.moveOut frame (u.residentIn (u.cxlStart k) (u.sub k).cxlBytes) = some v → v.migrations = [] →
        ends (.cxloffline id frame ans) (v.updSub k (fun u => { u with cxlBytes := 0 })) 0 0)

/-- Doorbells and interrupts (R449 to R452): a doorbell write goes out in its turn once no write is held, to the MMIO page of DBADDR; the DBP writes PUB's
tail where it has changed; an error report raises 0x104; an MSI adds 1, or its data, to the counter of its binding as a release at SYS, is held while
the binding installs, and is logged where there is none. -/
def Obligations.DoorbellsAndInterrupts : Prop :=
  ∀ (s v : State) (k : Nat) (d : Dw) (b : Binding),
    (s.dws.find k = some d → s.bindings.find d.binding = some b → d.sent = false → s.settled = true →
        (∀ e ∈ s.dws.all, e.1 < k → e.2.binding = d.binding → e.2.sent = true) →
        exec (.doorbellWrite k) s = .next (({ s with dws := s.dws.put k { d with sent := true }
                                                     bindings := s.bindings.put d.binding { b with last := some d.tail.toNat } } : State).ringDoorbell b d.tail.toNat))
      ∧ (∀ tail e j addr, s.xlate (.hub (s.hubFor b.pasid)) b.pasid b.dbaddr pteW = (.page e, v) → pteType e.pte = 2 → pteW e.pte = true →
        v.mmioRoute (e.pa b.dbaddr) = .ok (j, addr) →
        s.ringDoorbell b tail = v.send { sub := j, addr := addr, data := some (leBytes 4 tail), size := 4 })
      ∧ (∀ pub, s.bindings.find k = some b → b.follow = true →
        (b.cons = none ∨ (∃ x, b.cons = some x ∧ (s.ctrGet b.ctr - (s.ctrGet x + BitVec.ofNat 64 (b.depth - 1)) - 1).toNat ≥ 2 ^ 63)) →
        s.ctrGet b.ctr = pub → pub ≠ b.seen → b.last ≠ some (pub.toNat % b.depth) →
        let b' : Binding := { b with seen := pub, overrunLogged := false, last := some (pub.toNat % b.depth) }
        exec (.dbpFollow k) s = .next (({ s with bindings := s.bindings.put k b' } : State).ringDoorbell b (pub.toNat % b.depth)))
      ∧ (s.dws.find k = some d → d.sent = true → exec (.aerErrorReport k) s = .next (({ s with dws := s.dws.del k } : State).lateTrap d 0x104))
      ∧ (∀ h m size data, h < 2 → m < 65536 → s.converterLoad h < 1024 →
        let msi := Instr.msiWrite (0x1FF000000000 + h * 2 ^ 24 + 4 * m) size data
        ((∀ x, (s.hub h).msi.find m = some x → x.valid = false) → exec msi s = .next (s.logEvent h 0x128))
          ∧ (∀ x, (s.hub h).msi.find m = some x → x.valid = true →
            (x.installing = true → exec msi s
                = .next ((s.putHub h { s.hub h with msiHeld := (s.hub h).msiHeld ++ [(m, size, data)] }).logEvent h 0x12E x.pasid x.va))
              ∧ (∀ ctr, x.installing = false → s.deadPasid x.pasid = false → size = 4 ∨ (size = 8 ∧ data < 2 ^ 32) →
                s.hubOperand h x.pasid (.add false) x.va = (.ok ctr, v) →
                exec msi s = .next (v.emit { ctr := ctr, act := .add (BitVec.ofNat 64 (if x.data = true then data % 2 ^ 32 else 1)), who := .msi h
                                             scope := some 6, pasid := x.pasid, va := x.va }))))

/-- Requests of endpoints and peers (R230, R358, R454, R455, R461, R462): translations of leased pages; page requests entered in their hub's queue; writes
and reads of memory where the page allows them; counter writes and FetchAdds, and what they refuse. -/
def Obligations.InboundRequests : Prop :=
  ∀ (s v : State) (fn pasid va : Nat) (f : Func),
    let h := fnSub fn / 8 / 6
    (∀ w e v0 n, s.issues fn f → f.ats = true → f.bound pasid = true → s.xlate (.ta h) pasid va (fun _ => true) = (.page e, v) →
        let r := pteR e.pte && v.leaseAllows pasid va false
        let wr := pteW e.pte && v.leaseAllows pasid va true
        let got := (List.range n).map (fun i => (pasid, v0 / 0x10000 + i))
        let whole : Prop := ∀ i, i < e.size → v.ioLeasesOf pasid (e.vpn * 0x10000 + i * 0x10000) ≠ []
        pteType e.pte = 3 → v.ioLeasesOf pasid va ≠ [] → (if w then wr else r) = true →
        (whole ∧ v0 = e.vpn * 0x10000 ∧ n = e.size) ∨ (¬ whole ∧ v0 = va - va % 0x10000 ∧ n = 1) →
        exec (.atsTranslationRequest fn pasid va w) s = .next ((v.updFunc fn (fun f => { f with given := f.given ++ got.filter (fun x => !f.given.contains x) })).atsAnswer
          fn (e.pa v0) n r wr false (pteG e.pte)))
      ∧ (s.issues fn f → f.pri = true → f.pageReqs < 64 → f.bound pasid = true → s.ioLeasesOf pasid va ≠ [] →
        let b := s.hub h
        let c := s.memWord b.prqCtr.toNat
        (c - s.memWord (b.prqCtr.toNat + 8)).toNat ≠ 4096 → ∀ prg last rd wr, Completes (.pageRequest fn pasid va prg last rd wr) s (fun t =>
          (∃ g, t.funcs.find fn = some g ∧ g.pageReqs = f.pageReqs + 1)
            ∧ (last = true → ∀ x ∈ (t.hub h).prq, ¬ (x.fn = fn ∧ x.pasid = pasid ∧ x.prg = prg % 512))
            ∧ (last = false → (t.hub h).prq.getLast? = some { fn := fn, pasid := pasid, va := va, prg := prg % 512, last := false, rd := rd, wr := wr })))
      ∧ (∀ pa data, s.issues fn f → (s.sub (fnSub fn)).mode ≠ 1 → f.bound pasid = true → f.refuse = false → data ≠ [] → va % 0x10000 + data.length ≤ 0x10000 →
        let parts : List (Inbound × Nat) := [(.mem pa, data.length)]
        (∀ t x, s.inbound h pasid va true true = (.mem pa, v) → v.tears true = (t, x) →
            exec (.inboundDma fn pasid va true data) s = .next (if t = true then x.tearInto { todo := putPieces (inboundPuts parts data) } else x.homeWrite pa data))
          ∧ (∀ t x, s.inbound h pasid va false true = (.mem pa, v) → v.tears true = (t, x) → exec (.inboundDma fn pasid va false data) s
            = .next (if t = true then x.tearInto { todo := getPieces (inboundGets parts), next := .reply fn } else x.send
              { sub := fnSub fn, addr := fn, data := some (x.memRead pa data.length), size := (x.memRead pa data.length).length, poison := x.poisoned pa data.length }))
          ∧ (∀ c, s.inbound h pasid va true true = (.refuse c, v) → exec (.inboundDma fn pasid va true data) s = .next (v.logEvent h c pasid (BitVec.ofNat 64 va))))
      ∧ (∀ pa size data, s.inbound (s.hubFor pasid) pasid va true false = (.ctr pa, v) →
        let add (pa data : Nat) (answer : Bool) (reg : Nat) : CtrOp :=
          { ctr := .mem pa, act := .add (BitVec.ofNat 64 data), who := .port (s.hubFor pasid) answer
            scope := some 6, pasid := pasid, va := BitVec.ofNat 64 va, reg := reg }
        (size = 4 ∨ size = 8 → data < 2 ^ (8 * size) →
            (va % size = 0 → data < 2 ^ 32 → exec (.inboundCounterWrite pasid va size data) s = .next (v.emit (add (pa - pa % 8) data false 0)))
              ∧ (va % size ≠ 0 ∨ 2 ^ 32 ≤ data → exec (.inboundCounterWrite pasid va size data) s = .next (v.logEvent (s.hubFor pasid) 0x121 pasid (BitVec.ofNat 64 va))))
          ∧ (data < 2 ^ 32 → va % 8 = 0 → exec (.inboundFetchadd pasid va 8 data true) s = .next (v.emit (add pa data true (s.inboundSub pasid va))))
          ∧ (∀ fa, fa = false ∨ size ≠ 8 ∨ 2 ^ 32 ≤ data ∨ va % 8 ≠ 0 → exec (.inboundFetchadd pasid va size data fa) s
            = .next ((v.send { sub := s.inboundSub pasid va, addr := va, refused := true }).logEvent (s.hubFor pasid) 0x120 pasid (BitVec.ofNat 64 va))))

/-- Answers to the device's own requests, and the events of its links (R437, R457, R459, R461, R463, R465). -/
def Obligations.CompletionsAndLinks : Prop :=
  ∀ (s : State) (id : Nat) (r : Req),
    let gone : State := { s with reqs := s.reqs.del id }
    (∀ o old, s.reqs.find id = some r → r.kind = .fetchAdd o → exec (.peerFetchaddCompletion id none old) s = .next (gone.answer o (.value old))
        ∧ ∀ k : Fin 8, exec (.peerFetchaddCompletion id (some k) old) s = .next (s.failReq id r (if k.val = 6 then 0x126 else 0x122)))
      ∧ (∀ g slot, s.reqs.find id = some r → r.kind = .cfgWrite g slot → exec (.configurationWriteCompletion id none) s = .next (gone.wakes ⟨g, slot⟩)
        ∧ ∀ k : Fin 8, ∃ code, exec (.configurationWriteCompletion id (some k)) s = .next (s.failReq id r code))
      ∧ (∀ c fn call, s.reqs.find id = some r → r.kind = .atsInv (some c) fn call → exec (.atsInvalidateCompletion id) s = .next (gone.wakes c))
      ∧ (∀ fn call, s.reqs.find id = some r → r.kind = .atsInv none fn (some call) → exec (.atsInvalidateCompletion id) s = .next gone)
      ∧ (s.reqs.find id = some r →
        let late (us : Nat) (code : Code) : Prop := r.since + us * 700 ≤ s.clock → exec (.requestTimeout id) s = .next (s.failReq id r code)
        match r.kind with
        | .iold _ _ _ _ _ cfg => late 50000 (if cfg = true then 0x131 else 0x130)
        | .cfgWrite _ _ => late 50000 0x132
        | .fetchAdd _ => late 50000 0x133
        | .atsInv _ _ _ => late 10000 0x113
        | .driver _ kind (some _) => late (if kind = 0x137 then 2000000 else if kind = 0x136 then 1000000 else 30000000) (BitVec.ofNat 9 kind)
        | .driver _ _ none => True)
      ∧ (∀ x, s.subs.find id = some x → (x.up = true → Completes (.linkDown id) s (fun t => (t.sub id).up = false))
        ∧ (x.up = false → Completes (.linkRetrained id) s (fun t => (t.sub id).up = true)))
      ∧ (∀ k lost, s.peers.find id = some k → Completes (.peerReset id lost) s (fun t =>
        ((t.sub k).up = ((s.sub k).up && !lost)) ∧ ∀ e ∈ (t.sub k).wins, ∀ w, e.2 = some w → w.inbound = false))
      ∧ (∀ st seq x, (s.sub id).streams.find st = some x →
        (x.keyed = true → x.insecure = false → Completes (.ideIntegrityFailure id st seq) s (fun t =>
            ∃ y, (t.sub id).streams.find st = some y ∧ y.insecure = true ∧ y.refreshing = none))
          ∧ (∀ c, x.refreshing = some c → c + 7000000 ≤ s.clock → Completes (.ideRefreshTimeout id st) s (fun t =>
            (t.sub id).streams.find st = some { x with refreshing := none })))
      ∧ (∀ q, s.Inv → s.quarantine.find id = some q → q.sealed = false → s.invalOpen none = false → Completes (.quarantineSeal id) s (fun t =>
        t.quarantine.find id = some { q with sealed := true } ∧ ((∀ p ∈ q.pages, ∀ e ∈ s.poison, ¬ (p.2 ≤ e.1 ∧ e.1 < p.2 + 0x10000)) → ∀ p ∈ q.pages, ∀ a, p.2 ≤ a → a < p.2 + 0x10000 → Cells.get 0 t.mem a = 0)))

/-- The power alarm, retention, resume, reset, supplies and the life cycle (R361, R472 to R479). -/
def Obligations.PowerAndReset : Prop :=
  ∀ (s : State),
    (∀ amps, exec (.powerAlarmRaise amps) s = .next (if s.alarmAt < amps then { s with alarm := true } else s))
      ∧ Completes .powerAlarmLower s (fun t => t.alarm = false ∧ ∀ k, t.core k = { s.core k with narrow := false })
      ∧ (∀ cause : Fin 3, s.power = .running → Completes (.retentionEntry cause) s (fun t => t.power = .entering (BitVec.ofNat 9 (0x150 + cause.val)) ∨ t.power = .retention)
        ∧ (s.awakeTeams = [] → (∀ e ∈ s.teams.all, e.2.kind ≠ .prologue) → s.migrations = [] →
          Completes (.retentionEntry cause) s (fun t => t.power = .retention ∧ t.fieldTlb = [] ∧ t.tte = [] ∧ t.ta = []
            ∧ ∀ k, (t.core k).l1 = [] ∧ (t.core k).ro = [] ∧ (t.core k).tlb = [] ∧ (t.core k).latches = [])))
      ∧ (∀ lost, s.power = .retention → exec (.resume lost false) s = .next { s with power := .resuming 1, again := s.again ++ [.resume lost false] })
      ∧ (∀ lost, s.power = .retention → Completes (.resume lost true) s (fun t => t.power = .running ∧ t.mem = [] ∧ t.events = s.events ++ [0x156, 0x157, 0x17D]))
      ∧ (∀ n lost, s.power = .resuming n → n = 1 ∨ n = 2 → Completes (.resume lost false) s (fun t => t.power = .resuming (n + 1) ∧ .resume lost false ∈ t.again))
      ∧ (∀ n lost, s.power = .resuming n → 3 ≤ n → Completes (.resume lost false) s (fun t => t.power = .running))
      ∧ (∀ die, die < 10 → exec (.thermalTrip die) s = .next { s with thermtrip := false })
      ∧ (∀ cause boot, s.power ≠ .off ∨ cause = .powerOn → Completes (.reset cause boot) s (fun t => t.life = s.life ∧ t.fwVersion = s.fwVersion
        ∧ t.clock = 0 ∧ t.mem = [] ∧ t.wiped = [] ∧ t.teams = [] ∧ t.groups = [] ∧ t.frags = [] ∧ t.queues = [] ∧ t.ctxs = [] ∧ t.calls = [] ∧ t.power = .running
        ∧ t.alarmAt = 18000 ∧ t.stageq = 0x2020202020202020))
      ∧ (∀ tgt, s.power ≠ .off → (s.life, tgt) ∈ [(LifeCycle.manufacture, LifeCycle.provisioned), (.provisioned, .deployed), (.deployed, .retired), (.retired, .provisioned)] →
        Completes (.lifeCycleChange tgt true) s (fun t => t.life = tgt ∧ t.mem = [] ∧ t.teams = [] ∧ t.clock = 0)
          ∧ exec (.lifeCycleChange tgt false) s = .next s)
      ∧ Completes .supplyRemoval s (fun t => t.power = .off ∧ t.life = s.life ∧ t.events = s.events ∧ t.mem = [] ∧ t.teams = [] ∧ step t = .fault .unpowered)
end

