-- ==== Sys2Proof/Laws/Cells.lean ====
section
/-! SUPPORT. Laws of sparse data: a read after a write, and the canonical form. -/

namespace Sys2Proof.Machine

variable {α : Type}

@[simp] theorem Cells.get_nil (d : α) (j : Nat) : Cells.get d [] j = d := rfl

theorem Cells.get_cons (d : α) (k : Nat) (v : α) (m : Cells α) (j : Nat) :
    Cells.get d ((k, v) :: m) j = if k = j then v else if j < k then d else Cells.get d m j := rfl

theorem Cells.get_dropWhile_le (d : α) (m : Cells α) (i j : Nat) (h : j < i) :
    Cells.get d (m.dropWhile (fun e => e.1 ≤ j)) i = Cells.get d m i := by
  induction m with
  | nil => rfl
  | cons e m ih =>
    obtain ⟨k, v⟩ := e
    by_cases hk : k ≤ j
    · rw [List.dropWhile_cons_of_pos (by simpa using hk), ih, Cells.get_cons,
        if_neg (by omega), if_neg (by omega)]
    · rw [List.dropWhile_cons_of_neg (by simpa using hk)]

theorem Cells.get_dropWhile_ge (d : α) (m : Cells α) (i j : Nat) (h : i ≤ j) :
    Cells.get d (m.dropWhile (fun e => e.1 ≤ j)) i = d := by
  induction m with
  | nil => rfl
  | cons e m ih =>
    obtain ⟨k, v⟩ := e
    by_cases hk : k ≤ j
    · rw [List.dropWhile_cons_of_pos (by simpa using hk), ih]
    · rw [List.dropWhile_cons_of_neg (by simpa using hk), Cells.get_cons, if_neg (by omega), if_pos (by omega)]

variable [DecidableEq α]

/-- A write changes its own key and no other. -/
theorem Cells.get_set (d : α) (m : Cells α) (j : Nat) (v : α) (i : Nat) :
    Cells.get d (Cells.set d m j v) i = if i = j then v else Cells.get d m i := by
  induction m with
  | nil =>
    by_cases hv : v = d
    · simp [Cells.set, hv]
    · by_cases h : i = j
      · simp [Cells.set, hv, Cells.get_cons, h]
      · have h' : ¬ j = i := fun e => h e.symm
        simp [Cells.set, hv, Cells.get_cons, h, h']
  | cons e m ih =>
    obtain ⟨k, x⟩ := e
    unfold Cells.set
    by_cases h1 : k < j
    · rw [if_pos h1, Cells.get_cons, Cells.get_cons, ih]
      split_ifs <;> first | rfl | (exfalso; omega)
    · rw [if_neg h1]
      by_cases h2 : k = j
      · rw [if_pos h2]
        by_cases hv : v = d
        · rw [if_pos hv]
          by_cases h : i ≤ j
          · rw [Cells.get_dropWhile_ge d m i j h, Cells.get_cons]
            split_ifs <;> first | rfl | exact hv.symm | (exfalso; omega)
          · rw [Cells.get_dropWhile_le d m i j (by omega), Cells.get_cons]
            split_ifs <;> first | rfl | (exfalso; omega)
        · rw [if_neg hv, Cells.get_cons, Cells.get_cons]
          split_ifs <;> first | rfl | (exfalso; omega)
      · rw [if_neg h2]
        by_cases hv : v = d
        · rw [if_pos hv, Cells.get_cons]
          split_ifs <;> first | rfl | exact hv.symm | (exfalso; omega)
        · rw [if_neg hv, Cells.get_cons, Cells.get_cons]
          split_ifs <;> first | rfl | (exfalso; omega)

@[simp] theorem Cells.get_set_same (d : α) (m : Cells α) (j : Nat) (v : α) :
    Cells.get d (Cells.set d m j v) j = v := by simp [Cells.get_set]

theorem Cells.get_set_ne (d : α) (m : Cells α) (i j : Nat) (v : α) (h : i ≠ j) :
    Cells.get d (Cells.set d m j v) i = Cells.get d m i := by simp [Cells.get_set, h]

@[simp] theorem Tab.find_put (m : Tab α) (j : Nat) (v : α) : Tab.find (Tab.put m j v) j = some v := by
  simp [Tab.find, Tab.put]

theorem Tab.find_put_ne (m : Tab α) (i j : Nat) (v : α) (h : i ≠ j) : Tab.find (Tab.put m j v) i = Tab.find m i := by
  simp [Tab.find, Tab.put, Cells.get_set, h]

@[simp] theorem Tab.find_del (m : Tab α) (j : Nat) : Tab.find (Tab.del m j) j = none := by
  simp [Tab.find, Tab.del]

theorem Tab.find_del_ne (m : Tab α) (i j : Nat) (h : i ≠ j) : Tab.find (Tab.del m j) i = Tab.find m i := by
  simp [Tab.find, Tab.del, Cells.get_set, h]

@[simp] theorem Tab.find_upd (m : Tab α) (j : Nat) (f : α → α) : Tab.find (Tab.upd m j f) j = (Tab.find m j).map f := by
  unfold Tab.upd
  cases h : Tab.find m j <;> simp [h]

theorem Tab.find_upd_ne (m : Tab α) (i j : Nat) (f : α → α) (h : i ≠ j) :
    Tab.find (Tab.upd m j f) i = Tab.find m i := by
  unfold Tab.upd
  cases Tab.find m j <;> simp [Tab.find_put_ne, h]

-- The canonical form ----------------------------------------------------------------------------------------------

theorem Cells.wf_cons (d : α) (k : Nat) (v : α) (m : Cells α) :
    Cells.wf d ((k, v) :: m) = true ↔ v ≠ d ∧ Cells.wf d m = true ∧ (∀ e ∈ m.head?, k < e.1) := by
  cases m with
  | nil => simp [Cells.wf]
  | cons e m =>
    obtain ⟨k', v'⟩ := e
    simp only [Cells.wf, Bool.and_eq_true, decide_eq_true_eq, List.head?_cons, Option.mem_def, Option.some.injEq,
      forall_eq']
    exact ⟨fun h => ⟨h.1.1, h.2, h.1.2⟩, fun h => ⟨⟨h.1, h.2.2⟩, h.2.1⟩⟩

theorem Cells.wf_dropWhile (d : α) (p : Nat × α → Bool) (m : Cells α) (h : Cells.wf d m = true) :
    Cells.wf d (m.dropWhile p) = true := by
  induction m with
  | nil => exact h
  | cons e m ih =>
    obtain ⟨k, v⟩ := e
    by_cases hp : p (k, v) = true
    · rw [List.dropWhile_cons_of_pos hp]
      exact ih ((Cells.wf_cons d k v m).1 h).2.1
    · rwa [List.dropWhile_cons_of_neg hp]

/-- The first key of a set is the written one or the old first one. -/
theorem Cells.head_set (d : α) (m : Cells α) (j : Nat) (v : α) (n : Nat) (hj : n < j)
    (hm : ∀ e ∈ m.head?, n < e.1) (hw : Cells.wf d m = true) : ∀ e ∈ (Cells.set d m j v).head?, n < e.1 := by
  cases m with
  | nil =>
    intro e he
    by_cases hv : v = d
    · simp [Cells.set, hv] at he
    · simp [Cells.set, hv] at he
      subst he
      exact hj
  | cons c m =>
    obtain ⟨k, x⟩ := c
    have hk : n < k := hm (k, x) (by simp)
    intro e he
    unfold Cells.set at he
    split_ifs at he
    · simp at he; subst he; exact hk
    · have := (Cells.wf_cons d k x m).1 hw
      cases hd : m.dropWhile (fun e => decide (e.1 ≤ j)) with
      | nil => rw [hd] at he; simp at he
      | cons c r =>
        rw [hd] at he
        simp at he
        subst he
        have := List.head_dropWhile_not (fun e : Nat × α => decide (e.1 ≤ j)) (l := m) (by rw [hd]; simp)
        simp only [hd, List.head_cons, decide_eq_false_iff_not] at this
        omega
    · simp at he; subst he; exact hj
    · simp at he; subst he; exact hk
    · simp at he; subst he; exact hj

/-- A write keeps the canonical form. -/
theorem Cells.wf_set (d : α) (m : Cells α) (j : Nat) (v : α) (h : Cells.wf d m = true) :
    Cells.wf d (Cells.set d m j v) = true := by
  induction m with
  | nil =>
    by_cases hv : v = d <;> simp [Cells.set, Cells.wf, hv]
  | cons e m ih =>
    obtain ⟨k, x⟩ := e
    obtain ⟨hx, hm, hk⟩ := (Cells.wf_cons d k x m).1 h
    unfold Cells.set
    split_ifs with h1 h2 hv hv
    · exact (Cells.wf_cons d k x _).2 ⟨hx, ih hm, Cells.head_set d m j v k h1 hk hm⟩
    · exact Cells.wf_dropWhile d _ m hm
    · exact (Cells.wf_cons d j v m).2 ⟨hv, hm, h2 ▸ hk⟩
    · exact h
    · exact (Cells.wf_cons d j v _).2 ⟨hv, h, by simp; omega⟩

omit [DecidableEq α] in
theorem Cells.get_below (d : α) (m : Cells α) (n i : Nat) (hi : i ≤ n) (hm : ∀ e ∈ m.head?, n < e.1) :
    Cells.get d m i = d := by
  cases m with
  | nil => rfl
  | cons e m =>
    have : n < e.1 := hm e (by simp)
    rw [Cells.get_cons, if_neg (by omega), if_pos (by omega)]

/-- Equal contents are equal lists. -/
theorem Cells.ext_get (d : α) (m n : Cells α) (hm : Cells.wf d m = true) (hn : Cells.wf d n = true)
    (h : ∀ i, Cells.get d m i = Cells.get d n i) : m = n := by
  induction m generalizing n with
  | nil =>
    cases n with
    | nil => rfl
    | cons e n =>
      have := h e.1
      rw [Cells.get_cons] at this
      simp at this
      exact absurd this.symm ((Cells.wf_cons d _ _ n).1 hn).1
  | cons e m ih =>
    obtain ⟨hx, hm', hk⟩ := (Cells.wf_cons d _ _ m).1 hm
    cases n with
    | nil =>
      have := h e.1
      rw [Cells.get_cons] at this
      simp at this
      exact absurd this hx
    | cons f n =>
      obtain ⟨hy, hn', hl⟩ := (Cells.wf_cons d _ _ n).1 hn
      have h1 : e.1 = f.1 := by
        rcases Nat.lt_trichotomy e.1 f.1 with hlt | heq | hgt
        · have := h e.1
          rw [Cells.get_cons, Cells.get_cons, if_pos rfl, if_neg (by omega), if_pos hlt] at this
          exact absurd this hx
        · exact heq
        · have := h f.1
          rw [Cells.get_cons, Cells.get_cons, if_neg (by omega), if_pos hgt, if_pos rfl] at this
          exact absurd this.symm hy
      have h2 : e.2 = f.2 := by
        have := h e.1
        rwa [Cells.get_cons, Cells.get_cons, if_pos rfl, if_pos h1.symm] at this
      have he : e = f := Prod.ext h1 h2
      subst he
      rw [ih n hm' hn' fun i => ?_]
      have := h i
      rw [Cells.get_cons, Cells.get_cons] at this
      by_cases hi : i ≤ e.1
      · rw [Cells.get_below d m e.1 i hi hk, Cells.get_below d n e.1 i hi hl]
      · rwa [if_neg (by omega), if_neg (by omega), if_neg (by omega), if_neg (by omega)] at this

/-- The last of two writes to one number counts. -/
@[simp] theorem Tab.put_put {α : Type} [DecidableEq α] (m : Tab α) (j : Nat) (v w : α) : (m.put j v).put j w = m.put j w := by
  unfold Tab.put
  induction m with
  | nil => simp [Cells.set]
  | cons e m ih =>
    obtain ⟨k, x⟩ := e
    by_cases h1 : k < j
    · simp only [Cells.set, h1, if_true] at ih ⊢
      rw [ih]
    · by_cases h2 : k = j
      · subst h2; simp [Cells.set]
      · simp [Cells.set, h1, h2]

@[simp] theorem Tab.upd_put {α : Type} [DecidableEq α] (m : Tab α) (j : Nat) (v : α) (f : α → α) : (m.put j v).upd j f = m.put j (f v) := by
  unfold Tab.upd
  rw [Tab.find_put]
  exact Tab.put_put m j v (f v)

end Sys2Proof.Machine
end

