-- ==== Sys2Proof/Laws/Dispatch.lean ====
section
/-! SUPPORT. What exec is for each instruction: its meaning, called directly. -/

namespace Sys2Proof.Machine

@[simp] theorem exec_sadd (d a b : SReg) (s : State) :
    exec (.sadd d a b) s = execSadd d a b s := rfl
@[simp] theorem exec_ssub (d a b : SReg) (s : State) :
    exec (.ssub d a b) s = execSsub d a b s := rfl
@[simp] theorem exec_smul (d a b : SReg) (s : State) :
    exec (.smul d a b) s = execSmul d a b s := rfl
@[simp] theorem exec_smulh (n : Sgn) (d a b : SReg) (s : State) :
    exec (.smulh n d a b) s = execSmulh n d a b s := rfl
@[simp] theorem exec_sdiv (n : Sgn) (la : La) (d a b : SReg) (s : State) :
    exec (.sdiv n la d a b) s = execSdiv n la d a b s := rfl
@[simp] theorem exec_srem (n : Sgn) (la : La) (d a b : SReg) (s : State) :
    exec (.srem n la d a b) s = execSrem n la d a b s := rfl
@[simp] theorem exec_sand (d a b : SReg) (s : State) :
    exec (.sand d a b) s = execSand d a b s := rfl
@[simp] theorem exec_sor (d a b : SReg) (s : State) :
    exec (.sor d a b) s = execSor d a b s := rfl
@[simp] theorem exec_sxor (d a b : SReg) (s : State) :
    exec (.sxor d a b) s = execSxor d a b s := rfl
@[simp] theorem exec_sshl (d a : SReg) (b : ShAmt) (s : State) :
    exec (.sshl d a b) s = execSshl d a b s := rfl
@[simp] theorem exec_sshr (d a : SReg) (b : ShAmt) (s : State) :
    exec (.sshr d a b) s = execSshr d a b s := rfl
@[simp] theorem exec_ssra (d a : SReg) (b : ShAmt) (s : State) :
    exec (.ssra d a b) s = execSsra d a b s := rfl
@[simp] theorem exec_smin (n : Sgn) (d a b : SReg) (s : State) :
    exec (.smin n d a b) s = execSmin n d a b s := rfl
@[simp] theorem exec_smax (n : Sgn) (d a b : SReg) (s : State) :
    exec (.smax n d a b) s = execSmax n d a b s := rfl
@[simp] theorem exec_sclz (d a : SReg) (s : State) :
    exec (.sclz d a) s = execSclz d a s := rfl
@[simp] theorem exec_spopc (d a : SReg) (s : State) :
    exec (.spopc d a) s = execSpopc d a s := rfl
@[simp] theorem exec_sbfx (sx : Bool) (d a : SReg) (pos : Fin 64) (len : BitVec 7) (s : State) :
    exec (.sbfx sx d a pos len) s = execSbfx sx d a pos len s := rfl
@[simp] theorem exec_sbfi (d a : SReg) (pos : Fin 64) (len : BitVec 7) (s : State) :
    exec (.sbfi d a pos len) s = execSbfi d a pos len s := rfl
@[simp] theorem exec_scmp (cc : Cc) (n : Sgn) (d : PReg) (a b : SReg) (s : State) :
    exec (.scmp cc n d a b) s = execScmp cc n d a b s := rfl
@[simp] theorem exec_ssel (g : Guard) (d a b : SReg) (sel : Guard) (s : State) :
    exec (.ssel g d a b sel) s = execSsel g d a b sel s := rfl
@[simp] theorem exec_smov (d a : SReg) (s : State) :
    exec (.smov d a) s = execSmov d a s := rfl
@[simp] theorem exec_saddi (d a : SReg) (imm : BitVec 30) (s : State) :
    exec (.saddi d a imm) s = execSaddi d a imm s := rfl
@[simp] theorem exec_smovi (d : SReg) (imm : BitVec 30) (s : State) :
    exec (.smovi d imm) s = execSmovi d imm s := rfl
@[simp] theorem exec_smoviL (d : SReg) (lit : BitVec 64) (s : State) :
    exec (.smoviL d lit) s = execSmoviL d lit s := rfl
@[simp] theorem exec_slit (d : SReg) (lit : BitVec 64) (s : State) :
    exec (.slit d lit) s = execSlit d lit s := rfl
@[simp] theorem exec_saddr (d a b : SReg) (sc : Fin 8) (disp : BitVec 19) (s : State) :
    exec (.saddr d a b sc disp) s = execSaddr d a b sc disp s := rfl
@[simp] theorem exec_vadd (d a : VReg) (b : VSrc) (s : State) :
    exec (.vadd d a b) s = execVadd d a b s := rfl
@[simp] theorem exec_vsub (d a : VReg) (b : VSrc) (s : State) :
    exec (.vsub d a b) s = execVsub d a b s := rfl
@[simp] theorem exec_vmul (d a : VReg) (b : VSrc) (s : State) :
    exec (.vmul d a b) s = execVmul d a b s := rfl
@[simp] theorem exec_vmulh (n : Sgn) (d a : VReg) (b : VSrc) (s : State) :
    exec (.vmulh n d a b) s = execVmulh n d a b s := rfl
@[simp] theorem exec_vmad (d a : VReg) (b : VSrc) (s : State) :
    exec (.vmad d a b) s = execVmad d a b s := rfl
@[simp] theorem exec_vadds (n : Sgn) (d a : VReg) (b : VSrc) (s : State) :
    exec (.vadds n d a b) s = execVadds n d a b s := rfl
@[simp] theorem exec_vsubs (n : Sgn) (d a : VReg) (b : VSrc) (s : State) :
    exec (.vsubs n d a b) s = execVsubs n d a b s := rfl
@[simp] theorem exec_vand (d a : VReg) (b : VSrc) (s : State) :
    exec (.vand d a b) s = execVand d a b s := rfl
@[simp] theorem exec_vor (d a : VReg) (b : VSrc) (s : State) :
    exec (.vor d a b) s = execVor d a b s := rfl
@[simp] theorem exec_vxor (d a : VReg) (b : VSrc) (s : State) :
    exec (.vxor d a b) s = execVxor d a b s := rfl
@[simp] theorem exec_vshl (d a : VReg) (b : VShAmt) (s : State) :
    exec (.vshl d a b) s = execVshl d a b s := rfl
@[simp] theorem exec_vshr (d a : VReg) (b : VShAmt) (s : State) :
    exec (.vshr d a b) s = execVshr d a b s := rfl
@[simp] theorem exec_vsra (d a : VReg) (b : VShAmt) (s : State) :
    exec (.vsra d a b) s = execVsra d a b s := rfl
@[simp] theorem exec_vmin (n : Sgn) (d a : VReg) (b : VSrc) (s : State) :
    exec (.vmin n d a b) s = execVmin n d a b s := rfl
@[simp] theorem exec_vmax (n : Sgn) (d a : VReg) (b : VSrc) (s : State) :
    exec (.vmax n d a b) s = execVmax n d a b s := rfl
@[simp] theorem exec_vabs (sat : Bool) (d a : VReg) (s : State) :
    exec (.vabs sat d a) s = execVabs sat d a s := rfl
@[simp] theorem exec_vclz (d a : VReg) (s : State) :
    exec (.vclz d a) s = execVclz d a s := rfl
@[simp] theorem exec_vpopc (d a : VReg) (s : State) :
    exec (.vpopc d a) s = execVpopc d a s := rfl
@[simp] theorem exec_vbfx (sx : Bool) (d a : VReg) (pos : Fin 64) (len : BitVec 7) (s : State) :
    exec (.vbfx sx d a pos len) s = execVbfx sx d a pos len s := rfl
@[simp] theorem exec_vbfi (d a : VReg) (pos : Fin 64) (len : BitVec 7) (s : State) :
    exec (.vbfi d a pos len) s = execVbfi d a pos len s := rfl
@[simp] theorem exec_vcmp (cc : Cc) (n : Sgn) (d : PReg) (a : VReg) (b : VSrc) (s : State) :
    exec (.vcmp cc n d a b) s = execVcmp cc n d a b s := rfl
@[simp] theorem exec_vsel (g : Guard) (d a : VReg) (b : VSrc) (sel : Guard) (s : State) :
    exec (.vsel g d a b sel) s = execVsel g d a b sel s := rfl
@[simp] theorem exec_vmov (d a : VReg) (s : State) :
    exec (.vmov d a) s = execVmov d a s := rfl
@[simp] theorem exec_vmovi (d : VReg) (imm : BitVec 30) (s : State) :
    exec (.vmovi d imm) s = execVmovi d imm s := rfl
@[simp] theorem exec_vmoviL (d : VReg) (lit : BitVec 32) (s : State) :
    exec (.vmoviL d lit) s = execVmoviL d lit s := rfl
@[simp] theorem exec_vaddi (d a : VReg) (imm : BitVec 30) (s : State) :
    exec (.vaddi d a imm) s = execVaddi d a imm s := rfl
@[simp] theorem exec_vbcast (hi : Bool) (d : VReg) (a : SReg) (s : State) :
    exec (.vbcast hi d a) s = execVbcast hi d a s := rfl
@[simp] theorem exec_vaddr (n : Sgn) (d a b : VReg) (sc : Fin 8) (disp : BitVec 19) (s : State) :
    exec (.vaddr n d a b sc disp) s = execVaddr n d a b sc disp s := rfl
@[simp] theorem exec_vdp4 (na nb : Sgn) (d a : VReg) (b : VSrc) (s : State) :
    exec (.vdp4 na nb d a b) s = execVdp4 na nb d a b s := rfl
@[simp] theorem exec_vfadd (rm : Rm) (d a : VReg) (b : VSrc) (s : State) :
    exec (.vfadd rm d a b) s = execVfadd rm d a b s := rfl
@[simp] theorem exec_vfsub (rm : Rm) (d a : VReg) (b : VSrc) (s : State) :
    exec (.vfsub rm d a b) s = execVfsub rm d a b s := rfl
@[simp] theorem exec_vfmul (rm : Rm) (d a : VReg) (b : VSrc) (s : State) :
    exec (.vfmul rm d a b) s = execVfmul rm d a b s := rfl
@[simp] theorem exec_vfma (rm : Rm) (d a : VReg) (b : VSrc) (s : State) :
    exec (.vfma rm d a b) s = execVfma rm d a b s := rfl
@[simp] theorem exec_vfnma (rm : Rm) (d a : VReg) (b : VSrc) (s : State) :
    exec (.vfnma rm d a b) s = execVfnma rm d a b s := rfl
@[simp] theorem exec_vfmin (d a : VReg) (b : VSrc) (s : State) :
    exec (.vfmin d a b) s = execVfmin d a b s := rfl
@[simp] theorem exec_vfmax (d a : VReg) (b : VSrc) (s : State) :
    exec (.vfmax d a b) s = execVfmax d a b s := rfl
@[simp] theorem exec_vfabs (d a : VReg) (s : State) :
    exec (.vfabs d a) s = execVfabs d a s := rfl
@[simp] theorem exec_vfneg (d a : VReg) (s : State) :
    exec (.vfneg d a) s = execVfneg d a s := rfl
@[simp] theorem exec_vfcmp (cc : Fcc) (d : PReg) (a : VReg) (b : VSrc) (s : State) :
    exec (.vfcmp cc d a b) s = execVfcmp cc d a b s := rfl
@[simp] theorem exec_vfclass (d a : VReg) (s : State) :
    exec (.vfclass d a) s = execVfclass d a s := rfl
@[simp] theorem exec_vfrcp (la : La) (d a : VReg) (s : State) :
    exec (.vfrcp la d a) s = execVfrcp la d a s := rfl
@[simp] theorem exec_vfrsq (la : La) (d a : VReg) (s : State) :
    exec (.vfrsq la d a) s = execVfrsq la d a s := rfl
@[simp] theorem exec_vfdiv (la : La) (rm : Rm) (d a : VReg) (b : VSrc) (s : State) :
    exec (.vfdiv la rm d a b) s = execVfdiv la rm d a b s := rfl
@[simp] theorem exec_vfsqrt (la : La) (rm : Rm) (d a : VReg) (s : State) :
    exec (.vfsqrt la rm d a) s = execVfsqrt la rm d a s := rfl
@[simp] theorem exec_vfexp2 (la : La) (d a : VReg) (s : State) :
    exec (.vfexp2 la d a) s = execVfexp2 la d a s := rfl
@[simp] theorem exec_vflog2 (la : La) (d a : VReg) (s : State) :
    exec (.vflog2 la d a) s = execVflog2 la d a s := rfl
@[simp] theorem exec_vfrnd (rm : Rm) (d a : VReg) (s : State) :
    exec (.vfrnd rm d a) s = execVfrnd rm d a s := rfl
@[simp] theorem exec_vhadd (hf : Hf) (rm : Rm) (d a : VReg) (b : VSrc) (s : State) :
    exec (.vhadd hf rm d a b) s = execVhadd hf rm d a b s := rfl
@[simp] theorem exec_vhmul (hf : Hf) (rm : Rm) (d a : VReg) (b : VSrc) (s : State) :
    exec (.vhmul hf rm d a b) s = execVhmul hf rm d a b s := rfl
@[simp] theorem exec_vhfma (hf : Hf) (rm : Rm) (d a : VReg) (b : VSrc) (s : State) :
    exec (.vhfma hf rm d a b) s = execVhfma hf rm d a b s := rfl
@[simp] theorem exec_vfdot2 (hf : Hf) (rm : Rm) (d a : VReg) (b : VSrc) (s : State) :
    exec (.vfdot2 hf rm d a b) s = execVfdot2 hf rm d a b s := rfl
@[simp] theorem exec_vcvt (dt st : CvtTy) (rm : Rm) (dhi shi : Bool) (d a : VReg) (s : State) :
    exec (.vcvt dt st rm dhi shi d a) s = execVcvt dt st rm dhi shi d a s := rfl
@[simp] theorem exec_vnpk (bl : Bl) (d a : VReg) (s : State) :
    exec (.vnpk bl d a) s = execVnpk bl d a s := rfl
@[simp] theorem exec_vnupk (bl : Bl) (p : Fin 16) (mid : Bool) (d a : VReg) (s : State) :
    exec (.vnupk bl p mid d a) s = execVnupk bl p mid d a s := rfl
@[simp] theorem exec_vshuf (d a b : VReg) (s : State) :
    exec (.vshuf d a b) s = execVshuf d a b s := rfl
@[simp] theorem exec_vrot (d a : VReg) (k : LaneSel) (s : State) :
    exec (.vrot d a k) s = execVrot d a k s := rfl
@[simp] theorem exec_vred (la : La) (op : RedOp) (rm : Rm) (d : SReg) (a : VReg) (s : State) :
    exec (.vred la op rm d a) s = execVred la op rm d a s := rfl
@[simp] theorem exec_vscan (la : La) (op : RedOp) (rm : Rm) (d a : VReg) (s : State) :
    exec (.vscan la op rm d a) s = execVscan la op rm d a s := rfl
@[simp] theorem exec_vvote (v : Vote) (a : PReg) (s : State) :
    exec (.vvote v a) s = execVvote v a s := rfl
@[simp] theorem exec_vext (sx : Bool) (d : SReg) (a : VReg) (k : LaneSel) (s : State) :
    exec (.vext sx d a k) s = execVext sx d a k s := rfl
@[simp] theorem exec_vins (d : VReg) (a : SReg) (k : LaneSel) (s : State) :
    exec (.vins d a k) s = execVins d a k s := rfl
@[simp] theorem exec_vlane (le : Bool) (d : VReg) (a : PReg) (s : State) :
    exec (.vlane le d a) s = execVlane le d a s := rfl
@[simp] theorem exec_plog (tt : BitVec 4) (d a b : PReg) (s : State) :
    exec (.plog tt d a b) s = execPlog tt d a b s := rfl
@[simp] theorem exec_pset (d : PReg) (a : SReg) (s : State) :
    exec (.pset d a) s = execPset d a s := rfl
@[simp] theorem exec_pget (d : SReg) (a : PReg) (s : State) :
    exec (.pget d a) s = execPget d a s := rfl
@[simp] theorem exec_emrd (d : SReg) (s : State) :
    exec (.emrd d) s = execEmrd d s := rfl
@[simp] theorem exec_emwr (a : SReg) (s : State) :
    exec (.emwr a) s = execEmwr a s := rfl
@[simp] theorem exec_pairVadd (d a : VReg) (h1 : Half) (s : State) :
    exec (.pairVadd d a h1) s = execPairVadd d a h1 s := rfl
@[simp] theorem exec_pairVsub (d a : VReg) (h1 : Half) (s : State) :
    exec (.pairVsub d a h1) s = execPairVsub d a h1 s := rfl
@[simp] theorem exec_pairVmul (d a : VReg) (h1 : Half) (s : State) :
    exec (.pairVmul d a h1) s = execPairVmul d a h1 s := rfl
@[simp] theorem exec_pairVand (d a : VReg) (h1 : Half) (s : State) :
    exec (.pairVand d a h1) s = execPairVand d a h1 s := rfl
@[simp] theorem exec_pairVor (d a : VReg) (h1 : Half) (s : State) :
    exec (.pairVor d a h1) s = execPairVor d a h1 s := rfl
@[simp] theorem exec_pairVxor (d a : VReg) (h1 : Half) (s : State) :
    exec (.pairVxor d a h1) s = execPairVxor d a h1 s := rfl
@[simp] theorem exec_pairVshl (d a : VReg) (h1 : Half) (s : State) :
    exec (.pairVshl d a h1) s = execPairVshl d a h1 s := rfl
@[simp] theorem exec_pairVshr (d a : VReg) (h1 : Half) (s : State) :
    exec (.pairVshr d a h1) s = execPairVshr d a h1 s := rfl
@[simp] theorem exec_pairVsra (d a : VReg) (h1 : Half) (s : State) :
    exec (.pairVsra d a h1) s = execPairVsra d a h1 s := rfl
@[simp] theorem exec_pairVmin (n : Sgn) (d a : VReg) (h1 : Half) (s : State) :
    exec (.pairVmin n d a h1) s = execPairVmin n d a h1 s := rfl
@[simp] theorem exec_pairVmax (n : Sgn) (d a : VReg) (h1 : Half) (s : State) :
    exec (.pairVmax n d a h1) s = execPairVmax n d a h1 s := rfl
@[simp] theorem exec_pairVmov (d a : VReg) (h1 : Half) (s : State) :
    exec (.pairVmov d a h1) s = execPairVmov d a h1 s := rfl
@[simp] theorem exec_pairVaddi (d a : VReg) (x : BitVec 10) (h1 : Half) (s : State) :
    exec (.pairVaddi d a x h1) s = execPairVaddi d a x h1 s := rfl
@[simp] theorem exec_pairVmovi (d : VReg) (x : BitVec 10) (h1 : Half) (s : State) :
    exec (.pairVmovi d x h1) s = execPairVmovi d x h1 s := rfl
@[simp] theorem exec_pairVfadd (rm : Rm) (d a : VReg) (h1 : Half) (s : State) :
    exec (.pairVfadd rm d a h1) s = execPairVfadd rm d a h1 s := rfl
@[simp] theorem exec_pairVfsub (rm : Rm) (d a : VReg) (h1 : Half) (s : State) :
    exec (.pairVfsub rm d a h1) s = execPairVfsub rm d a h1 s := rfl
@[simp] theorem exec_pairVfmul (rm : Rm) (d a : VReg) (h1 : Half) (s : State) :
    exec (.pairVfmul rm d a h1) s = execPairVfmul rm d a h1 s := rfl
@[simp] theorem exec_pairVfmin (d a : VReg) (h1 : Half) (s : State) :
    exec (.pairVfmin d a h1) s = execPairVfmin d a h1 s := rfl
@[simp] theorem exec_pairVfmax (d a : VReg) (h1 : Half) (s : State) :
    exec (.pairVfmax d a h1) s = execPairVfmax d a h1 s := rfl
@[simp] theorem exec_pairVhadd (rm : Rm) (d a : VReg) (h1 : Half) (s : State) :
    exec (.pairVhadd rm d a h1) s = execPairVhadd rm d a h1 s := rfl
@[simp] theorem exec_pairVhmul (rm : Rm) (d a : VReg) (h1 : Half) (s : State) :
    exec (.pairVhmul rm d a h1) s = execPairVhmul rm d a h1 s := rfl
@[simp] theorem exec_pairSadd (d a : SReg) (h1 : Half) (s : State) :
    exec (.pairSadd d a h1) s = execPairSadd d a h1 s := rfl
@[simp] theorem exec_pairSsub (d a : SReg) (h1 : Half) (s : State) :
    exec (.pairSsub d a h1) s = execPairSsub d a h1 s := rfl
@[simp] theorem exec_pairSand (d a : SReg) (h1 : Half) (s : State) :
    exec (.pairSand d a h1) s = execPairSand d a h1 s := rfl
@[simp] theorem exec_pairSor (d a : SReg) (h1 : Half) (s : State) :
    exec (.pairSor d a h1) s = execPairSor d a h1 s := rfl
@[simp] theorem exec_pairSxor (d a : SReg) (h1 : Half) (s : State) :
    exec (.pairSxor d a h1) s = execPairSxor d a h1 s := rfl
@[simp] theorem exec_pairSshl (d a : SReg) (h1 : Half) (s : State) :
    exec (.pairSshl d a h1) s = execPairSshl d a h1 s := rfl
@[simp] theorem exec_pairSshr (d a : SReg) (h1 : Half) (s : State) :
    exec (.pairSshr d a h1) s = execPairSshr d a h1 s := rfl
@[simp] theorem exec_pairSmov (d a : SReg) (h1 : Half) (s : State) :
    exec (.pairSmov d a h1) s = execPairSmov d a h1 s := rfl
@[simp] theorem exec_pairSaddi (d a : SReg) (x : BitVec 10) (h1 : Half) (s : State) :
    exec (.pairSaddi d a x h1) s = execPairSaddi d a x h1 s := rfl
@[simp] theorem exec_pairSmovi (d : SReg) (x : BitVec 10) (h1 : Half) (s : State) :
    exec (.pairSmovi d x h1) s = execPairSmovi d x h1 s := rfl
@[simp] theorem exec_ext (payload : BitVec 60) (s : State) :
    exec (.ext payload) s = execExt payload s := rfl
@[simp] theorem exec_ld (wt : Wait) (la : La) (sz : Sz) (n : Sgn) (d a : VReg) (disp : BitVec 17) (s : State) :
    exec (.ld wt la sz n d a disp) s = execLd wt la sz n d a disp s := rfl
@[simp] theorem exec_st (g : Guard) (wt : Wait) (sz : Sz) (d a : VReg) (disp : BitVec 17) (s : State) :
    exec (.st g wt sz d a disp) s = execSt g wt sz d a disp s := rfl
@[simp] theorem exec_lds (wt : Wait) (la : La) (sz : Sz) (n : Sgn) (d : VReg) (a : VSrc) (disp : BitVec 17) (s : State) :
    exec (.lds wt la sz n d a disp) s = execLds wt la sz n d a disp s := rfl
@[simp] theorem exec_sts (g : Guard) (wt : Wait) (sz : Sz) (d : VReg) (a : VSrc) (disp : BitVec 17) (s : State) :
    exec (.sts g wt sz d a disp) s = execSts g wt sz d a disp s := rfl
@[simp] theorem exec_ldro (wt : Wait) (la : La) (sz : Sz) (n : Sgn) (d a : VReg) (disp : BitVec 17) (s : State) :
    exec (.ldro wt la sz n d a disp) s = execLdro wt la sz n d a disp s := rfl
@[simp] theorem exec_sld (wt : Wait) (la : La) (sz : Sz) (n : Sgn) (sp : Bool) (d a : SReg) (disp : BitVec 17) (s : State) :
    exec (.sld wt la sz n sp d a disp) s = execSld wt la sz n sp d a disp s := rfl
@[simp] theorem exec_sst (g : Guard) (wt : Wait) (sz : Sz) (sp : Bool) (d a : SReg) (disp : BitVec 17) (s : State) :
    exec (.sst g wt sz sp d a disp) s = execSst g wt sz sp d a disp s := rfl
@[simp] theorem exec_red (g : Guard) (wt : Wait) (la : La) (wide : Bool) (op : MemRed) (sc : Scope) (ret : Option VReg) (a b : VReg) (s : State) :
    exec (.red g wt la wide op sc ret a b) s = execRed g wt la wide op sc ret a b s := rfl
@[simp] theorem exec_roinv (wt : Wait) (s : State) :
    exec (.roinv wt) s = execRoinv wt s := rfl
@[simp] theorem exec_pref (wt : Wait) (l2 : Bool) (a : VSrc) (disp : BitVec 17) (s : State) :
    exec (.pref wt l2 a disp) s = execPref wt l2 a disp s := rfl
@[simp] theorem exec_cadd (la : La) (ret : Option SReg) (a : SReg) (v : CVal) (rel : Option Scope) (s : State) :
    exec (.cadd la ret a v rel) s = execCadd la ret a v rel s := rfl
@[simp] theorem exec_caddv (g : Guard) (la : La) (ret : Option VReg) (a b : VReg) (rel : Option Scope) (s : State) :
    exec (.caddv g la ret a b rel) s = execCaddv g la ret a b rel s := rfl
@[simp] theorem exec_cwait (a b : SReg) (acq : Option Scope) (s : State) :
    exec (.cwait a b acq) s = execCwait a b acq s := rfl
@[simp] theorem exec_cwaita (d a : SReg) (cnt : Fin 4) (acq : Option Scope) (s : State) :
    exec (.cwaita d a cnt acq) s = execCwaita d a cnt acq s := rfl
@[simp] theorem exec_cread (la : La) (d a : SReg) (acq : Option Scope) (s : State) :
    exec (.cread la d a acq) s = execCread la d a acq s := rfl
@[simp] theorem exec_ctest (d : PReg) (a b : SReg) (acq : Option Scope) (s : State) :
    exec (.ctest d a b acq) s = execCtest d a b acq s := rfl
@[simp] theorem exec_cset (a b : SReg) (s : State) :
    exec (.cset a b) s = execCset a b s := rfl
@[simp] theorem exec_qpush (g : Guard) (q : RingN) (a : VReg) (x : Option SReg) (s : State) :
    exec (.qpush g q a x) s = execQpush g q a x s := rfl
@[simp] theorem exec_qpop (la : La) (acq : Bool) (q : RingN) (d : VReg) (p : PReg) (x : Option SReg) (s : State) :
    exec (.qpop la acq q d p x) s = execQpop la acq q d p x s := rfl
@[simp] theorem exec_qinfo (la : La) (q : RingN) (d : SReg) (x : Option SReg) (s : State) :
    exec (.qinfo la q d x) s = execQinfo la q d x s := rfl
@[simp] theorem exec_bra (disp : BitVec 30) (s : State) :
    exec (.bra disp) s = execBra disp s := rfl
@[simp] theorem exec_braL (target : BitVec 56) (s : State) :
    exec (.braL target) s = execBraL target s := rfl
@[simp] theorem exec_brc (g : Guard) (disp : BitVec 30) (s : State) :
    exec (.brc g disp) s = execBrc g disp s := rfl
@[simp] theorem exec_brd (g : Guard) (tok : BitVec 8) (disp : BitVec 22) (s : State) :
    exec (.brd g tok disp) s = execBrd g tok disp s := rfl
@[simp] theorem exec_join (tok : BitVec 8) (s : State) :
    exec (.join tok) s = execJoin tok s := rfl
@[simp] theorem exec_call (link : Link) (disp : BitVec 30) (s : State) :
    exec (.call link disp) s = execCall link disp s := rfl
@[simp] theorem exec_callL (link : Link) (target : BitVec 56) (s : State) :
    exec (.callL link target) s = execCallL link target s := rfl
@[simp] theorem exec_ret (link : Link) (s : State) :
    exec (.ret link) s = execRet link s := rfl
@[simp] theorem exec_jmpi (link : Link) (b : SReg) (s : State) :
    exec (.jmpi link b) s = execJmpi link b s := rfl
@[simp] theorem exec_sdbnz (d : SReg) (disp : BitVec 30) (s : State) :
    exec (.sdbnz d disp) s = execSdbnz d disp s := rfl
@[simp] theorem exec_yieldW (wt : Wait) (disp : BitVec 22) (s : State) :
    exec (.yieldW wt disp) s = execYieldW wt disp s := rfl
@[simp] theorem exec_waitt (wt : Wait) (s : State) :
    exec (.waitt wt) s = execWaitt wt s := rfl
@[simp] theorem exec_stop  (s : State) :
    exec (.stop) s = execStop s := rfl
@[simp] theorem exec_trap (n : Fin 8) (payload : BitVec 20) (s : State) :
    exec (.trap n payload) s = execTrap n payload s := rfl
@[simp] theorem exec_nop  (s : State) :
    exec (.nop) s = execNop s := rfl
@[simp] theorem exec_cpy (wt : Wait) (tok : Tok) (ds ss : Bool) (sz : CSz) (d a : VReg) (ca : Option CAdd) (s : State) :
    exec (.cpy wt tok ds ss sz d a ca) s = execCpy wt tok ds ss sz d a ca s := rfl
@[simp] theorem exec_cpyt (wt : Wait) (tok : Tok) (ps st : Bool) (d a : SReg) (ca : Option CAdd) (s : State) :
    exec (.cpyt wt tok ps st d a ca) s = execCpyt wt tok ps st d a ca s := rfl
@[simp] theorem exec_cpyf (wt : Wait) (tok : Tok) (ds : Bool) (sz : Sz) (d a : SReg) (ca : Option CAdd) (s : State) :
    exec (.cpyf wt tok ds sz d a ca) s = execCpyf wt tok ds sz d a ca s := rfl
@[simp] theorem exec_cpyq (wt : Wait) (la : La) (tok : Tok) (d : SReg) (s : State) :
    exec (.cpyq wt la tok d) s = execCpyq wt la tok d s := rfl
@[simp] theorem exec_cpyx (wt : Wait) (tok : Tok) (s : State) :
    exec (.cpyx wt tok) s = execCpyx wt tok s := rfl
@[simp] theorem exec_baton (wt : Wait) (s : State) :
    exec (.baton wt) s = execBaton wt s := rfl
@[simp] theorem exec_bpass (wt : Wait) (a : Option SReg) (s : State) :
    exec (.bpass wt a) s = execBpass wt a s := rfl
@[simp] theorem exec_mbq (wt : Wait) (c : Bool) (q : Fin 4) (a : VReg) (s : State) :
    exec (.mbq wt c q a) s = execMbq wt c q a s := rfl
@[simp] theorem exec_mbqs (wt : Wait) (tok : Tok) (c : Bool) (q : Fin 4) (a : SReg) (s : State) :
    exec (.mbqs wt tok c q a) s = execMbqs wt tok c q a s := rfl
@[simp] theorem exec_mma (wt : Wait) (tok : Tok) (rep : BitVec 8) (fs : Bool) (d : Tile) (a b : SReg) (s : State) :
    exec (.mma wt tok rep fs d a b) s = execMma wt tok rep fs d a b s := rfl
@[simp] theorem exec_mzero (wt : Wait) (d : Tile) (cnt : Fin 16) (s : State) :
    exec (.mzero wt d cnt) s = execMzero wt d cnt s := rfl
@[simp] theorem exec_mloada (wt : Wait) (d : Tile) (a : SReg) (s : State) :
    exec (.mloada wt d a) s = execMloada wt d a s := rfl
@[simp] theorem exec_mdrain (wt : Wait) (la : La) (dst : DrainDst) (a : Tile) (rg nrg : Fin 8) (dt : DrainTy) (ty : AccTy) (rm : Rm) (bl : Bl) (s : State) :
    exec (.mdrain wt la dst a rg nrg dt ty rm bl) s = execMdrain wt la dst a rg nrg dt ty rm bl s := rfl
@[simp] theorem exec_mcmpr (wt : Wait) (fmt : MFmt) (bl : Bl) (d a b : SReg) (s : State) :
    exec (.mcmpr wt fmt bl d a b) s = execMcmpr wt fmt bl d a b s := rfl
@[simp] theorem exec_mstat (wt : Wait) (la : La) (tok : Tok) (clr : Bool) (d : SReg) (s : State) :
    exec (.mstat wt la tok clr d) s = execMstat wt la tok clr d s := rfl
@[simp] theorem exec_dbw (a b : SReg) (s : State) :
    exec (.dbw a b) s = execDbw a b s := rfl
@[simp] theorem exec_iold (la : La) (cfg : Bool) (sz : Sz) (d a : SReg) (disp : BitVec 19) (s : State) :
    exec (.iold la cfg sz d a disp) s = execIold la cfg sz d a disp s := rfl
@[simp] theorem exec_iost (cfg : Bool) (sz : Sz) (a b : SReg) (disp : BitVec 19) (s : State) :
    exec (.iost cfg sz a b disp) s = execIost cfg sz a b disp s := rfl
@[simp] theorem exec_srd (la : La) (num : BitVec 12) (d : Fin 128) (s : State) :
    exec (.srd la num d) s = execSrd la num d s := rfl
@[simp] theorem exec_swr (num : BitVec 12) (a : SReg) (s : State) :
    exec (.swr num a) s = execSwr num a s := rfl
@[simp] theorem exec_fpflagsWrite (a : SReg) (s : State) :
    exec (.fpflagsWrite a) s = execFpflagsWrite a s := rfl
@[simp] theorem exec_stageqWrite (a : SReg) (s : State) :
    exec (.stageqWrite a) s = execStageqWrite a s := rfl
@[simp] theorem exec_eret  (s : State) :
    exec (.eret) s = execEret s := rfl
@[simp] theorem exec_tlbi (kind : TlbiKind) (g : Bool) (a : SReg) (s : State) :
    exec (.tlbi kind g a) s = execTlbi kind g a s := rfl
@[simp] theorem exec_pgharv (clr : Bool) (d a : SReg) (s : State) :
    exec (.pgharv clr d a) s = execPgharv clr d a s := rfl
@[simp] theorem exec_cscope (a : SReg) (e : Fin 32) (s : State) :
    exec (.cscope a e) s = execCscope a e s := rfl
@[simp] theorem exec_bmode (tr : BankTr) (q : RingN) (s : State) :
    exec (.bmode tr q) s = execBmode tr q s := rfl
@[simp] theorem exec_msib (mode : MsiMode) (a : SReg) (s : State) :
    exec (.msib mode a) s = execMsib mode a s := rfl
@[simp] theorem exec_atsinv (all : Bool) (a : SReg) (s : State) :
    exec (.atsinv all a) s = execAtsinv all a s := rfl
@[simp] theorem exec_prgr (rc : PrgCode) (a : SReg) (s : State) :
    exec (.prgr rc a) s = execPrgr rc a s := rfl
@[simp] theorem exec_svcall (a : SReg) (n : Fin 64) (s : State) :
    exec (.svcall a n) s = execSvcall a n s := rfl
@[simp] theorem exec_park (a b : SReg) (acq : Option Scope) (s : State) :
    exec (.park a b acq) s = execPark a b acq s := rfl
@[simp] theorem exec_plaunch (a : SReg) (s : State) :
    exec (.plaunch a) s = execPlaunch a s := rfl
@[simp] theorem exec_pcancel  (s : State) :
    exec (.pcancel) s = execPcancel s := rfl
@[simp] theorem exec_prepeat (a : SReg) (n : BitVec 8) (s : State) :
    exec (.prepeat a n) s = execPrepeat a n s := rfl
@[simp] theorem exec_halt (a : SReg) (s : State) :
    exec (.halt a) s = execHalt a s := rfl
@[simp] theorem exec_haltWake (gid slot : Nat) (s : State) :
    exec (.haltWake gid slot) s = execHaltWake gid slot s := rfl
@[simp] theorem exec_resultWrite (gid slot pid : Nat) (part : Option (Nat × Mask)) (s : State) :
    exec (.resultWrite gid slot pid part) s = execResultWrite gid slot pid part s := rfl
@[simp] theorem exec_issueCycle (core : Nat) (s : State) :
    exec (.issueCycle core) s = execIssueCycle core s := rfl
@[simp] theorem exec_swapExchange (core : Nat) (s : State) :
    exec (.swapExchange core) s = execSwapExchange core s := rfl
@[simp] theorem exec_pendingAgeExpiry (core : Nat) (s : State) :
    exec (.pendingAgeExpiry core) s = execPendingAgeExpiry core s := rfl
@[simp] theorem exec_homeCounterOp (op : Nat) (s : State) :
    exec (.homeCounterOp op) s = execHomeCounterOp op s := rfl
@[simp] theorem exec_coldMoveTick (home : Nat) (s : State) :
    exec (.coldMoveTick home) s = execColdMoveTick home s := rfl
@[simp] theorem exec_counterAnswer (ans : Nat) (s : State) :
    exec (.counterAnswer ans) s = execCounterAnswer ans s := rfl
@[simp] theorem exec_waiterRefusalLimit (op : Nat) (s : State) :
    exec (.waiterRefusalLimit op) s = execWaiterRefusalLimit op s := rfl
@[simp] theorem exec_writebackTimer (core sector : Nat) (evict : Bool) (s : State) :
    exec (.writebackTimer core sector evict) s = execWritebackTimer core sector evict s := rfl
@[simp] theorem exec_pageWalk (core pasid va : Nat) (s : State) :
    exec (.pageWalk core pasid va) s = execPageWalk core pasid va s := rfl
@[simp] theorem exec_parkThreshold (team : Nat) (s : State) :
    exec (.parkThreshold team) s = execParkThreshold team s := rfl
@[simp] theorem exec_parkSave (team : Nat) (s : State) :
    exec (.parkSave team) s = execParkSave team s := rfl
@[simp] theorem exec_teamRelaunch (team core : Nat) (s : State) :
    exec (.teamRelaunch team core) s = execTeamRelaunch team core s := rfl
@[simp] theorem exec_watchdogExpiry (ctx : Nat) (s : State) :
    exec (.watchdogExpiry ctx) s = execWatchdogExpiry ctx s := rfl
@[simp] theorem exec_copyEngineStart (die : Nat) (s : State) :
    exec (.copyEngineStart die) s = execCopyEngineStart die s := rfl
@[simp] theorem exec_copyChunk (copy : Nat) (s : State) :
    exec (.copyChunk copy) s = execCopyChunk copy s := rfl
@[simp] theorem exec_cpyComplete (copy : Nat) (s : State) :
    exec (.cpyComplete copy) s = execCpyComplete copy s := rfl
@[simp] theorem exec_engineOpPerform (core : Nat) (s : State) :
    exec (.engineOpPerform core) s = execEngineOpPerform core s := rfl
@[simp] theorem exec_mmaStep (core : Nat) (s : State) :
    exec (.mmaStep core) s = execMmaStep core s := rfl
@[simp] theorem exec_batonGrant (core : Nat) (s : State) :
    exec (.batonGrant core) s = execBatonGrant core s := rfl
@[simp] theorem exec_ringPublish (team ring : Nat) (s : State) :
    exec (.ringPublish team ring) s = execRingPublish team ring s := rfl
@[simp] theorem exec_ringRefill (team ring : Nat) (s : State) :
    exec (.ringRefill team ring) s = execRingRefill team ring s := rfl
@[simp] theorem exec_teamEnd (team : Nat) (s : State) :
    exec (.teamEnd team) s = execTeamEnd team s := rfl
@[simp] theorem exec_teamStop (team : Nat) (s : State) :
    exec (.teamStop team) s = execTeamStop team s := rfl
@[simp] theorem exec_faultLogFullTimeout (hub : Nat) (s : State) :
    exec (.faultLogFullTimeout hub) s = execFaultLogFullTimeout hub s := rfl
@[simp] theorem exec_debugBudgetExpiry (team : Nat) (s : State) :
    exec (.debugBudgetExpiry team) s = execDebugBudgetExpiry team s := rfl
@[simp] theorem exec_sramEccError (site : EccSite) (double : Bool) (s : State) :
    exec (.sramEccError site double) s = execSramEccError site double s := rfl
@[simp] theorem exec_qcbReread (queue : Nat) (s : State) :
    exec (.qcbReread queue) s = execQcbReread queue s := rfl
@[simp] theorem exec_packetTake (queue : Nat) (s : State) :
    exec (.packetTake queue) s = execPacketTake queue s := rfl
@[simp] theorem exec_launch (queue : Nat) (s : State) :
    exec (.launch queue) s = execLaunch queue s := rfl
@[simp] theorem exec_copyPacket (queue : Nat) (s : State) :
    exec (.copyPacket queue) s = execCopyPacket queue s := rfl
@[simp] theorem exec_caddPacket (queue : Nat) (s : State) :
    exec (.caddPacket queue) s = execCaddPacket queue s := rfl
@[simp] theorem exec_cwaitPacket (queue : Nat) (s : State) :
    exec (.cwaitPacket queue) s = execCwaitPacket queue s := rfl
@[simp] theorem exec_write (queue : Nat) (s : State) :
    exec (.write queue) s = execWrite queue s := rfl
@[simp] theorem exec_wrsig (queue : Nat) (s : State) :
    exec (.wrsig queue) s = execWrsig queue s := rfl
@[simp] theorem exec_graph (queue : Nat) (s : State) :
    exec (.graph queue) s = execGraph queue s := rfl
@[simp] theorem exec_marker (queue : Nat) (s : State) :
    exec (.marker queue) s = execMarker queue s := rfl
@[simp] theorem exec_prologueRun (launch : Nat) (s : State) :
    exec (.prologueRun launch) s = execPrologueRun launch s := rfl
@[simp] theorem exec_prologueTimeout (team : Nat) (s : State) :
    exec (.prologueTimeout team) s = execPrologueTimeout team s := rfl
@[simp] theorem exec_admission (launch : Nat) (s : State) :
    exec (.admission launch) s = execAdmission launch s := rfl
@[simp] theorem exec_teamDispatch (launch core : Nat) (s : State) :
    exec (.teamDispatch launch core) s = execTeamDispatch launch core s := rfl
@[simp] theorem exec_launchEnd (launch : Nat) (s : State) :
    exec (.launchEnd launch) s = execLaunchEnd launch s := rfl
@[simp] theorem exec_timeSliceExpiry (queue : Nat) (s : State) :
    exec (.timeSliceExpiry queue) s = execTimeSliceExpiry queue s := rfl
@[simp] theorem exec_preempt (team : Nat) (cause : Fin 8) (s : State) :
    exec (.preempt team cause) s = execPreempt team cause s := rfl
@[simp] theorem exec_staging (launch lin : Nat) (s : State) :
    exec (.staging launch lin) s = execStaging launch lin s := rfl
@[simp] theorem exec_arbiterAging (arb : Nat) (s : State) :
    exec (.arbiterAging arb) s = execArbiterAging arb s := rfl
@[simp] theorem exec_kernelNode (graph node : Nat) (s : State) :
    exec (.kernelNode graph node) s = execKernelNode graph node s := rfl
@[simp] theorem exec_copyNode (graph node : Nat) (s : State) :
    exec (.copyNode graph node) s = execCopyNode graph node s := rfl
@[simp] theorem exec_caddNode (graph node : Nat) (s : State) :
    exec (.caddNode graph node) s = execCaddNode graph node s := rfl
@[simp] theorem exec_cwaitNode (graph node : Nat) (s : State) :
    exec (.cwaitNode graph node) s = execCwaitNode graph node s := rfl
@[simp] theorem exec_condNode (graph node : Nat) (s : State) :
    exec (.condNode graph node) s = execCondNode graph node s := rfl
@[simp] theorem exec_loopNode (graph node : Nat) (s : State) :
    exec (.loopNode graph node) s = execLoopNode graph node s := rfl
@[simp] theorem exec_switchNode (graph node : Nat) (s : State) :
    exec (.switchNode graph node) s = execSwitchNode graph node s := rfl
@[simp] theorem exec_endNode (graph node : Nat) (s : State) :
    exec (.endNode graph node) s = execEndNode graph node s := rfl
@[simp] theorem exec_graphEnd (graph : Nat) (s : State) :
    exec (.graphEnd graph) s = execGraphEnd graph s := rfl
@[simp] theorem exec_graphWatchdog (graph : Nat) (s : State) :
    exec (.graphWatchdog graph) s = execGraphWatchdog graph s := rfl
@[simp] theorem exec_tmeMigration (pasid va frame tier : Nat) (s : State) :
    exec (.tmeMigration pasid va frame tier) s = execTmeMigration pasid va frame tier s := rfl
@[simp] theorem exec_pageClear (pa : Nat) (s : State) :
    exec (.pageClear pa) s = execPageClear pa s := rfl
@[simp] theorem exec_wipeRegionClear (region : Nat) (s : State) :
    exec (.wipeRegionClear region) s = execWipeRegionClear region s := rfl
@[simp] theorem exec_serviceOverrun (call : Nat) (s : State) :
    exec (.serviceOverrun call) s = execServiceOverrun call s := rfl
@[simp] theorem exec_echo (call : Nat) (s : State) :
    exec (.echo call) s = execEcho call s := rfl
@[simp] theorem exec_qattach (call : Nat) (s : State) :
    exec (.qattach call) s = execQattach call s := rfl
@[simp] theorem exec_qdetach (call : Nat) (s : State) :
    exec (.qdetach call) s = execQdetach call s := rfl
@[simp] theorem exec_ctxcreate (call : Nat) (s : State) :
    exec (.ctxcreate call) s = execCtxcreate call s := rfl
@[simp] theorem exec_ctxkill (call : Nat) (s : State) :
    exec (.ctxkill call) s = execCtxkill call s := rfl
@[simp] theorem exec_ctxresume (call : Nat) (s : State) :
    exec (.ctxresume call) s = execCtxresume call s := rfl
@[simp] theorem exec_ctxsuspend (call : Nat) (s : State) :
    exec (.ctxsuspend call) s = execCtxsuspend call s := rfl
@[simp] theorem exec_pagereq (call frame : Nat) (s : State) :
    exec (.pagereq call frame) s = execPagereq call frame s := rfl
@[simp] theorem exec_pageout (call : Nat) (s : State) :
    exec (.pageout call) s = execPageout call s := rfl
@[simp] theorem exec_map (call frame : Nat) (s : State) :
    exec (.map call frame) s = execMap call frame s := rfl
@[simp] theorem exec_unmap (call : Nat) (s : State) :
    exec (.unmap call) s = execUnmap call s := rfl
@[simp] theorem exec_protect (call : Nat) (s : State) :
    exec (.protect call) s = execProtect call s := rfl
@[simp] theorem exec_migrate (call frame : Nat) (s : State) :
    exec (.migrate call frame) s = execMigrate call frame s := rfl
@[simp] theorem exec_harvest (call : Nat) (s : State) :
    exec (.harvest call) s = execHarvest call s := rfl
@[simp] theorem exec_scopeset (call : Nat) (s : State) :
    exec (.scopeset call) s = execScopeset call s := rfl
@[simp] theorem exec_iolease (call : Nat) (s : State) :
    exec (.iolease call) s = execIolease call s := rfl
@[simp] theorem exec_iorelease (call : Nat) (s : State) :
    exec (.iorelease call) s = execIorelease call s := rfl
@[simp] theorem exec_dbbind (call : Nat) (s : State) :
    exec (.dbbind call) s = execDbbind call s := rfl
@[simp] theorem exec_dbunbind (call : Nat) (s : State) :
    exec (.dbunbind call) s = execDbunbind call s := rfl
@[simp] theorem exec_msibind (call : Nat) (s : State) :
    exec (.msibind call) s = execMsibind call s := rfl
@[simp] theorem exec_msiunbind (call : Nat) (s : State) :
    exec (.msiunbind call) s = execMsiunbind call s := rfl
@[simp] theorem exec_nvmeadmin (call : Nat) (ans : Answer) (s : State) :
    exec (.nvmeadmin call ans) s = execNvmeadmin call ans s := rfl
@[simp] theorem exec_nvmeqpair (call : Nat) (ans : Answer) (s : State) :
    exec (.nvmeqpair call ans) s = execNvmeqpair call ans s := rfl
@[simp] theorem exec_nvmeqdel (call : Nat) (ans : Answer) (s : State) :
    exec (.nvmeqdel call ans) s = execNvmeqdel call ans s := rfl
@[simp] theorem exec_nicqcreate (call : Nat) (ans : Answer) (s : State) :
    exec (.nicqcreate call ans) s = execNicqcreate call ans s := rfl
@[simp] theorem exec_nicqdelete (call : Nat) (ans : Answer) (s : State) :
    exec (.nicqdelete call ans) s = execNicqdelete call ans s := rfl
@[simp] theorem exec_nicfilter (call : Nat) (ans : Answer) (s : State) :
    exec (.nicfilter call ans) s = execNicfilter call ans s := rfl
@[simp] theorem exec_atsctl (call : Nat) (s : State) :
    exec (.atsctl call) s = execAtsctl call s := rfl
@[simp] theorem exec_atsinval (call : Nat) (s : State) :
    exec (.atsinval call) s = execAtsinval call s := rfl
@[simp] theorem exec_funcinfo (call : Nat) (s : State) :
    exec (.funcinfo call) s = execFuncinfo call s := rfl
@[simp] theorem exec_ntbwindow (call : Nat) (s : State) :
    exec (.ntbwindow call) s = execNtbwindow call s := rfl
@[simp] theorem exec_peerattach (call : Nat) (ans : Answer) (s : State) :
    exec (.peerattach call ans) s = execPeerattach call ans s := rfl
@[simp] theorem exec_peerdetach (call : Nat) (ans : Answer) (s : State) :
    exec (.peerdetach call ans) s = execPeerdetach call ans s := rfl
@[simp] theorem exec_iderefresh (call : Nat) (ans : Answer) (s : State) :
    exec (.iderefresh call ans) s = execIderefresh call ans s := rfl
@[simp] theorem exec_spdmmeasure (call : Nat) (ans : Answer) (s : State) :
    exec (.spdmmeasure call ans) s = execSpdmmeasure call ans s := rfl
@[simp] theorem exec_attest (call : Nat) (s : State) :
    exec (.attest call) s = execAttest call s := rfl
@[simp] theorem exec_cxlonline (call : Nat) (ans : Answer) (s : State) :
    exec (.cxlonline call ans) s = execCxlonline call ans s := rfl
@[simp] theorem exec_cxloffline (call frame : Nat) (ans : Answer) (s : State) :
    exec (.cxloffline call frame ans) s = execCxloffline call frame ans s := rfl
@[simp] theorem exec_portreset (call : Nat) (ans : Answer) (s : State) :
    exec (.portreset call ans) s = execPortreset call ans s := rfl
@[simp] theorem exec_flr (call : Nat) (ans : Answer) (s : State) :
    exec (.flr call ans) s = execFlr call ans s := rfl
@[simp] theorem exec_retention (call : Nat) (s : State) :
    exec (.retention call) s = execRetention call s := rfl
@[simp] theorem exec_poweralarm (call : Nat) (s : State) :
    exec (.poweralarm call) s = execPoweralarm call s := rfl
@[simp] theorem exec_fwupdate (call : Nat) (ans : Answer) (s : State) :
    exec (.fwupdate call ans) s = execFwupdate call ans s := rfl
@[simp] theorem exec_faultinject (call : Nat) (s : State) :
    exec (.faultinject call) s = execFaultinject call s := rfl
@[simp] theorem exec_svcDebug (call : Nat) (s : State) :
    exec (.svcDebug call) s = execSvcDebug call s := rfl
@[simp] theorem exec_logread (call : Nat) (s : State) :
    exec (.logread call) s = execLogread call s := rfl
@[simp] theorem exec_clocksync (call : Nat) (ans : Answer) (s : State) :
    exec (.clocksync call ans) s = execClocksync call ans s := rfl
@[simp] theorem exec_serviceinfo (call : Nat) (s : State) :
    exec (.serviceinfo call) s = execServiceinfo call s := rfl
@[simp] theorem exec_doorbellWrite (dw : Nat) (s : State) :
    exec (.doorbellWrite dw) s = execDoorbellWrite dw s := rfl
@[simp] theorem exec_dbpFollow (binding : Nat) (s : State) :
    exec (.dbpFollow binding) s = execDbpFollow binding s := rfl
@[simp] theorem exec_msiWrite (addr size data : Nat) (s : State) :
    exec (.msiWrite addr size data) s = execMsiWrite addr size data s := rfl
@[simp] theorem exec_atsTranslationRequest (fn pasid va : Nat) (write : Bool) (s : State) :
    exec (.atsTranslationRequest fn pasid va write) s = execAtsTranslationRequest fn pasid va write s := rfl
@[simp] theorem exec_pageRequest (fn pasid va prg : Nat) (last rd wr : Bool) (s : State) :
    exec (.pageRequest fn pasid va prg last rd wr) s = execPageRequest fn pasid va prg last rd wr s := rfl
@[simp] theorem exec_inboundDma (fn pasid va : Nat) (write : Bool) (data : List Byte) (s : State) :
    exec (.inboundDma fn pasid va write data) s = execInboundDma fn pasid va write data s := rfl
@[simp] theorem exec_inboundCounterWrite (pasid va size data : Nat) (s : State) :
    exec (.inboundCounterWrite pasid va size data) s = execInboundCounterWrite pasid va size data s := rfl
@[simp] theorem exec_inboundFetchadd (pasid va size data : Nat) (fetchAdd : Bool) (s : State) :
    exec (.inboundFetchadd pasid va size data fetchAdd) s = execInboundFetchadd pasid va size data fetchAdd s := rfl
@[simp] theorem exec_peerFetchaddCompletion (op : Nat) (err : Option (Fin 8)) (old : BitVec 64) (s : State) :
    exec (.peerFetchaddCompletion op err old) s = execPeerFetchaddCompletion op err old s := rfl
@[simp] theorem exec_requestTimeout (req : Nat) (s : State) :
    exec (.requestTimeout req) s = execRequestTimeout req s := rfl
@[simp] theorem exec_linkDown (sub : Nat) (s : State) :
    exec (.linkDown sub) s = execLinkDown sub s := rfl
@[simp] theorem exec_peerReset (peer : Nat) (linkLost : Bool) (s : State) :
    exec (.peerReset peer linkLost) s = execPeerReset peer linkLost s := rfl
@[simp] theorem exec_ideIntegrityFailure (sub stream : Nat) (sequence : Bool) (s : State) :
    exec (.ideIntegrityFailure sub stream sequence) s = execIdeIntegrityFailure sub stream sequence s := rfl
@[simp] theorem exec_ideRefreshTimeout (sub stream : Nat) (s : State) :
    exec (.ideRefreshTimeout sub stream) s = execIdeRefreshTimeout sub stream s := rfl
@[simp] theorem exec_quarantineSeal (ctx : Nat) (s : State) :
    exec (.quarantineSeal ctx) s = execQuarantineSeal ctx s := rfl
@[simp] theorem exec_powerAlarmRaise (amps : Nat) (s : State) :
    exec (.powerAlarmRaise amps) s = execPowerAlarmRaise amps s := rfl
@[simp] theorem exec_powerAlarmLower  (s : State) :
    exec (.powerAlarmLower) s = execPowerAlarmLower s := rfl
@[simp] theorem exec_retentionEntry (cause : Fin 3) (s : State) :
    exec (.retentionEntry cause) s = execRetentionEntry cause s := rfl
@[simp] theorem exec_resume (lostCxl : List Nat) (refreshFailed : Bool) (s : State) :
    exec (.resume lostCxl refreshFailed) s = execResume lostCxl refreshFailed s := rfl
@[simp] theorem exec_thermalTrip (die : Nat) (s : State) :
    exec (.thermalTrip die) s = execThermalTrip die s := rfl
@[simp] theorem exec_reset (cause : ResetCause) (boot : BootSource) (s : State) :
    exec (.reset cause boot) s = execReset cause boot s := rfl
@[simp] theorem exec_lifeCycleChange (tgt : LifeCycle) (signed : Bool) (s : State) :
    exec (.lifeCycleChange tgt signed) s = execLifeCycleChange tgt signed s := rfl
@[simp] theorem exec_logicalTimeTick (core : Nat) (s : State) :
    exec (.logicalTimeTick core) s = execLogicalTimeTick core s := rfl
@[simp] theorem exec_aerErrorReport (dw : Nat) (s : State) :
    exec (.aerErrorReport dw) s = execAerErrorReport dw s := rfl
@[simp] theorem exec_atsInvalidateCompletion (req : Nat) (s : State) :
    exec (.atsInvalidateCompletion req) s = execAtsInvalidateCompletion req s := rfl
@[simp] theorem exec_linkRetrained (sub : Nat) (s : State) :
    exec (.linkRetrained sub) s = execLinkRetrained sub s := rfl
@[simp] theorem exec_svcallQueueTimeout (gid slot : Nat) (s : State) :
    exec (.svcallQueueTimeout gid slot) s = execSvcallQueueTimeout gid slot s := rfl
@[simp] theorem exec_configurationWriteCompletion (req : Nat) (err : Option (Fin 8)) (s : State) :
    exec (.configurationWriteCompletion req err) s = execConfigurationWriteCompletion req err s := rfl
@[simp] theorem exec_supplyRemoval  (s : State) :
    exec (.supplyRemoval) s = execSupplyRemoval s := rfl

end Sys2Proof.Machine
end

