-- ==== Sys2Proof/Laws/Memory.lean ====
section
/-! SUPPORT. Laws of physical memory: what a store changes, and that every memory operation keeps the canonical form. -/

namespace Sys2Proof.Machine

theorem reset_memory_wf : Memory.wf State.reset.mem = true := rfl

theorem State.memStore_wf (s : State) (pa : Nat) (l : List Byte) (bad : Bool) (h : Memory.wf s.mem = true) :
    Memory.wf (s.memStore pa l bad).mem = true := by
  induction l generalizing s pa with
  | nil => exact h
  | cons b l ih => exact ih _ _ (Cells.wf_set 0 s.mem pa b h)

theorem State.memWrite_wf (s : State) (pa : Nat) (l : List Byte) (bad : Bool) (h : Memory.wf s.mem = true) :
    Memory.wf (s.memWrite pa l bad).mem = true := by
  unfold State.memWrite
  split_ifs
  · exact h
  · exact h
  · exact State.memStore_wf s pa l bad h

/-- A store changes the bytes it names and no other. -/
theorem State.memStore_mem (s : State) (pa : Nat) (l : List Byte) (a : Nat) (bad : Bool := false) :
    Cells.get 0 (s.memStore pa l bad).mem a =
      if h : pa ≤ a ∧ a < pa + l.length then l[a - pa] else Cells.get 0 s.mem a := by
  induction l generalizing s pa with
  | nil => rw [dif_neg (by simp)]; rfl
  | cons b l ih =>
    rw [State.memStore, ih, Cells.get_set]
    by_cases h : a = pa
    · subst h
      rw [dif_neg (by omega), if_pos rfl, dif_pos (by simp)]
      simp
    · rw [if_neg h]
      by_cases h2 : pa + 1 ≤ a ∧ a < pa + 1 + l.length
      · rw [dif_pos h2, dif_pos (by simp; omega)]
        have : a - pa = (a - (pa + 1)) + 1 := by omega
        simp [this]
      · rw [dif_neg h2, dif_neg (by simp; omega)]

/-- A store touches memory and poison marks alone. -/
theorem State.memStore_frame (s : State) (pa : Nat) (l : List Byte) (bad : Bool := false) :
    s.memStore pa l bad = { s with mem := (s.memStore pa l bad).mem, poison := (s.memStore pa l bad).poison } := by
  induction l generalizing s pa with
  | nil => rfl
  | cons b l ih => rw [State.memStore, ih]

/-- A write at a home touches memory, its marks and its held writes alone. -/
theorem State.homeWrite_frame (s : State) (pa : Nat) (l : List Byte) (bad : Bool) :
    s.homeWrite pa l bad = { s with
      mem := (s.homeWrite pa l bad).mem, poison := (s.homeWrite pa l bad).poison, grants := (s.homeWrite pa l bad).grants
      wipeHeld := (s.homeWrite pa l bad).wipeHeld, migrations := (s.homeWrite pa l bad).migrations } := by
  unfold State.homeWrite State.grant State.memWrite
  simp only
  split
  · rfl
  · split
    · rfl
    · generalize hu : s.memStore pa l bad = u
      obtain ⟨m, q, h⟩ : ∃ m q, u = { s with mem := m, poison := q } := ⟨_, _, hu ▸ s.memStore_frame pa l bad⟩
      rw [h]

-- Translation (R348, R354) ------------------------------------------------------------------------------------------------

/-- s with the memory, its marks, its held writes, the cores and the translation caches of t. -/
def State.filledAs (s t : State) : State :=
  { s with mem := t.mem, poison := t.poison, grants := t.grants, wipeHeld := t.wipeHeld, migrations := t.migrations
           cores := t.cores, fieldTlb := t.fieldTlb, tte := t.tte, ta := t.ta }

theorem State.filledAs_self (s : State) : s.filledAs s = s := rfl
theorem State.filledAs_trans {s t u : State} (h : t = s.filledAs t) (h' : u = t.filledAs u) : u = s.filledAs u := by
  rw [h'] at *
  rw [h]
  rfl

/-- A fill changes translation caches alone. -/
theorem State.tlbFill_filled (s : State) (p : Place) (e : TlbEnt) : s.tlbFill p e = s.filledAs (s.tlbFill p e) := by
  unfold State.tlbFill
  cases p
  · simp only
    split <;> rfl
  all_goals rfl

/-- A translation changes caches and the A bit of a leaf, and nothing else (R348). -/
theorem State.xlate_filled (s : State) (p : Place) (pasid va : Nat) (ok : Word → Bool) :
    (s.xlate p pasid va ok).2 = s.filledAs (s.xlate p pasid va ok).2 := by
  unfold State.xlate
  split
  · rfl
  split
  · exact State.tlbFill_filled _ _ _
  split
  · rfl
  · split
    · rfl
    · simp only
      refine State.filledAs_trans (t := s.homeWrite _ _) ?_ (State.tlbFill_filled _ _ _)
      rw [State.homeWrite_frame]
      rfl

theorem State.piece_filled (s : State) (p : Party) (a : Acc) (va : Nat) : (s.piece p a va).2 = s.filledAs (s.piece p a va).2 := by
  have h := State.xlate_filled s p.place p.pasid va (fun e => (a.permFault e).isNone)
  unfold State.piece
  split <;> rename_i heq <;> rw [heq] at h
  · exact h
  · exact h
  · split
    · exact h
    · split
      · exact h
      · split <;> exact h

theorem State.checkPieces_filled (s : State) (p : Party) (a : Acc) (va : Nat) (aligned : Bool) (l : List (Nat × Nat)) :
    (s.checkPieces p a va aligned l).2 = s.filledAs (s.checkPieces p a va aligned l).2 := by
  induction l generalizing s with
  | nil => rfl
  | cons e l ih =>
    obtain ⟨o, n⟩ := e
    unfold State.checkPieces
    have h := State.piece_filled s p a ((va + o) % 2 ^ 64)
    simp only
    split <;> rename_i heq <;> rw [heq] at h
    · exact h
    · rename_i pa type u
      split
      · exact h
      · have h2 := ih u
        split <;> rename_i heq2 <;> rw [heq2] at h2
        · exact State.filledAs_trans h h2
        · exact State.filledAs_trans h h2

/-- The checks of an access change caches and A bits alone (R354). -/
theorem State.checkAccess_filled (s : State) (p : Party) (a : Acc) (va n : Nat) :
    (s.checkAccess p a va n).2 = s.filledAs (s.checkAccess p a va n).2 := State.checkPieces_filled _ _ _ _ _ _

/-- An instruction fetch changes caches and A bits alone (R42). -/
theorem State.fetchWord_filled (s : State) (p : Party) (va : Nat) : (s.fetchWord p va).2 = s.filledAs (s.fetchWord p va).2 := by
  have h := State.piece_filled s p .fetch va
  unfold State.fetchWord
  split <;> rename_i heq <;> rw [heq] at h <;> exact h

end Sys2Proof.Machine
end

