-- ==== Sys2Proof/Laws/Record.lean ====
section
/-! SUPPORT. Laws of context records: what writing one, reading one back and editing a debug block can do. -/

namespace Sys2Proof.Machine

/-- A filter keeps the canonical form. -/
theorem Cells.wf_filter {α : Type} [DecidableEq α] (d : α) (p : Nat × α → Bool) (m : Cells α) (h : Cells.wf d m = true) :
    Cells.wf d (m.filter p) = true ∧ ∀ n, (∀ e ∈ m.head?, n < e.1) → ∀ e ∈ (m.filter p).head?, n < e.1 := by
  induction m with
  | nil => exact ⟨rfl, fun _ _ _ he => by simp at he⟩
  | cons x m ih =>
    obtain ⟨k, v⟩ := x
    rw [Cells.wf_cons] at h
    obtain ⟨hv, hm, hk⟩ := h
    obtain ⟨ih1, ih2⟩ := ih hm
    have hh := ih2 k hk
    by_cases hp : p (k, v) = true
    · rw [List.filter_cons_of_pos hp]
      exact ⟨(Cells.wf_cons d k v _).2 ⟨hv, ih1, hh⟩, fun n hn e he => by
        cases he
        exact hn (k, v) rfl⟩
    · rw [List.filter_cons_of_neg hp]
      refine ⟨ih1, fun n hn e he => ?_⟩
      have h1 := hh e he
      have h2 : n < k := hn (k, v) rfl
      omega

/-- Clearing a range keeps the canonical forms of memory and poison marks. -/
theorem State.zeroRange_wf (s : State) (pa n : Nat) (h : Memory.wf s.mem = true) : Memory.wf (s.zeroRange pa n).mem = true :=
  (Cells.wf_filter 0 _ s.mem h).1

/-- Writes at homes touch memory, its marks and its held writes alone. -/
theorem State.storePieces_frame (l : List RecPiece) (a : Nat) (s : State) :
    ∃ m q g w r, l.foldl (fun (s : State) (p : RecPiece) => s.homeWrite (a + p.1) p.2) s
      = { s with mem := m, poison := q, grants := g, wipeHeld := w, migrations := r } := by
  induction l generalizing s with
  | nil => exact ⟨_, _, _, _, _, rfl⟩
  | cons p l ih =>
    obtain ⟨m, q, g, w, r, h⟩ := ih (s.homeWrite (a + p.1) p.2)
    refine ⟨m, q, g, w, r, ?_⟩
    rw [List.foldl_cons, h]
    generalize hu : s.homeWrite (a + p.1) p.2 = u
    obtain ⟨m', q', g', w', r', h'⟩ : ∃ m q g w r, u = { s with mem := m, poison := q, grants := g, wipeHeld := w, migrations := r } :=
      ⟨_, _, _, _, _, hu ▸ s.homeWrite_frame _ _ _⟩
    rw [h']

/-- Writing a record touches memory, its marks, its held writes and the counter behind free values alone. -/
theorem State.writeRecord_frame (s : State) (t : Nat) :
    ∃ m q g w r n, s.writeRecord t = { s with mem := m, poison := q, grants := g, wipeHeld := w, migrations := r, fresh := n } := by
  unfold State.writeRecord
  split
  · exact ⟨_, _, _, _, _, _, rfl⟩
  · split
    · exact ⟨_, _, _, _, _, _, rfl⟩
    · rename_i x _ _ a _
      simp only
      generalize (x.headPieces s.fresh ++ s.layoutPieces t ++ _ ++ x.imagePieces) = pieces
      obtain ⟨m, q, g, w, r, h⟩ := State.storePieces_frame pieces a (s.zeroRange a x.foot)
      rw [h]
      exact ⟨_, _, _, _, _, _, rfl⟩

@[simp] theorem State.writeRecord_teams (s : State) (t : Nat) : (s.writeRecord t).teams = s.teams := by
  obtain ⟨_, _, _, _, _, _, h⟩ := s.writeRecord_frame t; rw [h]
@[simp] theorem State.writeRecord_groups (s : State) (t : Nat) : (s.writeRecord t).groups = s.groups := by
  obtain ⟨_, _, _, _, _, _, h⟩ := s.writeRecord_frame t; rw [h]
@[simp] theorem State.writeRecord_frags (s : State) (t : Nat) : (s.writeRecord t).frags = s.frags := by
  obtain ⟨_, _, _, _, _, _, h⟩ := s.writeRecord_frame t; rw [h]
@[simp] theorem State.writeRecord_launches (s : State) (t : Nat) : (s.writeRecord t).launches = s.launches := by
  obtain ⟨_, _, _, _, _, _, h⟩ := s.writeRecord_frame t; rw [h]
@[simp] theorem State.writeRecord_queues (s : State) (t : Nat) : (s.writeRecord t).queues = s.queues := by
  obtain ⟨_, _, _, _, _, _, h⟩ := s.writeRecord_frame t; rw [h]
@[simp] theorem State.writeRecord_cores (s : State) (t : Nat) : (s.writeRecord t).cores = s.cores := by
  obtain ⟨_, _, _, _, _, _, h⟩ := s.writeRecord_frame t; rw [h]
@[simp] theorem State.writeRecord_cold (s : State) (t : Nat) : (s.writeRecord t).cold = s.cold := by
  obtain ⟨_, _, _, _, _, _, h⟩ := s.writeRecord_frame t; rw [h]
@[simp] theorem State.writeRecord_clock (s : State) (t : Nat) : (s.writeRecord t).clock = s.clock := by
  obtain ⟨_, _, _, _, _, _, h⟩ := s.writeRecord_frame t; rw [h]

/-- A write at a home keeps the canonical form of memory. -/
theorem State.homeWrite_wf (s : State) (pa : Nat) (l : List Byte) (bad : Bool) (h : Memory.wf s.mem = true) :
    Memory.wf (s.homeWrite pa l bad).mem = true := s.memWrite_wf pa l bad h

theorem State.storePieces_wf (l : List RecPiece) (a : Nat) (s : State) (h : Memory.wf s.mem = true) :
    Memory.wf (l.foldl (fun (s : State) (p : RecPiece) => s.homeWrite (a + p.1) p.2) s).mem = true := by
  induction l generalizing s with
  | nil => exact h
  | cons p l ih => exact ih _ (s.homeWrite_wf _ _ _ h)

theorem State.writeRecord_wf (s : State) (t : Nat) (h : Memory.wf s.mem = true) : Memory.wf (s.writeRecord t).mem = true := by
  unfold State.writeRecord
  split
  · exact h
  · split
    · exact h
    · exact State.storePieces_wf _ _ _ (s.zeroRange_wf _ _ h)

/-- Reading a record back touches groups, fragments and the team's record alone, and leaves the team where it is. -/
theorem State.readRecord_frame (s : State) (t : Nat) :
    s.readRecord t = { s with groups := (s.readRecord t).groups, frags := (s.readRecord t).frags, teams := (s.readRecord t).teams } := by
  unfold State.readRecord
  split
  · rfl
  · split <;> rfl

theorem State.readRecord_team (s : State) (t : Nat) (x : Team) (h : s.teams.find t = some x) :
    ∃ y, (s.readRecord t).teams.find t = some y ∧ y.lin = x.lin ∧ y.core = x.core ∧ y.run = x.run ∧ y.launch = x.launch := by
  unfold State.readRecord
  rw [h]
  simp only
  split
  · exact ⟨x, h, rfl, rfl, rfl, rfl⟩
  · exact ⟨_, Tab.find_put _ _ _, rfl, rfl, rfl, rfl⟩

theorem State.editDebug_wf (s : State) (t : Nat) (edit : Debug → Debug) (h : Memory.wf s.mem = true) :
    Memory.wf (s.editDebug t edit).mem = true := by
  unfold State.editDebug
  simp only
  split
  · exact h
  · split
    · exact h
    · exact List.foldlRecOn (motive := fun u : State => Memory.wf u.mem = true) _ _ h (fun _ hu _ _ => State.homeWrite_wf _ _ _ _ hu)

end Sys2Proof.Machine
end

