-- ==== Sys2Proof/Laws/State.lean ====
section
/-! SUPPORT. One lemma for each field of State and each of its plain updates, true by rfl. -/

namespace Sys2Proof.Machine

-- putTeam
@[simp] theorem State.putTeam_clock (s : State) (t : Nat) (x : Team) : (s.putTeam t x).clock = s.clock := rfl
@[simp] theorem State.putTeam_mem (s : State) (t : Nat) (x : Team) : (s.putTeam t x).mem = s.mem := rfl
@[simp] theorem State.putTeam_poison (s : State) (t : Nat) (x : Team) : (s.putTeam t x).poison = s.poison := rfl
@[simp] theorem State.putTeam_grants (s : State) (t : Nat) (x : Team) : (s.putTeam t x).grants = s.grants := rfl
@[simp] theorem State.putTeam_wiped (s : State) (t : Nat) (x : Team) : (s.putTeam t x).wiped = s.wiped := rfl
@[simp] theorem State.putTeam_wipeHeld (s : State) (t : Nat) (x : Team) : (s.putTeam t x).wipeHeld = s.wipeHeld := rfl
@[simp] theorem State.putTeam_migrations (s : State) (t : Nat) (x : Team) : (s.putTeam t x).migrations = s.migrations := rfl
@[simp] theorem State.putTeam_leases (s : State) (t : Nat) (x : Team) : (s.putTeam t x).leases = s.leases := rfl
@[simp] theorem State.putTeam_backing (s : State) (t : Nat) (x : Team) : (s.putTeam t x).backing = s.backing := rfl
@[simp] theorem State.putTeam_teams (s : State) (t : Nat) (x : Team) : (s.putTeam t x).teams = s.teams.put t x := rfl
@[simp] theorem State.putTeam_groups (s : State) (t : Nat) (x : Team) : (s.putTeam t x).groups = s.groups := rfl
@[simp] theorem State.putTeam_frags (s : State) (t : Nat) (x : Team) : (s.putTeam t x).frags = s.frags := rfl
@[simp] theorem State.putTeam_cores (s : State) (t : Nat) (x : Team) : (s.putTeam t x).cores = s.cores := rfl
@[simp] theorem State.putTeam_fieldTlb (s : State) (t : Nat) (x : Team) : (s.putTeam t x).fieldTlb = s.fieldTlb := rfl
@[simp] theorem State.putTeam_tte (s : State) (t : Nat) (x : Team) : (s.putTeam t x).tte = s.tte := rfl
@[simp] theorem State.putTeam_ta (s : State) (t : Nat) (x : Team) : (s.putTeam t x).ta = s.ta := rfl
@[simp] theorem State.putTeam_homes (s : State) (t : Nat) (x : Team) : (s.putTeam t x).homes = s.homes := rfl
@[simp] theorem State.putTeam_cold (s : State) (t : Nat) (x : Team) : (s.putTeam t x).cold = s.cold := rfl
@[simp] theorem State.putTeam_ops (s : State) (t : Nat) (x : Team) : (s.putTeam t x).ops = s.ops := rfl
@[simp] theorem State.putTeam_answers (s : State) (t : Nat) (x : Team) : (s.putTeam t x).answers = s.answers := rfl
@[simp] theorem State.putTeam_copies (s : State) (t : Nat) (x : Team) : (s.putTeam t x).copies = s.copies := rfl
@[simp] theorem State.putTeam_copyQueue (s : State) (t : Nat) (x : Team) : (s.putTeam t x).copyQueue = s.copyQueue := rfl
@[simp] theorem State.putTeam_laneCopies (s : State) (t : Nat) (x : Team) : (s.putTeam t x).laneCopies = s.laneCopies := rfl
@[simp] theorem State.putTeam_torn (s : State) (t : Nat) (x : Team) : (s.putTeam t x).torn = s.torn := rfl
@[simp] theorem State.putTeam_queues (s : State) (t : Nat) (x : Team) : (s.putTeam t x).queues = s.queues := rfl
@[simp] theorem State.putTeam_launches (s : State) (t : Nat) (x : Team) : (s.putTeam t x).launches = s.launches := rfl
@[simp] theorem State.putTeam_graphs (s : State) (t : Nat) (x : Team) : (s.putTeam t x).graphs = s.graphs := rfl
@[simp] theorem State.putTeam_ctxs (s : State) (t : Nat) (x : Team) : (s.putTeam t x).ctxs = s.ctxs := rfl
@[simp] theorem State.putTeam_sysPasids (s : State) (t : Nat) (x : Team) : (s.putTeam t x).sysPasids = s.sysPasids := rfl
@[simp] theorem State.putTeam_devAlloc (s : State) (t : Nat) (x : Team) : (s.putTeam t x).devAlloc = s.devAlloc := rfl
@[simp] theorem State.putTeam_stageq (s : State) (t : Nat) (x : Team) : (s.putTeam t x).stageq = s.stageq := rfl
@[simp] theorem State.putTeam_arbiters (s : State) (t : Nat) (x : Team) : (s.putTeam t x).arbiters = s.arbiters := rfl
@[simp] theorem State.putTeam_hubs (s : State) (t : Nat) (x : Team) : (s.putTeam t x).hubs = s.hubs := rfl
@[simp] theorem State.putTeam_bindings (s : State) (t : Nat) (x : Team) : (s.putTeam t x).bindings = s.bindings := rfl
@[simp] theorem State.putTeam_dws (s : State) (t : Nat) (x : Team) : (s.putTeam t x).dws = s.dws := rfl
@[simp] theorem State.putTeam_ioLeases (s : State) (t : Nat) (x : Team) : (s.putTeam t x).ioLeases = s.ioLeases := rfl
@[simp] theorem State.putTeam_quarantine (s : State) (t : Nat) (x : Team) : (s.putTeam t x).quarantine = s.quarantine := rfl
@[simp] theorem State.putTeam_subs (s : State) (t : Nat) (x : Team) : (s.putTeam t x).subs = s.subs := rfl
@[simp] theorem State.putTeam_funcs (s : State) (t : Nat) (x : Team) : (s.putTeam t x).funcs = s.funcs := rfl
@[simp] theorem State.putTeam_reqs (s : State) (t : Nat) (x : Team) : (s.putTeam t x).reqs = s.reqs := rfl
@[simp] theorem State.putTeam_sent (s : State) (t : Nat) (x : Team) : (s.putTeam t x).sent = s.sent := rfl
@[simp] theorem State.putTeam_peers (s : State) (t : Nat) (x : Team) : (s.putTeam t x).peers = s.peers := rfl
@[simp] theorem State.putTeam_calls (s : State) (t : Nat) (x : Team) : (s.putTeam t x).calls = s.calls := rfl
@[simp] theorem State.putTeam_fwVersion (s : State) (t : Nat) (x : Team) : (s.putTeam t x).fwVersion = s.fwVersion := rfl
@[simp] theorem State.putTeam_fwMinimum (s : State) (t : Nat) (x : Team) : (s.putTeam t x).fwMinimum = s.fwMinimum := rfl
@[simp] theorem State.putTeam_alarmAt (s : State) (t : Nat) (x : Team) : (s.putTeam t x).alarmAt = s.alarmAt := rfl
@[simp] theorem State.putTeam_alarm (s : State) (t : Nat) (x : Team) : (s.putTeam t x).alarm = s.alarm := rfl
@[simp] theorem State.putTeam_power (s : State) (t : Nat) (x : Team) : (s.putTeam t x).power = s.power := rfl
@[simp] theorem State.putTeam_thermtrip (s : State) (t : Nat) (x : Team) : (s.putTeam t x).thermtrip = s.thermtrip := rfl
@[simp] theorem State.putTeam_life (s : State) (t : Nat) (x : Team) : (s.putTeam t x).life = s.life := rfl
@[simp] theorem State.putTeam_events (s : State) (t : Nat) (x : Team) : (s.putTeam t x).events = s.events := rfl
@[simp] theorem State.putTeam_sessions (s : State) (t : Nat) (x : Team) : (s.putTeam t x).sessions = s.sessions := rfl
@[simp] theorem State.putTeam_cur (s : State) (t : Nat) (x : Team) : (s.putTeam t x).cur = s.cur := rfl
@[simp] theorem State.putTeam_issueQ (s : State) (t : Nat) (x : Team) : (s.putTeam t x).issueQ = s.issueQ := rfl
@[simp] theorem State.putTeam_agenda (s : State) (t : Nat) (x : Team) : (s.putTeam t x).agenda = s.agenda := rfl
@[simp] theorem State.putTeam_again (s : State) (t : Nat) (x : Team) : (s.putTeam t x).again = s.again := rfl
@[simp] theorem State.putTeam_order (s : State) (t : Nat) (x : Team) : (s.putTeam t x).order = s.order := rfl
@[simp] theorem State.putTeam_tear (s : State) (t : Nat) (x : Team) : (s.putTeam t x).tear = s.tear := rfl
@[simp] theorem State.putTeam_nextId (s : State) (t : Nat) (x : Team) : (s.putTeam t x).nextId = s.nextId := rfl
@[simp] theorem State.putTeam_fresh (s : State) (t : Nat) (x : Team) : (s.putTeam t x).fresh = s.fresh := rfl

-- putGroup
@[simp] theorem State.putGroup_clock (s : State) (c : Cur) (x : Group) : (s.putGroup c x).clock = s.clock := rfl
@[simp] theorem State.putGroup_mem (s : State) (c : Cur) (x : Group) : (s.putGroup c x).mem = s.mem := rfl
@[simp] theorem State.putGroup_poison (s : State) (c : Cur) (x : Group) : (s.putGroup c x).poison = s.poison := rfl
@[simp] theorem State.putGroup_grants (s : State) (c : Cur) (x : Group) : (s.putGroup c x).grants = s.grants := rfl
@[simp] theorem State.putGroup_wiped (s : State) (c : Cur) (x : Group) : (s.putGroup c x).wiped = s.wiped := rfl
@[simp] theorem State.putGroup_wipeHeld (s : State) (c : Cur) (x : Group) : (s.putGroup c x).wipeHeld = s.wipeHeld := rfl
@[simp] theorem State.putGroup_migrations (s : State) (c : Cur) (x : Group) : (s.putGroup c x).migrations = s.migrations := rfl
@[simp] theorem State.putGroup_leases (s : State) (c : Cur) (x : Group) : (s.putGroup c x).leases = s.leases := rfl
@[simp] theorem State.putGroup_backing (s : State) (c : Cur) (x : Group) : (s.putGroup c x).backing = s.backing := rfl
@[simp] theorem State.putGroup_teams (s : State) (c : Cur) (x : Group) : (s.putGroup c x).teams = s.teams := rfl
@[simp] theorem State.putGroup_groups (s : State) (c : Cur) (x : Group) : (s.putGroup c x).groups = s.groups.put c.gid x := rfl
@[simp] theorem State.putGroup_frags (s : State) (c : Cur) (x : Group) : (s.putGroup c x).frags = s.frags := rfl
@[simp] theorem State.putGroup_cores (s : State) (c : Cur) (x : Group) : (s.putGroup c x).cores = s.cores := rfl
@[simp] theorem State.putGroup_fieldTlb (s : State) (c : Cur) (x : Group) : (s.putGroup c x).fieldTlb = s.fieldTlb := rfl
@[simp] theorem State.putGroup_tte (s : State) (c : Cur) (x : Group) : (s.putGroup c x).tte = s.tte := rfl
@[simp] theorem State.putGroup_ta (s : State) (c : Cur) (x : Group) : (s.putGroup c x).ta = s.ta := rfl
@[simp] theorem State.putGroup_homes (s : State) (c : Cur) (x : Group) : (s.putGroup c x).homes = s.homes := rfl
@[simp] theorem State.putGroup_cold (s : State) (c : Cur) (x : Group) : (s.putGroup c x).cold = s.cold := rfl
@[simp] theorem State.putGroup_ops (s : State) (c : Cur) (x : Group) : (s.putGroup c x).ops = s.ops := rfl
@[simp] theorem State.putGroup_answers (s : State) (c : Cur) (x : Group) : (s.putGroup c x).answers = s.answers := rfl
@[simp] theorem State.putGroup_copies (s : State) (c : Cur) (x : Group) : (s.putGroup c x).copies = s.copies := rfl
@[simp] theorem State.putGroup_copyQueue (s : State) (c : Cur) (x : Group) : (s.putGroup c x).copyQueue = s.copyQueue := rfl
@[simp] theorem State.putGroup_laneCopies (s : State) (c : Cur) (x : Group) : (s.putGroup c x).laneCopies = s.laneCopies := rfl
@[simp] theorem State.putGroup_torn (s : State) (c : Cur) (x : Group) : (s.putGroup c x).torn = s.torn := rfl
@[simp] theorem State.putGroup_queues (s : State) (c : Cur) (x : Group) : (s.putGroup c x).queues = s.queues := rfl
@[simp] theorem State.putGroup_launches (s : State) (c : Cur) (x : Group) : (s.putGroup c x).launches = s.launches := rfl
@[simp] theorem State.putGroup_graphs (s : State) (c : Cur) (x : Group) : (s.putGroup c x).graphs = s.graphs := rfl
@[simp] theorem State.putGroup_ctxs (s : State) (c : Cur) (x : Group) : (s.putGroup c x).ctxs = s.ctxs := rfl
@[simp] theorem State.putGroup_sysPasids (s : State) (c : Cur) (x : Group) : (s.putGroup c x).sysPasids = s.sysPasids := rfl
@[simp] theorem State.putGroup_devAlloc (s : State) (c : Cur) (x : Group) : (s.putGroup c x).devAlloc = s.devAlloc := rfl
@[simp] theorem State.putGroup_stageq (s : State) (c : Cur) (x : Group) : (s.putGroup c x).stageq = s.stageq := rfl
@[simp] theorem State.putGroup_arbiters (s : State) (c : Cur) (x : Group) : (s.putGroup c x).arbiters = s.arbiters := rfl
@[simp] theorem State.putGroup_hubs (s : State) (c : Cur) (x : Group) : (s.putGroup c x).hubs = s.hubs := rfl
@[simp] theorem State.putGroup_bindings (s : State) (c : Cur) (x : Group) : (s.putGroup c x).bindings = s.bindings := rfl
@[simp] theorem State.putGroup_dws (s : State) (c : Cur) (x : Group) : (s.putGroup c x).dws = s.dws := rfl
@[simp] theorem State.putGroup_ioLeases (s : State) (c : Cur) (x : Group) : (s.putGroup c x).ioLeases = s.ioLeases := rfl
@[simp] theorem State.putGroup_quarantine (s : State) (c : Cur) (x : Group) : (s.putGroup c x).quarantine = s.quarantine := rfl
@[simp] theorem State.putGroup_subs (s : State) (c : Cur) (x : Group) : (s.putGroup c x).subs = s.subs := rfl
@[simp] theorem State.putGroup_funcs (s : State) (c : Cur) (x : Group) : (s.putGroup c x).funcs = s.funcs := rfl
@[simp] theorem State.putGroup_reqs (s : State) (c : Cur) (x : Group) : (s.putGroup c x).reqs = s.reqs := rfl
@[simp] theorem State.putGroup_sent (s : State) (c : Cur) (x : Group) : (s.putGroup c x).sent = s.sent := rfl
@[simp] theorem State.putGroup_peers (s : State) (c : Cur) (x : Group) : (s.putGroup c x).peers = s.peers := rfl
@[simp] theorem State.putGroup_calls (s : State) (c : Cur) (x : Group) : (s.putGroup c x).calls = s.calls := rfl
@[simp] theorem State.putGroup_fwVersion (s : State) (c : Cur) (x : Group) : (s.putGroup c x).fwVersion = s.fwVersion := rfl
@[simp] theorem State.putGroup_fwMinimum (s : State) (c : Cur) (x : Group) : (s.putGroup c x).fwMinimum = s.fwMinimum := rfl
@[simp] theorem State.putGroup_alarmAt (s : State) (c : Cur) (x : Group) : (s.putGroup c x).alarmAt = s.alarmAt := rfl
@[simp] theorem State.putGroup_alarm (s : State) (c : Cur) (x : Group) : (s.putGroup c x).alarm = s.alarm := rfl
@[simp] theorem State.putGroup_power (s : State) (c : Cur) (x : Group) : (s.putGroup c x).power = s.power := rfl
@[simp] theorem State.putGroup_thermtrip (s : State) (c : Cur) (x : Group) : (s.putGroup c x).thermtrip = s.thermtrip := rfl
@[simp] theorem State.putGroup_life (s : State) (c : Cur) (x : Group) : (s.putGroup c x).life = s.life := rfl
@[simp] theorem State.putGroup_events (s : State) (c : Cur) (x : Group) : (s.putGroup c x).events = s.events := rfl
@[simp] theorem State.putGroup_sessions (s : State) (c : Cur) (x : Group) : (s.putGroup c x).sessions = s.sessions := rfl
@[simp] theorem State.putGroup_cur (s : State) (c : Cur) (x : Group) : (s.putGroup c x).cur = s.cur := rfl
@[simp] theorem State.putGroup_issueQ (s : State) (c : Cur) (x : Group) : (s.putGroup c x).issueQ = s.issueQ := rfl
@[simp] theorem State.putGroup_agenda (s : State) (c : Cur) (x : Group) : (s.putGroup c x).agenda = s.agenda := rfl
@[simp] theorem State.putGroup_again (s : State) (c : Cur) (x : Group) : (s.putGroup c x).again = s.again := rfl
@[simp] theorem State.putGroup_order (s : State) (c : Cur) (x : Group) : (s.putGroup c x).order = s.order := rfl
@[simp] theorem State.putGroup_tear (s : State) (c : Cur) (x : Group) : (s.putGroup c x).tear = s.tear := rfl
@[simp] theorem State.putGroup_nextId (s : State) (c : Cur) (x : Group) : (s.putGroup c x).nextId = s.nextId := rfl
@[simp] theorem State.putGroup_fresh (s : State) (c : Cur) (x : Group) : (s.putGroup c x).fresh = s.fresh := rfl

-- putFrag
@[simp] theorem State.putFrag_clock (s : State) (c : Cur) (x : Frag) : (s.putFrag c x).clock = s.clock := rfl
@[simp] theorem State.putFrag_mem (s : State) (c : Cur) (x : Frag) : (s.putFrag c x).mem = s.mem := rfl
@[simp] theorem State.putFrag_poison (s : State) (c : Cur) (x : Frag) : (s.putFrag c x).poison = s.poison := rfl
@[simp] theorem State.putFrag_grants (s : State) (c : Cur) (x : Frag) : (s.putFrag c x).grants = s.grants := rfl
@[simp] theorem State.putFrag_wiped (s : State) (c : Cur) (x : Frag) : (s.putFrag c x).wiped = s.wiped := rfl
@[simp] theorem State.putFrag_wipeHeld (s : State) (c : Cur) (x : Frag) : (s.putFrag c x).wipeHeld = s.wipeHeld := rfl
@[simp] theorem State.putFrag_migrations (s : State) (c : Cur) (x : Frag) : (s.putFrag c x).migrations = s.migrations := rfl
@[simp] theorem State.putFrag_leases (s : State) (c : Cur) (x : Frag) : (s.putFrag c x).leases = s.leases := rfl
@[simp] theorem State.putFrag_backing (s : State) (c : Cur) (x : Frag) : (s.putFrag c x).backing = s.backing := rfl
@[simp] theorem State.putFrag_teams (s : State) (c : Cur) (x : Frag) : (s.putFrag c x).teams = s.teams := rfl
@[simp] theorem State.putFrag_groups (s : State) (c : Cur) (x : Frag) : (s.putFrag c x).groups = s.groups := rfl
@[simp] theorem State.putFrag_frags (s : State) (c : Cur) (x : Frag) : (s.putFrag c x).frags = s.frags.put c.fid x := rfl
@[simp] theorem State.putFrag_cores (s : State) (c : Cur) (x : Frag) : (s.putFrag c x).cores = s.cores := rfl
@[simp] theorem State.putFrag_fieldTlb (s : State) (c : Cur) (x : Frag) : (s.putFrag c x).fieldTlb = s.fieldTlb := rfl
@[simp] theorem State.putFrag_tte (s : State) (c : Cur) (x : Frag) : (s.putFrag c x).tte = s.tte := rfl
@[simp] theorem State.putFrag_ta (s : State) (c : Cur) (x : Frag) : (s.putFrag c x).ta = s.ta := rfl
@[simp] theorem State.putFrag_homes (s : State) (c : Cur) (x : Frag) : (s.putFrag c x).homes = s.homes := rfl
@[simp] theorem State.putFrag_cold (s : State) (c : Cur) (x : Frag) : (s.putFrag c x).cold = s.cold := rfl
@[simp] theorem State.putFrag_ops (s : State) (c : Cur) (x : Frag) : (s.putFrag c x).ops = s.ops := rfl
@[simp] theorem State.putFrag_answers (s : State) (c : Cur) (x : Frag) : (s.putFrag c x).answers = s.answers := rfl
@[simp] theorem State.putFrag_copies (s : State) (c : Cur) (x : Frag) : (s.putFrag c x).copies = s.copies := rfl
@[simp] theorem State.putFrag_copyQueue (s : State) (c : Cur) (x : Frag) : (s.putFrag c x).copyQueue = s.copyQueue := rfl
@[simp] theorem State.putFrag_laneCopies (s : State) (c : Cur) (x : Frag) : (s.putFrag c x).laneCopies = s.laneCopies := rfl
@[simp] theorem State.putFrag_torn (s : State) (c : Cur) (x : Frag) : (s.putFrag c x).torn = s.torn := rfl
@[simp] theorem State.putFrag_queues (s : State) (c : Cur) (x : Frag) : (s.putFrag c x).queues = s.queues := rfl
@[simp] theorem State.putFrag_launches (s : State) (c : Cur) (x : Frag) : (s.putFrag c x).launches = s.launches := rfl
@[simp] theorem State.putFrag_graphs (s : State) (c : Cur) (x : Frag) : (s.putFrag c x).graphs = s.graphs := rfl
@[simp] theorem State.putFrag_ctxs (s : State) (c : Cur) (x : Frag) : (s.putFrag c x).ctxs = s.ctxs := rfl
@[simp] theorem State.putFrag_sysPasids (s : State) (c : Cur) (x : Frag) : (s.putFrag c x).sysPasids = s.sysPasids := rfl
@[simp] theorem State.putFrag_devAlloc (s : State) (c : Cur) (x : Frag) : (s.putFrag c x).devAlloc = s.devAlloc := rfl
@[simp] theorem State.putFrag_stageq (s : State) (c : Cur) (x : Frag) : (s.putFrag c x).stageq = s.stageq := rfl
@[simp] theorem State.putFrag_arbiters (s : State) (c : Cur) (x : Frag) : (s.putFrag c x).arbiters = s.arbiters := rfl
@[simp] theorem State.putFrag_hubs (s : State) (c : Cur) (x : Frag) : (s.putFrag c x).hubs = s.hubs := rfl
@[simp] theorem State.putFrag_bindings (s : State) (c : Cur) (x : Frag) : (s.putFrag c x).bindings = s.bindings := rfl
@[simp] theorem State.putFrag_dws (s : State) (c : Cur) (x : Frag) : (s.putFrag c x).dws = s.dws := rfl
@[simp] theorem State.putFrag_ioLeases (s : State) (c : Cur) (x : Frag) : (s.putFrag c x).ioLeases = s.ioLeases := rfl
@[simp] theorem State.putFrag_quarantine (s : State) (c : Cur) (x : Frag) : (s.putFrag c x).quarantine = s.quarantine := rfl
@[simp] theorem State.putFrag_subs (s : State) (c : Cur) (x : Frag) : (s.putFrag c x).subs = s.subs := rfl
@[simp] theorem State.putFrag_funcs (s : State) (c : Cur) (x : Frag) : (s.putFrag c x).funcs = s.funcs := rfl
@[simp] theorem State.putFrag_reqs (s : State) (c : Cur) (x : Frag) : (s.putFrag c x).reqs = s.reqs := rfl
@[simp] theorem State.putFrag_sent (s : State) (c : Cur) (x : Frag) : (s.putFrag c x).sent = s.sent := rfl
@[simp] theorem State.putFrag_peers (s : State) (c : Cur) (x : Frag) : (s.putFrag c x).peers = s.peers := rfl
@[simp] theorem State.putFrag_calls (s : State) (c : Cur) (x : Frag) : (s.putFrag c x).calls = s.calls := rfl
@[simp] theorem State.putFrag_fwVersion (s : State) (c : Cur) (x : Frag) : (s.putFrag c x).fwVersion = s.fwVersion := rfl
@[simp] theorem State.putFrag_fwMinimum (s : State) (c : Cur) (x : Frag) : (s.putFrag c x).fwMinimum = s.fwMinimum := rfl
@[simp] theorem State.putFrag_alarmAt (s : State) (c : Cur) (x : Frag) : (s.putFrag c x).alarmAt = s.alarmAt := rfl
@[simp] theorem State.putFrag_alarm (s : State) (c : Cur) (x : Frag) : (s.putFrag c x).alarm = s.alarm := rfl
@[simp] theorem State.putFrag_power (s : State) (c : Cur) (x : Frag) : (s.putFrag c x).power = s.power := rfl
@[simp] theorem State.putFrag_thermtrip (s : State) (c : Cur) (x : Frag) : (s.putFrag c x).thermtrip = s.thermtrip := rfl
@[simp] theorem State.putFrag_life (s : State) (c : Cur) (x : Frag) : (s.putFrag c x).life = s.life := rfl
@[simp] theorem State.putFrag_events (s : State) (c : Cur) (x : Frag) : (s.putFrag c x).events = s.events := rfl
@[simp] theorem State.putFrag_sessions (s : State) (c : Cur) (x : Frag) : (s.putFrag c x).sessions = s.sessions := rfl
@[simp] theorem State.putFrag_cur (s : State) (c : Cur) (x : Frag) : (s.putFrag c x).cur = s.cur := rfl
@[simp] theorem State.putFrag_issueQ (s : State) (c : Cur) (x : Frag) : (s.putFrag c x).issueQ = s.issueQ := rfl
@[simp] theorem State.putFrag_agenda (s : State) (c : Cur) (x : Frag) : (s.putFrag c x).agenda = s.agenda := rfl
@[simp] theorem State.putFrag_again (s : State) (c : Cur) (x : Frag) : (s.putFrag c x).again = s.again := rfl
@[simp] theorem State.putFrag_order (s : State) (c : Cur) (x : Frag) : (s.putFrag c x).order = s.order := rfl
@[simp] theorem State.putFrag_tear (s : State) (c : Cur) (x : Frag) : (s.putFrag c x).tear = s.tear := rfl
@[simp] theorem State.putFrag_nextId (s : State) (c : Cur) (x : Frag) : (s.putFrag c x).nextId = s.nextId := rfl
@[simp] theorem State.putFrag_fresh (s : State) (c : Cur) (x : Frag) : (s.putFrag c x).fresh = s.fresh := rfl

-- updTeam
@[simp] theorem State.updTeam_clock (s : State) (t : Nat) (h : Team → Team) : (s.updTeam t h).clock = s.clock := rfl
@[simp] theorem State.updTeam_mem (s : State) (t : Nat) (h : Team → Team) : (s.updTeam t h).mem = s.mem := rfl
@[simp] theorem State.updTeam_poison (s : State) (t : Nat) (h : Team → Team) : (s.updTeam t h).poison = s.poison := rfl
@[simp] theorem State.updTeam_grants (s : State) (t : Nat) (h : Team → Team) : (s.updTeam t h).grants = s.grants := rfl
@[simp] theorem State.updTeam_wiped (s : State) (t : Nat) (h : Team → Team) : (s.updTeam t h).wiped = s.wiped := rfl
@[simp] theorem State.updTeam_wipeHeld (s : State) (t : Nat) (h : Team → Team) : (s.updTeam t h).wipeHeld = s.wipeHeld := rfl
@[simp] theorem State.updTeam_migrations (s : State) (t : Nat) (h : Team → Team) : (s.updTeam t h).migrations = s.migrations := rfl
@[simp] theorem State.updTeam_leases (s : State) (t : Nat) (h : Team → Team) : (s.updTeam t h).leases = s.leases := rfl
@[simp] theorem State.updTeam_backing (s : State) (t : Nat) (h : Team → Team) : (s.updTeam t h).backing = s.backing := rfl
@[simp] theorem State.updTeam_teams (s : State) (t : Nat) (h : Team → Team) : (s.updTeam t h).teams = s.teams.upd t h := rfl
@[simp] theorem State.updTeam_groups (s : State) (t : Nat) (h : Team → Team) : (s.updTeam t h).groups = s.groups := rfl
@[simp] theorem State.updTeam_frags (s : State) (t : Nat) (h : Team → Team) : (s.updTeam t h).frags = s.frags := rfl
@[simp] theorem State.updTeam_cores (s : State) (t : Nat) (h : Team → Team) : (s.updTeam t h).cores = s.cores := rfl
@[simp] theorem State.updTeam_fieldTlb (s : State) (t : Nat) (h : Team → Team) : (s.updTeam t h).fieldTlb = s.fieldTlb := rfl
@[simp] theorem State.updTeam_tte (s : State) (t : Nat) (h : Team → Team) : (s.updTeam t h).tte = s.tte := rfl
@[simp] theorem State.updTeam_ta (s : State) (t : Nat) (h : Team → Team) : (s.updTeam t h).ta = s.ta := rfl
@[simp] theorem State.updTeam_homes (s : State) (t : Nat) (h : Team → Team) : (s.updTeam t h).homes = s.homes := rfl
@[simp] theorem State.updTeam_cold (s : State) (t : Nat) (h : Team → Team) : (s.updTeam t h).cold = s.cold := rfl
@[simp] theorem State.updTeam_ops (s : State) (t : Nat) (h : Team → Team) : (s.updTeam t h).ops = s.ops := rfl
@[simp] theorem State.updTeam_answers (s : State) (t : Nat) (h : Team → Team) : (s.updTeam t h).answers = s.answers := rfl
@[simp] theorem State.updTeam_copies (s : State) (t : Nat) (h : Team → Team) : (s.updTeam t h).copies = s.copies := rfl
@[simp] theorem State.updTeam_copyQueue (s : State) (t : Nat) (h : Team → Team) : (s.updTeam t h).copyQueue = s.copyQueue := rfl
@[simp] theorem State.updTeam_laneCopies (s : State) (t : Nat) (h : Team → Team) : (s.updTeam t h).laneCopies = s.laneCopies := rfl
@[simp] theorem State.updTeam_torn (s : State) (t : Nat) (h : Team → Team) : (s.updTeam t h).torn = s.torn := rfl
@[simp] theorem State.updTeam_queues (s : State) (t : Nat) (h : Team → Team) : (s.updTeam t h).queues = s.queues := rfl
@[simp] theorem State.updTeam_launches (s : State) (t : Nat) (h : Team → Team) : (s.updTeam t h).launches = s.launches := rfl
@[simp] theorem State.updTeam_graphs (s : State) (t : Nat) (h : Team → Team) : (s.updTeam t h).graphs = s.graphs := rfl
@[simp] theorem State.updTeam_ctxs (s : State) (t : Nat) (h : Team → Team) : (s.updTeam t h).ctxs = s.ctxs := rfl
@[simp] theorem State.updTeam_sysPasids (s : State) (t : Nat) (h : Team → Team) : (s.updTeam t h).sysPasids = s.sysPasids := rfl
@[simp] theorem State.updTeam_devAlloc (s : State) (t : Nat) (h : Team → Team) : (s.updTeam t h).devAlloc = s.devAlloc := rfl
@[simp] theorem State.updTeam_stageq (s : State) (t : Nat) (h : Team → Team) : (s.updTeam t h).stageq = s.stageq := rfl
@[simp] theorem State.updTeam_arbiters (s : State) (t : Nat) (h : Team → Team) : (s.updTeam t h).arbiters = s.arbiters := rfl
@[simp] theorem State.updTeam_hubs (s : State) (t : Nat) (h : Team → Team) : (s.updTeam t h).hubs = s.hubs := rfl
@[simp] theorem State.updTeam_bindings (s : State) (t : Nat) (h : Team → Team) : (s.updTeam t h).bindings = s.bindings := rfl
@[simp] theorem State.updTeam_dws (s : State) (t : Nat) (h : Team → Team) : (s.updTeam t h).dws = s.dws := rfl
@[simp] theorem State.updTeam_ioLeases (s : State) (t : Nat) (h : Team → Team) : (s.updTeam t h).ioLeases = s.ioLeases := rfl
@[simp] theorem State.updTeam_quarantine (s : State) (t : Nat) (h : Team → Team) : (s.updTeam t h).quarantine = s.quarantine := rfl
@[simp] theorem State.updTeam_subs (s : State) (t : Nat) (h : Team → Team) : (s.updTeam t h).subs = s.subs := rfl
@[simp] theorem State.updTeam_funcs (s : State) (t : Nat) (h : Team → Team) : (s.updTeam t h).funcs = s.funcs := rfl
@[simp] theorem State.updTeam_reqs (s : State) (t : Nat) (h : Team → Team) : (s.updTeam t h).reqs = s.reqs := rfl
@[simp] theorem State.updTeam_sent (s : State) (t : Nat) (h : Team → Team) : (s.updTeam t h).sent = s.sent := rfl
@[simp] theorem State.updTeam_peers (s : State) (t : Nat) (h : Team → Team) : (s.updTeam t h).peers = s.peers := rfl
@[simp] theorem State.updTeam_calls (s : State) (t : Nat) (h : Team → Team) : (s.updTeam t h).calls = s.calls := rfl
@[simp] theorem State.updTeam_fwVersion (s : State) (t : Nat) (h : Team → Team) : (s.updTeam t h).fwVersion = s.fwVersion := rfl
@[simp] theorem State.updTeam_fwMinimum (s : State) (t : Nat) (h : Team → Team) : (s.updTeam t h).fwMinimum = s.fwMinimum := rfl
@[simp] theorem State.updTeam_alarmAt (s : State) (t : Nat) (h : Team → Team) : (s.updTeam t h).alarmAt = s.alarmAt := rfl
@[simp] theorem State.updTeam_alarm (s : State) (t : Nat) (h : Team → Team) : (s.updTeam t h).alarm = s.alarm := rfl
@[simp] theorem State.updTeam_power (s : State) (t : Nat) (h : Team → Team) : (s.updTeam t h).power = s.power := rfl
@[simp] theorem State.updTeam_thermtrip (s : State) (t : Nat) (h : Team → Team) : (s.updTeam t h).thermtrip = s.thermtrip := rfl
@[simp] theorem State.updTeam_life (s : State) (t : Nat) (h : Team → Team) : (s.updTeam t h).life = s.life := rfl
@[simp] theorem State.updTeam_events (s : State) (t : Nat) (h : Team → Team) : (s.updTeam t h).events = s.events := rfl
@[simp] theorem State.updTeam_sessions (s : State) (t : Nat) (h : Team → Team) : (s.updTeam t h).sessions = s.sessions := rfl
@[simp] theorem State.updTeam_cur (s : State) (t : Nat) (h : Team → Team) : (s.updTeam t h).cur = s.cur := rfl
@[simp] theorem State.updTeam_issueQ (s : State) (t : Nat) (h : Team → Team) : (s.updTeam t h).issueQ = s.issueQ := rfl
@[simp] theorem State.updTeam_agenda (s : State) (t : Nat) (h : Team → Team) : (s.updTeam t h).agenda = s.agenda := rfl
@[simp] theorem State.updTeam_again (s : State) (t : Nat) (h : Team → Team) : (s.updTeam t h).again = s.again := rfl
@[simp] theorem State.updTeam_order (s : State) (t : Nat) (h : Team → Team) : (s.updTeam t h).order = s.order := rfl
@[simp] theorem State.updTeam_tear (s : State) (t : Nat) (h : Team → Team) : (s.updTeam t h).tear = s.tear := rfl
@[simp] theorem State.updTeam_nextId (s : State) (t : Nat) (h : Team → Team) : (s.updTeam t h).nextId = s.nextId := rfl
@[simp] theorem State.updTeam_fresh (s : State) (t : Nat) (h : Team → Team) : (s.updTeam t h).fresh = s.fresh := rfl

-- updGroup
@[simp] theorem State.updGroup_clock (s : State) (c : Cur) (h : Group → Group) : (s.updGroup c h).clock = s.clock := rfl
@[simp] theorem State.updGroup_mem (s : State) (c : Cur) (h : Group → Group) : (s.updGroup c h).mem = s.mem := rfl
@[simp] theorem State.updGroup_poison (s : State) (c : Cur) (h : Group → Group) : (s.updGroup c h).poison = s.poison := rfl
@[simp] theorem State.updGroup_grants (s : State) (c : Cur) (h : Group → Group) : (s.updGroup c h).grants = s.grants := rfl
@[simp] theorem State.updGroup_wiped (s : State) (c : Cur) (h : Group → Group) : (s.updGroup c h).wiped = s.wiped := rfl
@[simp] theorem State.updGroup_wipeHeld (s : State) (c : Cur) (h : Group → Group) : (s.updGroup c h).wipeHeld = s.wipeHeld := rfl
@[simp] theorem State.updGroup_migrations (s : State) (c : Cur) (h : Group → Group) : (s.updGroup c h).migrations = s.migrations := rfl
@[simp] theorem State.updGroup_leases (s : State) (c : Cur) (h : Group → Group) : (s.updGroup c h).leases = s.leases := rfl
@[simp] theorem State.updGroup_backing (s : State) (c : Cur) (h : Group → Group) : (s.updGroup c h).backing = s.backing := rfl
@[simp] theorem State.updGroup_teams (s : State) (c : Cur) (h : Group → Group) : (s.updGroup c h).teams = s.teams := rfl
@[simp] theorem State.updGroup_groups (s : State) (c : Cur) (h : Group → Group) : (s.updGroup c h).groups = s.groups.upd c.gid h := rfl
@[simp] theorem State.updGroup_frags (s : State) (c : Cur) (h : Group → Group) : (s.updGroup c h).frags = s.frags := rfl
@[simp] theorem State.updGroup_cores (s : State) (c : Cur) (h : Group → Group) : (s.updGroup c h).cores = s.cores := rfl
@[simp] theorem State.updGroup_fieldTlb (s : State) (c : Cur) (h : Group → Group) : (s.updGroup c h).fieldTlb = s.fieldTlb := rfl
@[simp] theorem State.updGroup_tte (s : State) (c : Cur) (h : Group → Group) : (s.updGroup c h).tte = s.tte := rfl
@[simp] theorem State.updGroup_ta (s : State) (c : Cur) (h : Group → Group) : (s.updGroup c h).ta = s.ta := rfl
@[simp] theorem State.updGroup_homes (s : State) (c : Cur) (h : Group → Group) : (s.updGroup c h).homes = s.homes := rfl
@[simp] theorem State.updGroup_cold (s : State) (c : Cur) (h : Group → Group) : (s.updGroup c h).cold = s.cold := rfl
@[simp] theorem State.updGroup_ops (s : State) (c : Cur) (h : Group → Group) : (s.updGroup c h).ops = s.ops := rfl
@[simp] theorem State.updGroup_answers (s : State) (c : Cur) (h : Group → Group) : (s.updGroup c h).answers = s.answers := rfl
@[simp] theorem State.updGroup_copies (s : State) (c : Cur) (h : Group → Group) : (s.updGroup c h).copies = s.copies := rfl
@[simp] theorem State.updGroup_copyQueue (s : State) (c : Cur) (h : Group → Group) : (s.updGroup c h).copyQueue = s.copyQueue := rfl
@[simp] theorem State.updGroup_laneCopies (s : State) (c : Cur) (h : Group → Group) : (s.updGroup c h).laneCopies = s.laneCopies := rfl
@[simp] theorem State.updGroup_torn (s : State) (c : Cur) (h : Group → Group) : (s.updGroup c h).torn = s.torn := rfl
@[simp] theorem State.updGroup_queues (s : State) (c : Cur) (h : Group → Group) : (s.updGroup c h).queues = s.queues := rfl
@[simp] theorem State.updGroup_launches (s : State) (c : Cur) (h : Group → Group) : (s.updGroup c h).launches = s.launches := rfl
@[simp] theorem State.updGroup_graphs (s : State) (c : Cur) (h : Group → Group) : (s.updGroup c h).graphs = s.graphs := rfl
@[simp] theorem State.updGroup_ctxs (s : State) (c : Cur) (h : Group → Group) : (s.updGroup c h).ctxs = s.ctxs := rfl
@[simp] theorem State.updGroup_sysPasids (s : State) (c : Cur) (h : Group → Group) : (s.updGroup c h).sysPasids = s.sysPasids := rfl
@[simp] theorem State.updGroup_devAlloc (s : State) (c : Cur) (h : Group → Group) : (s.updGroup c h).devAlloc = s.devAlloc := rfl
@[simp] theorem State.updGroup_stageq (s : State) (c : Cur) (h : Group → Group) : (s.updGroup c h).stageq = s.stageq := rfl
@[simp] theorem State.updGroup_arbiters (s : State) (c : Cur) (h : Group → Group) : (s.updGroup c h).arbiters = s.arbiters := rfl
@[simp] theorem State.updGroup_hubs (s : State) (c : Cur) (h : Group → Group) : (s.updGroup c h).hubs = s.hubs := rfl
@[simp] theorem State.updGroup_bindings (s : State) (c : Cur) (h : Group → Group) : (s.updGroup c h).bindings = s.bindings := rfl
@[simp] theorem State.updGroup_dws (s : State) (c : Cur) (h : Group → Group) : (s.updGroup c h).dws = s.dws := rfl
@[simp] theorem State.updGroup_ioLeases (s : State) (c : Cur) (h : Group → Group) : (s.updGroup c h).ioLeases = s.ioLeases := rfl
@[simp] theorem State.updGroup_quarantine (s : State) (c : Cur) (h : Group → Group) : (s.updGroup c h).quarantine = s.quarantine := rfl
@[simp] theorem State.updGroup_subs (s : State) (c : Cur) (h : Group → Group) : (s.updGroup c h).subs = s.subs := rfl
@[simp] theorem State.updGroup_funcs (s : State) (c : Cur) (h : Group → Group) : (s.updGroup c h).funcs = s.funcs := rfl
@[simp] theorem State.updGroup_reqs (s : State) (c : Cur) (h : Group → Group) : (s.updGroup c h).reqs = s.reqs := rfl
@[simp] theorem State.updGroup_sent (s : State) (c : Cur) (h : Group → Group) : (s.updGroup c h).sent = s.sent := rfl
@[simp] theorem State.updGroup_peers (s : State) (c : Cur) (h : Group → Group) : (s.updGroup c h).peers = s.peers := rfl
@[simp] theorem State.updGroup_calls (s : State) (c : Cur) (h : Group → Group) : (s.updGroup c h).calls = s.calls := rfl
@[simp] theorem State.updGroup_fwVersion (s : State) (c : Cur) (h : Group → Group) : (s.updGroup c h).fwVersion = s.fwVersion := rfl
@[simp] theorem State.updGroup_fwMinimum (s : State) (c : Cur) (h : Group → Group) : (s.updGroup c h).fwMinimum = s.fwMinimum := rfl
@[simp] theorem State.updGroup_alarmAt (s : State) (c : Cur) (h : Group → Group) : (s.updGroup c h).alarmAt = s.alarmAt := rfl
@[simp] theorem State.updGroup_alarm (s : State) (c : Cur) (h : Group → Group) : (s.updGroup c h).alarm = s.alarm := rfl
@[simp] theorem State.updGroup_power (s : State) (c : Cur) (h : Group → Group) : (s.updGroup c h).power = s.power := rfl
@[simp] theorem State.updGroup_thermtrip (s : State) (c : Cur) (h : Group → Group) : (s.updGroup c h).thermtrip = s.thermtrip := rfl
@[simp] theorem State.updGroup_life (s : State) (c : Cur) (h : Group → Group) : (s.updGroup c h).life = s.life := rfl
@[simp] theorem State.updGroup_events (s : State) (c : Cur) (h : Group → Group) : (s.updGroup c h).events = s.events := rfl
@[simp] theorem State.updGroup_sessions (s : State) (c : Cur) (h : Group → Group) : (s.updGroup c h).sessions = s.sessions := rfl
@[simp] theorem State.updGroup_cur (s : State) (c : Cur) (h : Group → Group) : (s.updGroup c h).cur = s.cur := rfl
@[simp] theorem State.updGroup_issueQ (s : State) (c : Cur) (h : Group → Group) : (s.updGroup c h).issueQ = s.issueQ := rfl
@[simp] theorem State.updGroup_agenda (s : State) (c : Cur) (h : Group → Group) : (s.updGroup c h).agenda = s.agenda := rfl
@[simp] theorem State.updGroup_again (s : State) (c : Cur) (h : Group → Group) : (s.updGroup c h).again = s.again := rfl
@[simp] theorem State.updGroup_order (s : State) (c : Cur) (h : Group → Group) : (s.updGroup c h).order = s.order := rfl
@[simp] theorem State.updGroup_tear (s : State) (c : Cur) (h : Group → Group) : (s.updGroup c h).tear = s.tear := rfl
@[simp] theorem State.updGroup_nextId (s : State) (c : Cur) (h : Group → Group) : (s.updGroup c h).nextId = s.nextId := rfl
@[simp] theorem State.updGroup_fresh (s : State) (c : Cur) (h : Group → Group) : (s.updGroup c h).fresh = s.fresh := rfl

-- updFrag
@[simp] theorem State.updFrag_clock (s : State) (c : Cur) (h : Frag → Frag) : (s.updFrag c h).clock = s.clock := rfl
@[simp] theorem State.updFrag_mem (s : State) (c : Cur) (h : Frag → Frag) : (s.updFrag c h).mem = s.mem := rfl
@[simp] theorem State.updFrag_poison (s : State) (c : Cur) (h : Frag → Frag) : (s.updFrag c h).poison = s.poison := rfl
@[simp] theorem State.updFrag_grants (s : State) (c : Cur) (h : Frag → Frag) : (s.updFrag c h).grants = s.grants := rfl
@[simp] theorem State.updFrag_wiped (s : State) (c : Cur) (h : Frag → Frag) : (s.updFrag c h).wiped = s.wiped := rfl
@[simp] theorem State.updFrag_wipeHeld (s : State) (c : Cur) (h : Frag → Frag) : (s.updFrag c h).wipeHeld = s.wipeHeld := rfl
@[simp] theorem State.updFrag_migrations (s : State) (c : Cur) (h : Frag → Frag) : (s.updFrag c h).migrations = s.migrations := rfl
@[simp] theorem State.updFrag_leases (s : State) (c : Cur) (h : Frag → Frag) : (s.updFrag c h).leases = s.leases := rfl
@[simp] theorem State.updFrag_backing (s : State) (c : Cur) (h : Frag → Frag) : (s.updFrag c h).backing = s.backing := rfl
@[simp] theorem State.updFrag_teams (s : State) (c : Cur) (h : Frag → Frag) : (s.updFrag c h).teams = s.teams := rfl
@[simp] theorem State.updFrag_groups (s : State) (c : Cur) (h : Frag → Frag) : (s.updFrag c h).groups = s.groups := rfl
@[simp] theorem State.updFrag_frags (s : State) (c : Cur) (h : Frag → Frag) : (s.updFrag c h).frags = s.frags.upd c.fid h := rfl
@[simp] theorem State.updFrag_cores (s : State) (c : Cur) (h : Frag → Frag) : (s.updFrag c h).cores = s.cores := rfl
@[simp] theorem State.updFrag_fieldTlb (s : State) (c : Cur) (h : Frag → Frag) : (s.updFrag c h).fieldTlb = s.fieldTlb := rfl
@[simp] theorem State.updFrag_tte (s : State) (c : Cur) (h : Frag → Frag) : (s.updFrag c h).tte = s.tte := rfl
@[simp] theorem State.updFrag_ta (s : State) (c : Cur) (h : Frag → Frag) : (s.updFrag c h).ta = s.ta := rfl
@[simp] theorem State.updFrag_homes (s : State) (c : Cur) (h : Frag → Frag) : (s.updFrag c h).homes = s.homes := rfl
@[simp] theorem State.updFrag_cold (s : State) (c : Cur) (h : Frag → Frag) : (s.updFrag c h).cold = s.cold := rfl
@[simp] theorem State.updFrag_ops (s : State) (c : Cur) (h : Frag → Frag) : (s.updFrag c h).ops = s.ops := rfl
@[simp] theorem State.updFrag_answers (s : State) (c : Cur) (h : Frag → Frag) : (s.updFrag c h).answers = s.answers := rfl
@[simp] theorem State.updFrag_copies (s : State) (c : Cur) (h : Frag → Frag) : (s.updFrag c h).copies = s.copies := rfl
@[simp] theorem State.updFrag_copyQueue (s : State) (c : Cur) (h : Frag → Frag) : (s.updFrag c h).copyQueue = s.copyQueue := rfl
@[simp] theorem State.updFrag_laneCopies (s : State) (c : Cur) (h : Frag → Frag) : (s.updFrag c h).laneCopies = s.laneCopies := rfl
@[simp] theorem State.updFrag_torn (s : State) (c : Cur) (h : Frag → Frag) : (s.updFrag c h).torn = s.torn := rfl
@[simp] theorem State.updFrag_queues (s : State) (c : Cur) (h : Frag → Frag) : (s.updFrag c h).queues = s.queues := rfl
@[simp] theorem State.updFrag_launches (s : State) (c : Cur) (h : Frag → Frag) : (s.updFrag c h).launches = s.launches := rfl
@[simp] theorem State.updFrag_graphs (s : State) (c : Cur) (h : Frag → Frag) : (s.updFrag c h).graphs = s.graphs := rfl
@[simp] theorem State.updFrag_ctxs (s : State) (c : Cur) (h : Frag → Frag) : (s.updFrag c h).ctxs = s.ctxs := rfl
@[simp] theorem State.updFrag_sysPasids (s : State) (c : Cur) (h : Frag → Frag) : (s.updFrag c h).sysPasids = s.sysPasids := rfl
@[simp] theorem State.updFrag_devAlloc (s : State) (c : Cur) (h : Frag → Frag) : (s.updFrag c h).devAlloc = s.devAlloc := rfl
@[simp] theorem State.updFrag_stageq (s : State) (c : Cur) (h : Frag → Frag) : (s.updFrag c h).stageq = s.stageq := rfl
@[simp] theorem State.updFrag_arbiters (s : State) (c : Cur) (h : Frag → Frag) : (s.updFrag c h).arbiters = s.arbiters := rfl
@[simp] theorem State.updFrag_hubs (s : State) (c : Cur) (h : Frag → Frag) : (s.updFrag c h).hubs = s.hubs := rfl
@[simp] theorem State.updFrag_bindings (s : State) (c : Cur) (h : Frag → Frag) : (s.updFrag c h).bindings = s.bindings := rfl
@[simp] theorem State.updFrag_dws (s : State) (c : Cur) (h : Frag → Frag) : (s.updFrag c h).dws = s.dws := rfl
@[simp] theorem State.updFrag_ioLeases (s : State) (c : Cur) (h : Frag → Frag) : (s.updFrag c h).ioLeases = s.ioLeases := rfl
@[simp] theorem State.updFrag_quarantine (s : State) (c : Cur) (h : Frag → Frag) : (s.updFrag c h).quarantine = s.quarantine := rfl
@[simp] theorem State.updFrag_subs (s : State) (c : Cur) (h : Frag → Frag) : (s.updFrag c h).subs = s.subs := rfl
@[simp] theorem State.updFrag_funcs (s : State) (c : Cur) (h : Frag → Frag) : (s.updFrag c h).funcs = s.funcs := rfl
@[simp] theorem State.updFrag_reqs (s : State) (c : Cur) (h : Frag → Frag) : (s.updFrag c h).reqs = s.reqs := rfl
@[simp] theorem State.updFrag_sent (s : State) (c : Cur) (h : Frag → Frag) : (s.updFrag c h).sent = s.sent := rfl
@[simp] theorem State.updFrag_peers (s : State) (c : Cur) (h : Frag → Frag) : (s.updFrag c h).peers = s.peers := rfl
@[simp] theorem State.updFrag_calls (s : State) (c : Cur) (h : Frag → Frag) : (s.updFrag c h).calls = s.calls := rfl
@[simp] theorem State.updFrag_fwVersion (s : State) (c : Cur) (h : Frag → Frag) : (s.updFrag c h).fwVersion = s.fwVersion := rfl
@[simp] theorem State.updFrag_fwMinimum (s : State) (c : Cur) (h : Frag → Frag) : (s.updFrag c h).fwMinimum = s.fwMinimum := rfl
@[simp] theorem State.updFrag_alarmAt (s : State) (c : Cur) (h : Frag → Frag) : (s.updFrag c h).alarmAt = s.alarmAt := rfl
@[simp] theorem State.updFrag_alarm (s : State) (c : Cur) (h : Frag → Frag) : (s.updFrag c h).alarm = s.alarm := rfl
@[simp] theorem State.updFrag_power (s : State) (c : Cur) (h : Frag → Frag) : (s.updFrag c h).power = s.power := rfl
@[simp] theorem State.updFrag_thermtrip (s : State) (c : Cur) (h : Frag → Frag) : (s.updFrag c h).thermtrip = s.thermtrip := rfl
@[simp] theorem State.updFrag_life (s : State) (c : Cur) (h : Frag → Frag) : (s.updFrag c h).life = s.life := rfl
@[simp] theorem State.updFrag_events (s : State) (c : Cur) (h : Frag → Frag) : (s.updFrag c h).events = s.events := rfl
@[simp] theorem State.updFrag_sessions (s : State) (c : Cur) (h : Frag → Frag) : (s.updFrag c h).sessions = s.sessions := rfl
@[simp] theorem State.updFrag_cur (s : State) (c : Cur) (h : Frag → Frag) : (s.updFrag c h).cur = s.cur := rfl
@[simp] theorem State.updFrag_issueQ (s : State) (c : Cur) (h : Frag → Frag) : (s.updFrag c h).issueQ = s.issueQ := rfl
@[simp] theorem State.updFrag_agenda (s : State) (c : Cur) (h : Frag → Frag) : (s.updFrag c h).agenda = s.agenda := rfl
@[simp] theorem State.updFrag_again (s : State) (c : Cur) (h : Frag → Frag) : (s.updFrag c h).again = s.again := rfl
@[simp] theorem State.updFrag_order (s : State) (c : Cur) (h : Frag → Frag) : (s.updFrag c h).order = s.order := rfl
@[simp] theorem State.updFrag_tear (s : State) (c : Cur) (h : Frag → Frag) : (s.updFrag c h).tear = s.tear := rfl
@[simp] theorem State.updFrag_nextId (s : State) (c : Cur) (h : Frag → Frag) : (s.updFrag c h).nextId = s.nextId := rfl
@[simp] theorem State.updFrag_fresh (s : State) (c : Cur) (h : Frag → Frag) : (s.updFrag c h).fresh = s.fresh := rfl

-- putCore
@[simp] theorem State.putCore_clock (s : State) (k : Nat) (x : Core) : (s.putCore k x).clock = s.clock := rfl
@[simp] theorem State.putCore_mem (s : State) (k : Nat) (x : Core) : (s.putCore k x).mem = s.mem := rfl
@[simp] theorem State.putCore_poison (s : State) (k : Nat) (x : Core) : (s.putCore k x).poison = s.poison := rfl
@[simp] theorem State.putCore_grants (s : State) (k : Nat) (x : Core) : (s.putCore k x).grants = s.grants := rfl
@[simp] theorem State.putCore_wiped (s : State) (k : Nat) (x : Core) : (s.putCore k x).wiped = s.wiped := rfl
@[simp] theorem State.putCore_wipeHeld (s : State) (k : Nat) (x : Core) : (s.putCore k x).wipeHeld = s.wipeHeld := rfl
@[simp] theorem State.putCore_migrations (s : State) (k : Nat) (x : Core) : (s.putCore k x).migrations = s.migrations := rfl
@[simp] theorem State.putCore_leases (s : State) (k : Nat) (x : Core) : (s.putCore k x).leases = s.leases := rfl
@[simp] theorem State.putCore_backing (s : State) (k : Nat) (x : Core) : (s.putCore k x).backing = s.backing := rfl
@[simp] theorem State.putCore_teams (s : State) (k : Nat) (x : Core) : (s.putCore k x).teams = s.teams := rfl
@[simp] theorem State.putCore_groups (s : State) (k : Nat) (x : Core) : (s.putCore k x).groups = s.groups := rfl
@[simp] theorem State.putCore_frags (s : State) (k : Nat) (x : Core) : (s.putCore k x).frags = s.frags := rfl
@[simp] theorem State.putCore_cores (s : State) (k : Nat) (x : Core) : (s.putCore k x).cores = s.cores.put k x := rfl
@[simp] theorem State.putCore_fieldTlb (s : State) (k : Nat) (x : Core) : (s.putCore k x).fieldTlb = s.fieldTlb := rfl
@[simp] theorem State.putCore_tte (s : State) (k : Nat) (x : Core) : (s.putCore k x).tte = s.tte := rfl
@[simp] theorem State.putCore_ta (s : State) (k : Nat) (x : Core) : (s.putCore k x).ta = s.ta := rfl
@[simp] theorem State.putCore_homes (s : State) (k : Nat) (x : Core) : (s.putCore k x).homes = s.homes := rfl
@[simp] theorem State.putCore_cold (s : State) (k : Nat) (x : Core) : (s.putCore k x).cold = s.cold := rfl
@[simp] theorem State.putCore_ops (s : State) (k : Nat) (x : Core) : (s.putCore k x).ops = s.ops := rfl
@[simp] theorem State.putCore_answers (s : State) (k : Nat) (x : Core) : (s.putCore k x).answers = s.answers := rfl
@[simp] theorem State.putCore_copies (s : State) (k : Nat) (x : Core) : (s.putCore k x).copies = s.copies := rfl
@[simp] theorem State.putCore_copyQueue (s : State) (k : Nat) (x : Core) : (s.putCore k x).copyQueue = s.copyQueue := rfl
@[simp] theorem State.putCore_laneCopies (s : State) (k : Nat) (x : Core) : (s.putCore k x).laneCopies = s.laneCopies := rfl
@[simp] theorem State.putCore_torn (s : State) (k : Nat) (x : Core) : (s.putCore k x).torn = s.torn := rfl
@[simp] theorem State.putCore_queues (s : State) (k : Nat) (x : Core) : (s.putCore k x).queues = s.queues := rfl
@[simp] theorem State.putCore_launches (s : State) (k : Nat) (x : Core) : (s.putCore k x).launches = s.launches := rfl
@[simp] theorem State.putCore_graphs (s : State) (k : Nat) (x : Core) : (s.putCore k x).graphs = s.graphs := rfl
@[simp] theorem State.putCore_ctxs (s : State) (k : Nat) (x : Core) : (s.putCore k x).ctxs = s.ctxs := rfl
@[simp] theorem State.putCore_sysPasids (s : State) (k : Nat) (x : Core) : (s.putCore k x).sysPasids = s.sysPasids := rfl
@[simp] theorem State.putCore_devAlloc (s : State) (k : Nat) (x : Core) : (s.putCore k x).devAlloc = s.devAlloc := rfl
@[simp] theorem State.putCore_stageq (s : State) (k : Nat) (x : Core) : (s.putCore k x).stageq = s.stageq := rfl
@[simp] theorem State.putCore_arbiters (s : State) (k : Nat) (x : Core) : (s.putCore k x).arbiters = s.arbiters := rfl
@[simp] theorem State.putCore_hubs (s : State) (k : Nat) (x : Core) : (s.putCore k x).hubs = s.hubs := rfl
@[simp] theorem State.putCore_bindings (s : State) (k : Nat) (x : Core) : (s.putCore k x).bindings = s.bindings := rfl
@[simp] theorem State.putCore_dws (s : State) (k : Nat) (x : Core) : (s.putCore k x).dws = s.dws := rfl
@[simp] theorem State.putCore_ioLeases (s : State) (k : Nat) (x : Core) : (s.putCore k x).ioLeases = s.ioLeases := rfl
@[simp] theorem State.putCore_quarantine (s : State) (k : Nat) (x : Core) : (s.putCore k x).quarantine = s.quarantine := rfl
@[simp] theorem State.putCore_subs (s : State) (k : Nat) (x : Core) : (s.putCore k x).subs = s.subs := rfl
@[simp] theorem State.putCore_funcs (s : State) (k : Nat) (x : Core) : (s.putCore k x).funcs = s.funcs := rfl
@[simp] theorem State.putCore_reqs (s : State) (k : Nat) (x : Core) : (s.putCore k x).reqs = s.reqs := rfl
@[simp] theorem State.putCore_sent (s : State) (k : Nat) (x : Core) : (s.putCore k x).sent = s.sent := rfl
@[simp] theorem State.putCore_peers (s : State) (k : Nat) (x : Core) : (s.putCore k x).peers = s.peers := rfl
@[simp] theorem State.putCore_calls (s : State) (k : Nat) (x : Core) : (s.putCore k x).calls = s.calls := rfl
@[simp] theorem State.putCore_fwVersion (s : State) (k : Nat) (x : Core) : (s.putCore k x).fwVersion = s.fwVersion := rfl
@[simp] theorem State.putCore_fwMinimum (s : State) (k : Nat) (x : Core) : (s.putCore k x).fwMinimum = s.fwMinimum := rfl
@[simp] theorem State.putCore_alarmAt (s : State) (k : Nat) (x : Core) : (s.putCore k x).alarmAt = s.alarmAt := rfl
@[simp] theorem State.putCore_alarm (s : State) (k : Nat) (x : Core) : (s.putCore k x).alarm = s.alarm := rfl
@[simp] theorem State.putCore_power (s : State) (k : Nat) (x : Core) : (s.putCore k x).power = s.power := rfl
@[simp] theorem State.putCore_thermtrip (s : State) (k : Nat) (x : Core) : (s.putCore k x).thermtrip = s.thermtrip := rfl
@[simp] theorem State.putCore_life (s : State) (k : Nat) (x : Core) : (s.putCore k x).life = s.life := rfl
@[simp] theorem State.putCore_events (s : State) (k : Nat) (x : Core) : (s.putCore k x).events = s.events := rfl
@[simp] theorem State.putCore_sessions (s : State) (k : Nat) (x : Core) : (s.putCore k x).sessions = s.sessions := rfl
@[simp] theorem State.putCore_cur (s : State) (k : Nat) (x : Core) : (s.putCore k x).cur = s.cur := rfl
@[simp] theorem State.putCore_issueQ (s : State) (k : Nat) (x : Core) : (s.putCore k x).issueQ = s.issueQ := rfl
@[simp] theorem State.putCore_agenda (s : State) (k : Nat) (x : Core) : (s.putCore k x).agenda = s.agenda := rfl
@[simp] theorem State.putCore_again (s : State) (k : Nat) (x : Core) : (s.putCore k x).again = s.again := rfl
@[simp] theorem State.putCore_order (s : State) (k : Nat) (x : Core) : (s.putCore k x).order = s.order := rfl
@[simp] theorem State.putCore_tear (s : State) (k : Nat) (x : Core) : (s.putCore k x).tear = s.tear := rfl
@[simp] theorem State.putCore_nextId (s : State) (k : Nat) (x : Core) : (s.putCore k x).nextId = s.nextId := rfl
@[simp] theorem State.putCore_fresh (s : State) (k : Nat) (x : Core) : (s.putCore k x).fresh = s.fresh := rfl

-- putHub
@[simp] theorem State.putHub_clock (s : State) (h : Nat) (x : Hub) : (s.putHub h x).clock = s.clock := rfl
@[simp] theorem State.putHub_mem (s : State) (h : Nat) (x : Hub) : (s.putHub h x).mem = s.mem := rfl
@[simp] theorem State.putHub_poison (s : State) (h : Nat) (x : Hub) : (s.putHub h x).poison = s.poison := rfl
@[simp] theorem State.putHub_grants (s : State) (h : Nat) (x : Hub) : (s.putHub h x).grants = s.grants := rfl
@[simp] theorem State.putHub_wiped (s : State) (h : Nat) (x : Hub) : (s.putHub h x).wiped = s.wiped := rfl
@[simp] theorem State.putHub_wipeHeld (s : State) (h : Nat) (x : Hub) : (s.putHub h x).wipeHeld = s.wipeHeld := rfl
@[simp] theorem State.putHub_migrations (s : State) (h : Nat) (x : Hub) : (s.putHub h x).migrations = s.migrations := rfl
@[simp] theorem State.putHub_leases (s : State) (h : Nat) (x : Hub) : (s.putHub h x).leases = s.leases := rfl
@[simp] theorem State.putHub_backing (s : State) (h : Nat) (x : Hub) : (s.putHub h x).backing = s.backing := rfl
@[simp] theorem State.putHub_teams (s : State) (h : Nat) (x : Hub) : (s.putHub h x).teams = s.teams := rfl
@[simp] theorem State.putHub_groups (s : State) (h : Nat) (x : Hub) : (s.putHub h x).groups = s.groups := rfl
@[simp] theorem State.putHub_frags (s : State) (h : Nat) (x : Hub) : (s.putHub h x).frags = s.frags := rfl
@[simp] theorem State.putHub_cores (s : State) (h : Nat) (x : Hub) : (s.putHub h x).cores = s.cores := rfl
@[simp] theorem State.putHub_fieldTlb (s : State) (h : Nat) (x : Hub) : (s.putHub h x).fieldTlb = s.fieldTlb := rfl
@[simp] theorem State.putHub_tte (s : State) (h : Nat) (x : Hub) : (s.putHub h x).tte = s.tte := rfl
@[simp] theorem State.putHub_ta (s : State) (h : Nat) (x : Hub) : (s.putHub h x).ta = s.ta := rfl
@[simp] theorem State.putHub_homes (s : State) (h : Nat) (x : Hub) : (s.putHub h x).homes = s.homes := rfl
@[simp] theorem State.putHub_cold (s : State) (h : Nat) (x : Hub) : (s.putHub h x).cold = s.cold := rfl
@[simp] theorem State.putHub_ops (s : State) (h : Nat) (x : Hub) : (s.putHub h x).ops = s.ops := rfl
@[simp] theorem State.putHub_answers (s : State) (h : Nat) (x : Hub) : (s.putHub h x).answers = s.answers := rfl
@[simp] theorem State.putHub_copies (s : State) (h : Nat) (x : Hub) : (s.putHub h x).copies = s.copies := rfl
@[simp] theorem State.putHub_copyQueue (s : State) (h : Nat) (x : Hub) : (s.putHub h x).copyQueue = s.copyQueue := rfl
@[simp] theorem State.putHub_laneCopies (s : State) (h : Nat) (x : Hub) : (s.putHub h x).laneCopies = s.laneCopies := rfl
@[simp] theorem State.putHub_torn (s : State) (h : Nat) (x : Hub) : (s.putHub h x).torn = s.torn := rfl
@[simp] theorem State.putHub_queues (s : State) (h : Nat) (x : Hub) : (s.putHub h x).queues = s.queues := rfl
@[simp] theorem State.putHub_launches (s : State) (h : Nat) (x : Hub) : (s.putHub h x).launches = s.launches := rfl
@[simp] theorem State.putHub_graphs (s : State) (h : Nat) (x : Hub) : (s.putHub h x).graphs = s.graphs := rfl
@[simp] theorem State.putHub_ctxs (s : State) (h : Nat) (x : Hub) : (s.putHub h x).ctxs = s.ctxs := rfl
@[simp] theorem State.putHub_sysPasids (s : State) (h : Nat) (x : Hub) : (s.putHub h x).sysPasids = s.sysPasids := rfl
@[simp] theorem State.putHub_devAlloc (s : State) (h : Nat) (x : Hub) : (s.putHub h x).devAlloc = s.devAlloc := rfl
@[simp] theorem State.putHub_stageq (s : State) (h : Nat) (x : Hub) : (s.putHub h x).stageq = s.stageq := rfl
@[simp] theorem State.putHub_arbiters (s : State) (h : Nat) (x : Hub) : (s.putHub h x).arbiters = s.arbiters := rfl
@[simp] theorem State.putHub_hubs (s : State) (h : Nat) (x : Hub) : (s.putHub h x).hubs = s.hubs.put h x := rfl
@[simp] theorem State.putHub_bindings (s : State) (h : Nat) (x : Hub) : (s.putHub h x).bindings = s.bindings := rfl
@[simp] theorem State.putHub_dws (s : State) (h : Nat) (x : Hub) : (s.putHub h x).dws = s.dws := rfl
@[simp] theorem State.putHub_ioLeases (s : State) (h : Nat) (x : Hub) : (s.putHub h x).ioLeases = s.ioLeases := rfl
@[simp] theorem State.putHub_quarantine (s : State) (h : Nat) (x : Hub) : (s.putHub h x).quarantine = s.quarantine := rfl
@[simp] theorem State.putHub_subs (s : State) (h : Nat) (x : Hub) : (s.putHub h x).subs = s.subs := rfl
@[simp] theorem State.putHub_funcs (s : State) (h : Nat) (x : Hub) : (s.putHub h x).funcs = s.funcs := rfl
@[simp] theorem State.putHub_reqs (s : State) (h : Nat) (x : Hub) : (s.putHub h x).reqs = s.reqs := rfl
@[simp] theorem State.putHub_sent (s : State) (h : Nat) (x : Hub) : (s.putHub h x).sent = s.sent := rfl
@[simp] theorem State.putHub_peers (s : State) (h : Nat) (x : Hub) : (s.putHub h x).peers = s.peers := rfl
@[simp] theorem State.putHub_calls (s : State) (h : Nat) (x : Hub) : (s.putHub h x).calls = s.calls := rfl
@[simp] theorem State.putHub_fwVersion (s : State) (h : Nat) (x : Hub) : (s.putHub h x).fwVersion = s.fwVersion := rfl
@[simp] theorem State.putHub_fwMinimum (s : State) (h : Nat) (x : Hub) : (s.putHub h x).fwMinimum = s.fwMinimum := rfl
@[simp] theorem State.putHub_alarmAt (s : State) (h : Nat) (x : Hub) : (s.putHub h x).alarmAt = s.alarmAt := rfl
@[simp] theorem State.putHub_alarm (s : State) (h : Nat) (x : Hub) : (s.putHub h x).alarm = s.alarm := rfl
@[simp] theorem State.putHub_power (s : State) (h : Nat) (x : Hub) : (s.putHub h x).power = s.power := rfl
@[simp] theorem State.putHub_thermtrip (s : State) (h : Nat) (x : Hub) : (s.putHub h x).thermtrip = s.thermtrip := rfl
@[simp] theorem State.putHub_life (s : State) (h : Nat) (x : Hub) : (s.putHub h x).life = s.life := rfl
@[simp] theorem State.putHub_events (s : State) (h : Nat) (x : Hub) : (s.putHub h x).events = s.events := rfl
@[simp] theorem State.putHub_sessions (s : State) (h : Nat) (x : Hub) : (s.putHub h x).sessions = s.sessions := rfl
@[simp] theorem State.putHub_cur (s : State) (h : Nat) (x : Hub) : (s.putHub h x).cur = s.cur := rfl
@[simp] theorem State.putHub_issueQ (s : State) (h : Nat) (x : Hub) : (s.putHub h x).issueQ = s.issueQ := rfl
@[simp] theorem State.putHub_agenda (s : State) (h : Nat) (x : Hub) : (s.putHub h x).agenda = s.agenda := rfl
@[simp] theorem State.putHub_again (s : State) (h : Nat) (x : Hub) : (s.putHub h x).again = s.again := rfl
@[simp] theorem State.putHub_order (s : State) (h : Nat) (x : Hub) : (s.putHub h x).order = s.order := rfl
@[simp] theorem State.putHub_tear (s : State) (h : Nat) (x : Hub) : (s.putHub h x).tear = s.tear := rfl
@[simp] theorem State.putHub_nextId (s : State) (h : Nat) (x : Hub) : (s.putHub h x).nextId = s.nextId := rfl
@[simp] theorem State.putHub_fresh (s : State) (h : Nat) (x : Hub) : (s.putHub h x).fresh = s.fresh := rfl

-- due
@[simp] theorem State.due_clock (s : State) (l : List Event) : (s.due l).clock = s.clock := rfl
@[simp] theorem State.due_mem (s : State) (l : List Event) : (s.due l).mem = s.mem := rfl
@[simp] theorem State.due_poison (s : State) (l : List Event) : (s.due l).poison = s.poison := rfl
@[simp] theorem State.due_grants (s : State) (l : List Event) : (s.due l).grants = s.grants := rfl
@[simp] theorem State.due_wiped (s : State) (l : List Event) : (s.due l).wiped = s.wiped := rfl
@[simp] theorem State.due_wipeHeld (s : State) (l : List Event) : (s.due l).wipeHeld = s.wipeHeld := rfl
@[simp] theorem State.due_migrations (s : State) (l : List Event) : (s.due l).migrations = s.migrations := rfl
@[simp] theorem State.due_leases (s : State) (l : List Event) : (s.due l).leases = s.leases := rfl
@[simp] theorem State.due_backing (s : State) (l : List Event) : (s.due l).backing = s.backing := rfl
@[simp] theorem State.due_teams (s : State) (l : List Event) : (s.due l).teams = s.teams := rfl
@[simp] theorem State.due_groups (s : State) (l : List Event) : (s.due l).groups = s.groups := rfl
@[simp] theorem State.due_frags (s : State) (l : List Event) : (s.due l).frags = s.frags := rfl
@[simp] theorem State.due_cores (s : State) (l : List Event) : (s.due l).cores = s.cores := rfl
@[simp] theorem State.due_fieldTlb (s : State) (l : List Event) : (s.due l).fieldTlb = s.fieldTlb := rfl
@[simp] theorem State.due_tte (s : State) (l : List Event) : (s.due l).tte = s.tte := rfl
@[simp] theorem State.due_ta (s : State) (l : List Event) : (s.due l).ta = s.ta := rfl
@[simp] theorem State.due_homes (s : State) (l : List Event) : (s.due l).homes = s.homes := rfl
@[simp] theorem State.due_cold (s : State) (l : List Event) : (s.due l).cold = s.cold := rfl
@[simp] theorem State.due_ops (s : State) (l : List Event) : (s.due l).ops = s.ops := rfl
@[simp] theorem State.due_answers (s : State) (l : List Event) : (s.due l).answers = s.answers := rfl
@[simp] theorem State.due_copies (s : State) (l : List Event) : (s.due l).copies = s.copies := rfl
@[simp] theorem State.due_copyQueue (s : State) (l : List Event) : (s.due l).copyQueue = s.copyQueue := rfl
@[simp] theorem State.due_laneCopies (s : State) (l : List Event) : (s.due l).laneCopies = s.laneCopies := rfl
@[simp] theorem State.due_torn (s : State) (l : List Event) : (s.due l).torn = s.torn := rfl
@[simp] theorem State.due_queues (s : State) (l : List Event) : (s.due l).queues = s.queues := rfl
@[simp] theorem State.due_launches (s : State) (l : List Event) : (s.due l).launches = s.launches := rfl
@[simp] theorem State.due_graphs (s : State) (l : List Event) : (s.due l).graphs = s.graphs := rfl
@[simp] theorem State.due_ctxs (s : State) (l : List Event) : (s.due l).ctxs = s.ctxs := rfl
@[simp] theorem State.due_sysPasids (s : State) (l : List Event) : (s.due l).sysPasids = s.sysPasids := rfl
@[simp] theorem State.due_devAlloc (s : State) (l : List Event) : (s.due l).devAlloc = s.devAlloc := rfl
@[simp] theorem State.due_stageq (s : State) (l : List Event) : (s.due l).stageq = s.stageq := rfl
@[simp] theorem State.due_arbiters (s : State) (l : List Event) : (s.due l).arbiters = s.arbiters := rfl
@[simp] theorem State.due_hubs (s : State) (l : List Event) : (s.due l).hubs = s.hubs := rfl
@[simp] theorem State.due_bindings (s : State) (l : List Event) : (s.due l).bindings = s.bindings := rfl
@[simp] theorem State.due_dws (s : State) (l : List Event) : (s.due l).dws = s.dws := rfl
@[simp] theorem State.due_ioLeases (s : State) (l : List Event) : (s.due l).ioLeases = s.ioLeases := rfl
@[simp] theorem State.due_quarantine (s : State) (l : List Event) : (s.due l).quarantine = s.quarantine := rfl
@[simp] theorem State.due_subs (s : State) (l : List Event) : (s.due l).subs = s.subs := rfl
@[simp] theorem State.due_funcs (s : State) (l : List Event) : (s.due l).funcs = s.funcs := rfl
@[simp] theorem State.due_reqs (s : State) (l : List Event) : (s.due l).reqs = s.reqs := rfl
@[simp] theorem State.due_sent (s : State) (l : List Event) : (s.due l).sent = s.sent := rfl
@[simp] theorem State.due_peers (s : State) (l : List Event) : (s.due l).peers = s.peers := rfl
@[simp] theorem State.due_calls (s : State) (l : List Event) : (s.due l).calls = s.calls := rfl
@[simp] theorem State.due_fwVersion (s : State) (l : List Event) : (s.due l).fwVersion = s.fwVersion := rfl
@[simp] theorem State.due_fwMinimum (s : State) (l : List Event) : (s.due l).fwMinimum = s.fwMinimum := rfl
@[simp] theorem State.due_alarmAt (s : State) (l : List Event) : (s.due l).alarmAt = s.alarmAt := rfl
@[simp] theorem State.due_alarm (s : State) (l : List Event) : (s.due l).alarm = s.alarm := rfl
@[simp] theorem State.due_power (s : State) (l : List Event) : (s.due l).power = s.power := rfl
@[simp] theorem State.due_thermtrip (s : State) (l : List Event) : (s.due l).thermtrip = s.thermtrip := rfl
@[simp] theorem State.due_life (s : State) (l : List Event) : (s.due l).life = s.life := rfl
@[simp] theorem State.due_events (s : State) (l : List Event) : (s.due l).events = s.events := rfl
@[simp] theorem State.due_sessions (s : State) (l : List Event) : (s.due l).sessions = s.sessions := rfl
@[simp] theorem State.due_cur (s : State) (l : List Event) : (s.due l).cur = s.cur := rfl
@[simp] theorem State.due_issueQ (s : State) (l : List Event) : (s.due l).issueQ = s.issueQ := rfl
@[simp] theorem State.due_agenda (s : State) (l : List Event) : (s.due l).agenda = s.agenda ++ l := rfl
@[simp] theorem State.due_again (s : State) (l : List Event) : (s.due l).again = s.again := rfl
@[simp] theorem State.due_order (s : State) (l : List Event) : (s.due l).order = s.order := rfl
@[simp] theorem State.due_tear (s : State) (l : List Event) : (s.due l).tear = s.tear := rfl
@[simp] theorem State.due_nextId (s : State) (l : List Event) : (s.due l).nextId = s.nextId := rfl
@[simp] theorem State.due_fresh (s : State) (l : List Event) : (s.due l).fresh = s.fresh := rfl

end Sys2Proof.Machine
end

