-- ==== Sys2Proof/Laws/Words.lean ====
section
/-! SUPPORT. Laws of a word's issue: modes, results in registers, and the fragment going on. -/

namespace Sys2Proof.Machine

-- Issue ---------------------------------------------------------------------------------------------------------------

/-- A word in a mode that permits it has its meaning. -/
theorem State.word_permits {s : State} {p : Permit} {n : Now} (h : s.permits p n) (f : Now → State) : s.word p f = .next (f n) := by
  unfold State.word
  rw [h.1]
  simp only
  rw [h.2]

/-- A word always answers a next state. -/
theorem State.word_next (s : State) (p : Permit) (f : Now → State) : ∃ t, s.word p f = .next t := by
  unfold State.word
  split
  · exact ⟨_, rfl⟩
  · split <;> exact ⟨_, rfl⟩

theorem State.wordW_next (s : State) (wt : Wait) (p : Permit) (f : Now → State) : ∃ t, s.wordW wt p f = .next t := s.word_next p _

theorem State.done_fits {s : State} {n : Now} {size : Nat} (h : n.fits size) (m : Now) (gap : Nat) (hm : m.f.pc = n.f.pc) :
    s.done m size gap = s.holding m.g { m.f with pc := m.f.pc + BitVec.ofNat 64 size, ready := some (s.clock + gap) } := by
  unfold Now.fits at h
  rw [← hm] at h
  unfold State.done
  simp only [h, if_true]
  rfl

/-- A word that opens a pending result (R31). -/
theorem State.opens_fits {s : State} {n : Now} {size : Nat} (h : n.fits size) (la : Nat) (p : Pend) :
    ({ s with nextId := s.nextId + 1 } : State).done (n.opens s.cur.slot s.nextId la p) size = s.opened n p la size :=
  State.done_fits h (n.opens s.cur.slot s.nextId la p) 1 rfl

/-- An interlocked word leaves its result to be written (R84). -/
theorem State.write_fits {s : State} {n : Now} {size : Nat} (h : n.fits size) (l : List RegVal) (lat : Nat) (fl : BitVec 5) (fp : Bool) :
    s.write n l lat fl fp size = s.wrote n l lat fl fp size := State.opens_fits h 0 _

theorem State.later_fits {s : State} {n : Now} (h : n.fits 8) (la : La) (p : Pend) : s.later n la p = s.opened n p la.val :=
  State.opens_fits h la.val p

@[simp] theorem Group.raiseFlags_zero (g : Group) : g.raiseFlags 0#5 = g := by
  unfold Group.raiseFlags
  simp

-- Registers -----------------------------------------------------------------------------------------------------------------

@[simp] theorem Group.puts_nil (g : Group) : g.puts [] = g := rfl
@[simp] theorem Group.puts_cons (g : Group) (x : RegVal) (l : List RegVal) : g.puts (x :: l) = (g.put x).puts l := rfl
theorem Group.puts_append (g : Group) (l l' : List RegVal) : g.puts (l ++ l') = (g.puts l).puts l' := List.foldl_append
@[simp] theorem Group.put_s (g : Group) (r : Nat) (x : Word) : g.put (.s r x) = g.sset r x := rfl
@[simp] theorem Group.put_v (g : Group) (r i : Nat) (x : Lane) : g.put (.v r i x) = g.vset r i x := rfl
@[simp] theorem Group.put_p (g : Group) (r : Nat) (m x : Mask) : g.put (.p r m x) = g.pset r m x := rfl

/-- A scalar reads back what was written; s0 reads zero (R29). -/
theorem Group.sget_sset (g : Group) (r q : Nat) (x : Word) :
    (g.sset r x).sget q = if q = r ∧ r ≠ 0 then x else g.sget q := by
  unfold Group.sget Group.sset
  by_cases hr : r = 0
  · simp [hr]
  · by_cases hq : q = 0
    · simp [hq, hr]
      intro h; exact absurd h.symm hr
    · simp only [hr, hq, if_false, Cells.get_set]
      by_cases h : q = r <;> simp [h, hr]

theorem Group.vget_vset (g : Group) (r i q j : Nat) (x : Lane) (hi : i < 32) (hj : j < 32) :
    (g.vset r i x).vget q j = if q = r ∧ j = i then x else g.vget q j := by
  unfold Group.vget Group.vset
  simp only [Cells.get_set]
  by_cases h : q = r ∧ j = i
  · simp [h]
  · rw [if_neg h, if_neg]
    omega

@[simp] theorem Group.vset_rest (g : Group) (r i : Nat) (x : Lane) (y : Cells Lane) : { g.vset r i x with v := y } = { g with v := y } := rfl

/-- The lanes of a mask written one after another. -/
theorem Group.puts_lanes (l : List Nat) (g : Group) (d : Nat) (h : Nat → Lane) (hl : ∀ i ∈ l, i < 32) (hd : l.Nodup) :
    { (g.puts (l.map (fun i => RegVal.v d i (h i)))) with v := g.v } = g
      ∧ ∀ r i, i < 32 → (g.puts (l.map (fun i => RegVal.v d i (h i)))).vget r i = if r = d ∧ i ∈ l then h i else g.vget r i := by
  induction l generalizing g with
  | nil => simp
  | cons a l ih =>
    obtain ⟨h1, h2⟩ := ih (g.vset d a (h a)) (fun i hi => hl i (List.mem_cons_of_mem _ hi)) (List.nodup_cons.1 hd).2
    refine ⟨?_, ?_⟩
    · simp only [List.map_cons, Group.puts_cons, Group.put_v]
      have := congrArg (fun x : Group => { x with v := g.v }) h1
      exact this
    · intro r i hi
      simp only [List.map_cons, Group.puts_cons, Group.put_v]
      rw [h2 r i hi, Group.vget_vset _ _ _ _ _ _ (hl a (by simp)) hi]
      have hna := (List.nodup_cons.1 hd).1
      by_cases hr : r = d
      · by_cases hia : i = a
        · subst hia; simp [hr, hna]
        · simp [hr, hia]
      · simp [hr]

theorem lanesOf_lt (m : Mask) (i : Nat) (h : i ∈ lanesOf m) : i < 32 := by
  unfold lanesOf at h
  simp at h
  exact h.1

theorem mem_lanesOf (m : Mask) (i : Nat) : i ∈ lanesOf m ↔ i < 32 ∧ m.getLsbD i = true := by
  unfold lanesOf
  simp

theorem lanesOf_nodup (m : Mask) : (lanesOf m).Nodup := List.Nodup.filter _ List.nodup_range

theorem laneVals_one (m : Mask) (d : Nat) (h : Nat → Lane) :
    laneVals m (fun i => [RegVal.v d i (h i)]) = (lanesOf m).map (fun i => RegVal.v d i (h i)) := by
  unfold laneVals
  induction lanesOf m with
  | nil => rfl
  | cons a l ih => simp [List.flatMap_cons, ih]

/-- An interlocked word with one result for each lane of a mask. -/
theorem State.write_lanes {s : State} {n : Now} {size : Nat} (hf : n.fits size) (m : Mask) (d : Nat) (h : Nat → Lane) (lat : Nat) (fl : BitVec 5)
    (fp : Bool) : s.write n (laneVals m (fun i => [.v d i (h i)])) lat fl fp size = s.wroteLanes n m d h lat fl fp size := by
  rw [State.write_fits hf, laneVals_one]
  rfl

/-- A predicate reads back what was written in the lanes written; p0 reads all ones (R29). -/
theorem Group.pget_pset (g : Group) (r q : Nat) (m x : Mask) :
    (g.pset r m x).pget q = if q = r ∧ r ≠ 0 then g.pget r &&& ~~~m ||| (x &&& m) else g.pget q := by
  unfold Group.pset Group.pget
  by_cases hr : r = 0
  · simp [hr]
  · by_cases hq : q = 0
    · have : ¬q = r := fun h => hr (h ▸ hq)
      simp [hq, hr]
      intro h; exact absurd h.symm hr
    · simp only [hr, hq, if_false, Cells.get_set]
      by_cases h : q = r <;> simp [h, hr]

end Sys2Proof.Machine
end

