-- ==== Sys2Proof/Tests/Slice0.lean ====
section
/-! SUPPORT. Tests: words written out from the encoding tables, ill-formed terms, single steps with results that the rules give, and
for each statement a state and operands that meet its hypotheses. A test's expected result is the rule's own. -/

namespace Sys2Proof.Machine

set_option maxRecDepth 10000

-- Small states -----------------------------------------------------------------------------------------------------------

/-- The device of the tests: the tables of withFetchWord, with a COUNTER page at 0x20000, an MMIO page at 0x30000, an IOPIN page at 0x40000
and a page that is not present at 0x50000 of its PASID. -/
def dev : State :=
  let s := State.reset.slotTables
  let s := s.memStore (slotRoot + 0x40010) (leBytes 8 (slotFrame + 0x10000 + 2 ^ 57 + 0x127))
  let s := s.memStore (slotRoot + 0x40018) (leBytes 8 (0x100000000000 + 2 * 2 ^ 57 + 0x127))
  let s := s.memStore (slotRoot + 0x40020) (leBytes 8 (slotFrame + 0x20000 + 3 * 2 ^ 57 + 0x127))
  let s := s.memStore (slotRoot + 0x40028) (leBytes 8 0x007)
  { s with clock := 1000000, nextId := 2, cur := ⟨16, 0⟩ }

/-- A team of a mode, with one group and one fragment of lanes 0 to 2 at its word. -/
def aTeam (kind : Mode) : Team := { kind := kind, launch := 1, core := slotCore kind, pasid := slotPasid, bs := 1, ntiles := 4 }
def aFrag : Frag := { em := 7, pc := 0x10000, st := .active, active := some 0, ready := some 0 }
/-- That team, group and fragment as the ones whose word is being issued. -/
def now (kind : Mode) (g : Group) (f : Frag := aFrag) : Now := ⟨aTeam kind, g, f⟩
def at1 (n : Now) : State := { dev with teams := [(1, some n.t)], groups := [(16, some n.g)], frags := [(1024, some n.f)] }

/-- A group with some scalars, and vector registers from lane 0 on. -/
def regs (s : List (Nat × Word)) (v : List (Nat × List Lane) := []) : Group :=
  v.foldl (fun g e => (e.2.zip (List.range e.2.length)).foldl (fun g x => g.vset e.1 x.2 x.1) g) (s.foldl (fun g e => g.sset e.1 e.2) {})

/-- A group with the values of its pending results, and their flags, written. -/
def written (g : Group) : Group := g.pends.all.foldl (fun g p => (g.puts (p.2.vals.getD [])).raiseFlags p.2.flags) g
/-- The group after a word and its results, where there is a next state. -/
def groupAfter (i : Instr) (n : Now) : Option Group :=
  match exec i (at1 n) with
  | .next t => (t.groups.find 16).map written
  | _ => none
/-- Lanes 0 to 3 of a vector register after a word, and FPFLAGS. -/
def lanesAfter (i : Instr) (n : Now) (r : Nat) : Option (List Lane × BitVec 5) :=
  (groupAfter i n).map (fun g => ((List.range 4).map (g.vget r), g.fpflags))
/-- A scalar after a word. -/
def scalarAfter (i : Instr) (n : Now) (r : Nat) : Option Word := (groupAfter i n).map (·.sget r)
/-- The values and flags of the pending result that a word opens. -/
def pendAfter (i : Instr) (n : Now) : Option (Option (List RegVal) × BitVec 5) :=
  match exec i (at1 n) with
  | .next t => (t.groups.find 16).bind (fun g => (g.pends.all.getLast?).map (fun p => (p.2.vals, p.2.flags)))
  | _ => none
/-- The trap that a compute team has stopped with: code, TRAPPC and TRAPVA. -/
def trapAfter (i : Instr) (n : Now) : Option (Code × Word × Word) :=
  match exec i (at1 n) with
  | .next t => (t.teams.find 1).bind (fun x => if x.run = .stopped then some (x.trap.code, x.trap.pc, x.trap.va) else none)
  | _ => none
/-- The address of the fragment after a word. -/
def pcAfter (i : Instr) (n : Now) : Option Word :=
  match exec i (at1 n) with
  | .next t => (t.frags.find 1024).map (·.pc)
  | _ => none

/-- A full-form word written out field by field: FORM, OP, D, A, B, G, LA, M (R28). -/
def fw (form op d a b g la m : Nat) : Nat :=
  form <<< 60 ||| op <<< 52 ||| d <<< 45 ||| a <<< 38 ||| b <<< 31 ||| g <<< 27 ||| la <<< 23 ||| m

/-- One half of a PAIR word (R35). -/
def hw (hop d a x : Nat) : Nat := hop <<< 24 ||| d <<< 17 ||| a <<< 10 ||| x

/-- A PAIR word: H0 in bits [59:30], H1 in bits [29:0] (R35). -/
def pw (h0 h1 : Nat) : Nat := 0xC <<< 60 ||| h0 <<< 30 ||| h1

/-- An .l form and its EXT word, the first word lowest (R39). -/
def lw (w payload : Nat) : Nat := w ||| (0xF <<< 60 ||| payload) <<< 64

/-- Each word, as a row of the opcode table numbers its bits, decodes to the instruction beside it. -/
abbrev Decodes (t : List (Nat × Instr)) : Prop := ∀ p ∈ t, decodeTableWord 128 p.1 = some p.2

-- Decoding, one word for every constructor that has words. The fields are read off the tables named; every word
-- gives each of its register fields another value.

-- R88 to R98, with the worked words of R34, R39 and R94
theorem test_decode_scalar_arithmetic : Decodes [
    (0x0000610280000000, .sadd 3 4 5),
    (fw 0 0x01 3 4 5 0 0 0, .ssub 3 4 5),
    (fw 0 0x02 3 4 5 0 0 0, .smul 3 4 5),
    (fw 0 0x03 3 4 5 0 0 1, .smulh .un 3 4 5),
    (fw 0 0x04 3 4 5 0 2 0, .sdiv .sg 2 3 4 5),
    (fw 0 0x05 3 4 5 0 9 1, .srem .un 9 3 4 5),
    (fw 0 0x06 3 4 5 0 0 0, .sand 3 4 5),
    (fw 0 0x07 3 4 5 0 0 0, .sor 3 4 5),
    (fw 0 0x08 3 4 5 0 0 0, .sxor 3 4 5),
    (fw 0 0x09 3 4 5 0 0 0, .sshl 3 4 (.reg 5)),
    (fw 0 0x09 3 4 0 0 0 0x4D, .sshl 3 4 (.imm 13)),
    (fw 0 0x0A 3 4 5 0 0 0, .sshr 3 4 (.reg 5)),
    (fw 0 0x0B 3 4 0 0 0 0x7F, .ssra 3 4 (.imm 63)),
    (fw 0 0x0C 3 4 5 0 0 1, .smin .un 3 4 5),
    (fw 0 0x0D 3 4 5 0 0 0, .smax .sg 3 4 5)] := by decide

theorem test_decode_scalar_moves : Decodes [
    (fw 0 0x0E 3 4 0 0 0 0, .sclz 3 4),
    (fw 0 0x0F 3 4 0 0 0 0, .spopc 3 4),
    (0x010142C00000220C, .sbfx true 10 11 12 8),
    (fw 0 0x11 3 4 0 0 0 0x20C, .sbfi 3 4 12 8),
    (fw 0 0x12 2 7 9 0 0 5, .scmp .lt .un 2 7 9),
    (fw 0 0x13 3 4 5 9 0 0xB00, .ssel ⟨true, 1⟩ 3 4 5 ⟨true, 3⟩),
    (fw 0 0x14 3 4 0 0 0 0, .smov 3 4),
    (0x015060FF807FFFF8, .saddi 3 3 (-8)),
    (fw 0 0x16 5 0 0x40 0 0 1, .smovi 5 0x20000001),
    (lw 0x0160BFC000000000 0x123456789ABCDEF, .smoviL 5 0x0123456789ABCDEF),
    (lw (fw 0 0x17 5 0x7F 0 0 0 0xF) 0xFFFFFFFFFFFFFF8, .slit 5 (-8)),
    (fw 0 0x18 3 4 5 0 0 0x37FFF8, .saddr 3 4 5 3 (-8))] := by decide

-- R88, R99 to R109, with the worked word of R109
theorem test_decode_vint_arithmetic : Decodes [
    (fw 1 0x00 3 4 5 0 0 0, .vadd 3 4 (.vec 5)),
    (fw 1 0x01 3 4 5 0 0 0x80, .vsub 3 4 (.sca 5)),
    (fw 1 0x02 3 4 5 0 0 0, .vmul 3 4 (.vec 5)),
    (fw 1 0x03 3 4 5 0 0 0x81, .vmulh .un 3 4 (.sca 5)),
    (fw 1 0x04 3 4 5 0 0 0, .vmad 3 4 (.vec 5)),
    (fw 1 0x05 3 4 5 0 0 0, .vadds .sg 3 4 (.vec 5)),
    (fw 1 0x06 3 4 5 0 0 1, .vsubs .un 3 4 (.vec 5)),
    (fw 1 0x07 3 4 5 0 0 0, .vand 3 4 (.vec 5)),
    (fw 1 0x08 3 4 5 0 0 0, .vor 3 4 (.vec 5)),
    (fw 1 0x09 3 4 5 0 0 0x80, .vxor 3 4 (.sca 5)),
    (fw 1 0x0A 3 4 0 0 0 0x4D, .vshl 3 4 (.imm 13)),
    (fw 1 0x0B 3 4 5 0 0 0x80, .vshr 3 4 (.src (.sca 5))),
    (fw 1 0x0C 3 4 5 0 0 0, .vsra 3 4 (.src (.vec 5))),
    (fw 1 0x0D 3 4 5 0 0 1, .vmin .un 3 4 (.vec 5)),
    (fw 1 0x0E 3 4 5 0 0 0, .vmax .sg 3 4 (.vec 5))] := by decide

theorem test_decode_vint_moves : Decodes [
    (fw 1 0x0F 3 4 0 0 0 2, .vabs true 3 4),
    (fw 1 0x10 3 4 0 0 0 0, .vclz 3 4),
    (fw 1 0x11 3 4 0 0 0 0, .vpopc 3 4),
    (fw 1 0x12 3 4 0 0 0 0x2204, .vbfx true 3 4 4 8),
    (fw 1 0x13 3 4 0 0 0 0x0184, .vbfi 3 4 4 6),
    (0x114041C480000084, .vcmp .lt .sg 2 7 (.sca 9)),
    (fw 1 0x15 3 4 5 1 0 0xA80, .vsel ⟨false, 1⟩ 3 4 (.sca 5) ⟨true, 2⟩),
    (fw 1 0x16 3 4 0 0 0 0, .vmov 3 4),
    (fw 1 0x17 3 0 0x7F 0 0 0x7FFFFF, .vmovi 3 (-1)),
    (lw (fw 1 0x17 3 0x7F 0 0 0 0) 0xDEADBEEF, .vmoviL 3 0xDEADBEEF),
    (fw 1 0x18 3 4 1 0 0 2, .vaddi 3 4 0x800002),
    (fw 1 0x19 3 4 0 0 0 1, .vbcast true 3 4),
    (fw 1 0x1A 4 6 9 0 0 0x2FFFF8, .vaddr .un 4 6 9 2 (-8)),
    (fw 1 0x1B 3 4 5 0 0 2, .vdp4 .sg .un 3 4 (.vec 5))] := by decide

-- R60, R112, R115 to R125; VFMA.rtz v6, v7, s3 is R117's worked word
theorem test_decode_vflt : Decodes [
    (fw 2 0x00 3 4 5 0 0 1, .vfadd .rtz 3 4 (.vec 5)),
    (fw 2 0x01 3 4 5 0 0 2, .vfsub .rdn 3 4 (.vec 5)),
    (fw 2 0x02 3 4 5 0 0 0x83, .vfmul .rup 3 4 (.sca 5)),
    (0x2030C1C180000081, .vfma .rtz 6 7 (.sca 3)),
    (fw 2 0x04 3 4 5 0 0 0, .vfnma .rne 3 4 (.vec 5)),
    (fw 2 0x05 3 4 5 0 0 0, .vfmin 3 4 (.vec 5)),
    (fw 2 0x06 3 4 5 0 0 0x80, .vfmax 3 4 (.sca 5)),
    (fw 2 0x07 3 4 0 0 0 0, .vfabs 3 4),
    (fw 2 0x08 3 4 0 0 0 0, .vfneg 3 4),
    (fw 2 0x09 2 4 5 0 0 0x30, .vfcmp .un 2 4 (.vec 5)),
    (fw 2 0x0A 3 4 0 0 0 0, .vfclass 3 4),
    (fw 2 0x0B 3 4 0 0 2 0, .vfrcp 2 3 4),
    (fw 2 0x0C 3 4 0 0 0 0, .vfrsq 0 3 4),
    (fw 2 0x0D 3 4 5 0 15 1, .vfdiv 15 .rtz 3 4 (.vec 5)),
    (fw 2 0x0E 3 4 0 0 1 3, .vfsqrt 1 .rup 3 4),
    (fw 2 0x0F 3 4 0 0 1 0, .vfexp2 1 3 4),
    (fw 2 0x10 3 4 0 0 1 0, .vflog2 1 3 4),
    (fw 2 0x11 3 4 0 0 0 2, .vfrnd .rdn 3 4),
    (fw 2 0x12 3 4 5 0 0 4, .vhadd .bf16 .rne 3 4 (.vec 5)),
    (fw 2 0x13 3 4 5 0 0 0x81, .vhmul .f16 .rtz 3 4 (.sca 5)),
    (fw 2 0x14 3 4 5 0 0 7, .vhfma .bf16 .rup 3 4 (.vec 5)),
    (fw 2 0x15 3 4 5 0 0 2, .vfdot2 .f16 .rdn 3 4 (.vec 5))] := by decide

-- R126 to R138
theorem test_decode_xlane : Decodes [
    (fw 3 0x00 5 4 0 0 0 0x104, .vcvt .f16 .f32 .rne true false 5 4),
    (fw 3 0x00 5 4 0 0 0 0x22F, .vcvt .s32 .f16 .rup false true 5 4),
    (fw 3 0x01 3 4 0 0 0 1, .vnpk .b32 3 4),
    (fw 3 0x02 3 4 0 0 0 0x28, .vnupk .b16 4 true 3 4),
    (fw 3 0x03 3 4 5 0 0 0, .vshuf 3 4 5),
    (fw 3 0x04 3 4 0 0 0 0x25, .vrot 3 4 (.imm 5)),
    (fw 3 0x05 3 4 0 0 6 0x21, .vred 6 .fadd .rtz 3 4),
    (fw 3 0x06 3 4 0 0 0 0x10, .vscan 0 .maxN .rne 3 4),
    (fw 3 0x07 2 3 0 0 0 0, .vvote (.any 2) 3),
    (fw 3 0x07 2 3 0 0 0 1, .vvote (.all 2) 3),
    (fw 3 0x07 2 3 0 0 0 2, .vvote (.uni 2) 3),
    (fw 3 0x07 40 3 0 0 0 3, .vvote (.ballot 40) 3),
    (fw 3 0x08 3 4 0 0 0 0x65, .vext true 3 4 (.imm 5)),
    (fw 3 0x09 3 4 7 0 0 0, .vins 3 4 (.reg 7)),
    (fw 3 0x0A 3 4 0 0 0 1, .vlane true 3 4),
    (fw 3 0x0B 2 3 4 0 0 4, .plog 4 2 3 4),
    (fw 3 0x0C 2 40 0 0 0 0, .pset 2 40),
    (fw 3 0x0D 40 2 0 0 0 0, .pget 40 2),
    (fw 3 0x0E 3 0 0 0 0 0, .emrd 3),
    (fw 3 0x0F 0 4 0 0 0 0, .emwr 4)] := by decide

-- R35 to R37: the second half is SMOVI s5, -1 throughout
theorem test_decode_pair_vector : Decodes [
    (pw (hw 0x00 3 4 0) (hw 0x29 5 0 0x3FF), .pairVadd 3 4 (.smovi 5 (-1))),
    (pw (hw 0x01 3 4 0) (hw 0x29 5 0 0x3FF), .pairVsub 3 4 (.smovi 5 (-1))),
    (pw (hw 0x02 3 4 0) (hw 0x29 5 0 0x3FF), .pairVmul 3 4 (.smovi 5 (-1))),
    (pw (hw 0x03 3 4 0) (hw 0x29 5 0 0x3FF), .pairVand 3 4 (.smovi 5 (-1))),
    (pw (hw 0x04 3 4 0) (hw 0x29 5 0 0x3FF), .pairVor 3 4 (.smovi 5 (-1))),
    (pw (hw 0x05 3 4 0) (hw 0x29 5 0 0x3FF), .pairVxor 3 4 (.smovi 5 (-1))),
    (pw (hw 0x06 3 4 0) (hw 0x29 5 0 0x3FF), .pairVshl 3 4 (.smovi 5 (-1))),
    (pw (hw 0x07 3 4 0) (hw 0x29 5 0 0x3FF), .pairVshr 3 4 (.smovi 5 (-1))),
    (pw (hw 0x08 3 4 0) (hw 0x29 5 0 0x3FF), .pairVsra 3 4 (.smovi 5 (-1))),
    (pw (hw 0x09 3 4 1) (hw 0x29 5 0 0x3FF), .pairVmin .un 3 4 (.smovi 5 (-1))),
    (pw (hw 0x0A 3 4 0) (hw 0x29 5 0 0x3FF), .pairVmax .sg 3 4 (.smovi 5 (-1))),
    (pw (hw 0x0B 3 4 0) (hw 0x29 5 0 0x3FF), .pairVmov 3 4 (.smovi 5 (-1))),
    (pw (hw 0x0C 3 4 0x1FF) (hw 0x29 5 0 0x3FF), .pairVaddi 3 4 0x1FF (.smovi 5 (-1))),
    (pw (hw 0x0D 3 0 0x200) (hw 0x29 5 0 0x3FF), .pairVmovi 3 0x200 (.smovi 5 (-1))),
    (pw (hw 0x10 3 4 1) (hw 0x29 5 0 0x3FF), .pairVfadd .rtz 3 4 (.smovi 5 (-1))),
    (pw (hw 0x11 3 4 2) (hw 0x29 5 0 0x3FF), .pairVfsub .rdn 3 4 (.smovi 5 (-1))),
    (pw (hw 0x12 3 4 3) (hw 0x29 5 0 0x3FF), .pairVfmul .rup 3 4 (.smovi 5 (-1))),
    (pw (hw 0x13 3 4 0) (hw 0x29 5 0 0x3FF), .pairVfmin 3 4 (.smovi 5 (-1))),
    (pw (hw 0x14 3 4 0) (hw 0x29 5 0 0x3FF), .pairVfmax 3 4 (.smovi 5 (-1))),
    (pw (hw 0x15 3 4 0) (hw 0x29 5 0 0x3FF), .pairVhadd .rne 3 4 (.smovi 5 (-1))),
    (pw (hw 0x16 3 4 1) (hw 0x29 5 0 0x3FF), .pairVhmul .rtz 3 4 (.smovi 5 (-1)))] := by decide

-- R35 to R37: the second half is VADDI v6, v7, 1 throughout
theorem test_decode_pair_scalar : Decodes [
    (pw (hw 0x20 3 4 0) (hw 0x0C 6 7 1), .pairSadd 3 4 (.vaddi 6 7 1)),
    (pw (hw 0x21 3 4 0) (hw 0x0C 6 7 1), .pairSsub 3 4 (.vaddi 6 7 1)),
    (pw (hw 0x22 3 4 0) (hw 0x0C 6 7 1), .pairSand 3 4 (.vaddi 6 7 1)),
    (pw (hw 0x23 3 4 0) (hw 0x0C 6 7 1), .pairSor 3 4 (.vaddi 6 7 1)),
    (pw (hw 0x24 3 4 0) (hw 0x0C 6 7 1), .pairSxor 3 4 (.vaddi 6 7 1)),
    (pw (hw 0x25 3 4 0) (hw 0x0C 6 7 1), .pairSshl 3 4 (.vaddi 6 7 1)),
    (pw (hw 0x26 3 4 0) (hw 0x0C 6 7 1), .pairSshr 3 4 (.vaddi 6 7 1)),
    (pw (hw 0x27 3 4 0) (hw 0x0C 6 7 1), .pairSmov 3 4 (.vaddi 6 7 1)),
    (pw (hw 0x28 3 4 0x3F8) (hw 0x0C 6 7 1), .pairSaddi 3 4 (-8) (.vaddi 6 7 1)),
    (pw (hw 0x29 3 0 0x3F8) (hw 0x0C 6 7 1), .pairSmovi 3 (-8) (.vaddi 6 7 1)),
    (0xF123456789ABCDEF, .ext 0x123456789ABCDEF)] := by decide

-- R203 to R210 and R241, with the worked words of R206 and R207
theorem test_decode_mem : Decodes [
    (0x4001423F81801BFE, .ld 0 3 .h .sg 10 8 (-2)),
    (fw 4 0x00 12 8 1 0 0 (5 <<< 15 ||| 4 <<< 12 ||| 3), .ld 5 0 .q .un 12 8 0x403),
    (0x4010820018002010, .st ⟨false, 3⟩ 0 .w 4 8 16),
    (fw 4 0x02 4 9 0 0 1 (3 <<< 12 ||| 8), .lds 0 1 .d .un 4 (.vec 9) 8),
    (fw 4 0x02 4 9 0 0 0 (1 <<< 11 ||| 1 <<< 10 ||| 8), .lds 0 0 .b .sg 4 (.sca 9) 8),
    (fw 4 0x03 4 9 0 9 0 (1 <<< 15 ||| 2 <<< 12 ||| 1 <<< 10), .sts ⟨true, 1⟩ 1 .w 4 (.sca 9) 0),
    (fw 4 0x04 4 8 0x40 0 2 (2 <<< 12), .ldro 0 2 .w .un 4 8 0x10000),
    (fw 4 0x05 4 9 0 0 2 (2 <<< 12 ||| 1 <<< 11 ||| 1 <<< 10 ||| 4), .sld 0 2 .w .sg true 4 9 4),
    (fw 4 0x06 4 9 0 1 0 (4 <<< 12 ||| 16), .sst ⟨false, 1⟩ 0 .q false 4 9 16),
    (fw 4 0x07 10 8 12 2 3 (3 <<< 12 ||| 2 <<< 8 ||| 1 <<< 7 ||| 5 <<< 2),
      .red ⟨false, 2⟩ 0 3 true .maxS 5 (some 10) 8 12),
    (fw 4 0x07 0 8 5 0 0 (2 <<< 15 ||| 2 <<< 12 ||| 8 <<< 8 ||| 1 <<< 2),
      .red ⟨false, 0⟩ 2 0 false .fadd 1 none 8 5),
    (fw 4 0x08 0 0 0 0 0 (6 <<< 15), .roinv 6),
    (fw 4 0x09 0 9 0 0 0 (1 <<< 11 ||| 1 <<< 10 ||| 64), .pref 0 true (.sca 9) 64),
    (fw 4 0x09 0 8 0 0 0 64, .pref 0 false (.vec 8) 64)] := by decide

-- R231 and R271, with their worked words and those of R252 (the two fences)
theorem test_decode_ctr : Decodes [
    (fw 5 0x00 0 10 11 0 0 0, .cadd 0 none 10 (.reg 11) none),
    (fw 5 0x00 3 10 0 0 4 (77 <<< 8 ||| 0xE0 ||| 3), .cadd 4 (some 3) 10 (.imm 77) (some 3)),
    (0x5000000000000025, .cadd 0 none 0 (.reg 0) (some 5)),
    (fw 5 0x01 6 8 9 1 2 0x40, .caddv ⟨false, 1⟩ 2 (some 6) 8 9 none),
    (0x5020028580000021, .cwait 10 11 (some 1)),
    (fw 5 0x03 3 20 0 0 0 0x322, .cwaita 3 20 3 (some 2)),
    (fw 5 0x04 3 10 0 0 2 0, .cread 2 3 10 none),
    (0x5040000000000025, .cread 0 0 0 (some 5)),
    (fw 5 0x05 2 10 11 0 0 0x25, .ctest 2 10 11 (some 5)),
    (fw 5 0x06 0 10 11 0 0 0, .cset 10 11),
    (0x5070020008000000, .qpush ⟨false, 1⟩ 0 8 none),
    (fw 5 0x07 0 8 5 0 0 0x83, .qpush ⟨false, 0⟩ 3 8 (some 5)),
    (0x50820141000000A1, .qpop 0 true 1 16 2 (some 5)),
    (fw 5 0x09 4 5 0 0 1 0x87, .qinfo 1 7 4 (some 5))] := by decide

-- R161 and R163, with R164's worked word
theorem test_decode_ctl : Decodes [
    (fw 6 0x00 0 0 0x7F 0 0 0x7FFFFE, .bra (-2)),
    (lw (fw 6 0x00 0 0x7F 0 0 0 0) 0x10000000100, .braL 0x10000000100),
    (fw 6 0x01 0 0 0 0xA 0 5, .brc ⟨true, 2⟩ 5),
    (fw 6 0x02 0 0 1 1 0 (2 <<< 8 ||| 0x55), .brd ⟨false, 1⟩ 0x55 0x8002),
    (fw 6 0x03 0 0 0 0 0 0x55, .join 0x55),
    (fw 6 0x04 17 0 0 0 0 5, .call (.sca 17) 5),
    (lw (fw 6 0x04 0x42 0x7F 0 0 0 0) 0x100, .callL (.vec 2) 0x100),
    (fw 6 0x05 0 0x43 0 0 0 0, .ret (.vec 3)),
    (0x6060044980000000, .jmpi (.sca 17) 19),
    (fw 6 0x07 9 0 0x7F 0 0 0x7FFFFD, .sdbnz 9 (-3)),
    (fw 6 0x08 0 0 1 0 0 (3 <<< 15 ||| 2), .yieldW 3 0x8002),
    (fw 6 0x09 0 0 0 0 0 (0x81 <<< 15), .waitt 0x81),
    (fw 6 0x0A 0 0 0 0 0 0, .stop),
    (fw 6 0x0B 0 0 0 0 0 (0x12345 <<< 3 ||| 6), .trap 6 0x12345),
    (fw 6 0x0C 0 0 0 0 0 0, .nop)] := by decide

-- R288, with R289's worked word
theorem test_decode_copy : Decodes [
    (fw 7 0x00 6 8 5 0 0 (2 <<< 15 ||| 3 <<< 12 ||| 1 <<< 11 ||| 5 <<< 6 ||| 1 <<< 5 ||| 1 <<< 2),
      .cpy 2 3 true false .d 6 8 (some ⟨5, 5⟩)),
    (fw 7 0x00 6 8 0 0 0 (1 <<< 12 ||| 1 <<< 4 ||| 2 <<< 2), .cpy 0 1 false true .q 6 8 none),
    (0x7012810500000860, .cpyt 0 0 true false 20 4 (some ⟨10, 1⟩)),
    (fw 7 0x02 6 20 0 0 0 (7 <<< 12 ||| 4 <<< 1), .cpyf 0 7 false .q 6 20 none),
    (fw 7 0x03 6 0 0 0 2 (3 <<< 12), .cpyq 0 2 3 6),
    (fw 7 0x04 0 0 0 0 0 (3 <<< 12), .cpyx 0 3)] := by decide

-- R319, with its worked words
theorem test_decode_mtx : Decodes [
    (fw 8 0x00 0 0 0 0 0 (1 <<< 15), .baton 1),
    (0x8010024000000001, .bpass 0 (some 9)),
    (fw 8 0x01 0 0 0 0 0 0, .bpass 0 none),
    (0x8020080000000002, .mbq 0 false 2 32),
    (0x8030040000002002, .mbqs 0 2 false 2 16),
    (0x8040450A80001008, .mma 0 1 0 true 2 20 21),
    (0x8040450A80001078, .mma 0 1 7 true 2 20 21),
    (fw 8 0x05 3 0 0 0 0 2, .mzero 0 3 2),
    (fw 8 0x06 3 20 0 0 0 0, .mloada 0 3 20),
    (0x8070008B00000E44, .mdrain 0 0 (.scr 22) 2 0 7 .bf16 .f32 .rne .b16),
    (fw 8 0x07 64 3 0 0 5 (1 <<< 12 ||| 1 <<< 9 ||| 4 <<< 6 ||| 1 <<< 5 ||| 1 <<< 3),
      .mdrain 0 5 (.reg 64) 3 1 1 .s8 .s32 .rtz .b16),
    (fw 8 0x08 20 21 22 0 0 0xA, .mcmpr 0 .np8 .b32 20 21 22),
    (fw 8 0x09 6 0 0 0 2 (3 <<< 12 ||| 1), .mstat 0 2 3 true 6)] := by decide

-- R449 and R465, with their worked words
theorem test_decode_io : Decodes [
    (0x9000010280000000, .dbw 4 5),
    (fw 9 0x01 3 4 0 0 2 (1 <<< 22 ||| 1 <<< 19 ||| 0x10), .iold 2 true .h 3 4 0x10),
    (0x9020010300100010, .iost false .w 4 6 0x10)] := by decide

-- R427, R359, R360, R379, R447, R453, R456 and R457, with their worked words
theorem test_decode_sys : Decodes [
    (0xA000400000000001, .srd 0 1 2),
    (fw 10 0x00 100 0 0 0 3 0, .srd 3 0 100),
    (fw 10 0x01 0 4 0 0 0 0x118, .swr 0x118 4),
    (0xA010014000000010, .fpflagsWrite 5),
    (fw 10 0x01 0 4 0 0 0 0x111, .stageqWrite 4),
    (fw 10 0x02 0 0 0 0 0 0, .eret),
    (0xA030010000000002, .tlbi .va false 4),
    (0xA040A20000000001, .pgharv true 5 8),
    (0xA05001000000000C, .cscope 4 12),
    (0xA060000000000009, .bmode .ring 2),
    (0xA070020000000001, .msib .one 8),
    (0xA080020000000000, .atsinv false 8),
    (0xA090020000000000, .prgr .ok 8),
    (0xA0A0010000000011, .svcall 4 17),
    (0xA0B0028580000000, .park 10 11 none),
    (0xA0C0028000000000, .plaunch 10),
    (0xA0D0000000000000, .pcancel),
    (0xA0E0028000000007, .prepeat 10 7),
    (0xA0F0010000000000, .halt 4)] := by decide

/-- No term of the list is one that an encoding carries. -/
abbrev IllFormed (t : List Instr) : Prop := ∀ i ∈ t, i.wf = false

-- Ill-formed terms, one for each check of Instr.wf at the edge of its range.

-- R88, R94, R104, R108, R126, R128, R132
theorem test_ill_formed_arithmetic : IllFormed [
    .sbfx true 1 2 0 0, .sbfx false 1 2 57 8, .sbfi 1 2 63 2, .vbfx true 1 2 25 8, .vbfi 1 2 0 33, .vbfi 1 2 0 0,
    .saddr 1 2 3 5 0, .vaddr .sg 5 6 7 0 0, .vaddr .sg 4 7 7 0 0, .vaddr .sg 4 6 7 5 0,
    .vcvt .f32 .f16 .rne true false 1 2, .vcvt .f16 .s32 .rne false true 1 2,
    .vnupk .b16 1 false 1 2, .vnupk .b16 9 false 1 2, .vred 0 .add .rtz 1 2, .vscan 0 .fmin .rup 1 2] := by decide

-- R203, R204, R210, R241
theorem test_ill_formed_mem : IllFormed [
    .ld 0 0 .d .un 5 8 0, .ld 0 0 .w .un 5 9 0, .ld 0 0 .w .sg 5 8 0, .ld 0 0 .q .un 6 8 0, .ld 0 0 .w .un 5 127 0,
    .ldro 0 0 .d .un 127 8 0, .ldro 0 0 .d .sg 4 8 0, .lds 0 0 .d .un 5 (.sca 3) 0, .lds 0 0 .q .sg 4 (.sca 3) 0,
    .st .always 0 .d 5 8 0, .st .always 0 .w 5 9 0, .sts .always 0 .q 6 (.vec 3) 0,
    .sld 0 0 .q .un false 5 2 0, .sld 0 0 .d .sg false 4 2 0, .sst .always 0 .q false 5 2 0, .pref 0 true (.vec 9) 0,
    .red .always 0 0 false .add 5 none 9 3, .red .always 0 0 true .add 5 none 8 3,
    .red .always 0 0 false .add 7 none 8 3, .red .always 0 0 true .fadd 5 none 8 4,
    .red .always 0 1 false .add 5 none 8 3, .red .always 0 1 true .add 5 (some 3) 8 4] := by decide

-- R231, R271, R161, R288
theorem test_ill_formed_ctr_copy : IllFormed [
    .cadd 1 none 4 (.imm 1) none, .cadd 0 none 4 (.imm 1) (some 7), .caddv .always 0 none 9 3 none,
    .caddv .always 1 none 8 3 none, .caddv .always 0 (some 5) 8 3 none, .caddv .always 0 none 8 3 (some 7),
    .cwait 4 5 (some 7), .cread 0 4 5 (some 7), .ctest 1 4 5 (some 7), .park 4 5 (some 7),
    .cwaita 4 57 3 none, .cwaita 4 63 0 none, .cwaita 4 5 0 (some 7),
    .qpush .always 0 121 none, .qpop 0 false 0 121 1 none, .qinfo 0 0 62 none, .sdbnz 0 1,
    .cpy 0 0 false true .w 5 6 none, .cpy 0 0 true false .w 5 7 none, .cpy 0 0 true true .w 5 6 (some ⟨1, 7⟩),
    .cpyt 0 0 true false 5 6 (some ⟨1, 7⟩), .cpyf 0 0 true .w 5 63 none, .cpyf 0 0 true .q 5 62 none,
    .cpyf 0 0 true .w 5 6 (some ⟨1, 7⟩)] := by decide

-- R319, R325, R328, R465, R428, R360, R359, R429, R430, R453, R457, R456, R379
theorem test_ill_formed_mtx_sys : IllFormed [
    .mbq 0 false 0 97, .mbq 0 true 0 109, .mdrain 0 0 (.scr 1) 0 1 7 .f32 .f32 .rne .b16,
    .mdrain 0 0 (.scr 1) 0 0 0 .f32 .f32 .rne .b32, .mdrain 0 0 (.reg 0) 0 0 0 .np8 .f32 .rne .b16,
    .mdrain 0 0 (.reg 113) 0 0 0 .f32 .f32 .rne .b16, .mcmpr 0 .s8 .b16 1 2 3,
    .iold 0 false .q 1 2 0, .iold 0 true .d 1 2 0, .iost false .q 1 2 0, .iost true .d 1 2 0,
    .srd 0 0x00B 1, .srd 0 1 64, .swr 0x0FF 1, .swr 0x010 1, .swr 0x111 1,
    .tlbi .all true 0, .tlbi .all false 1, .tlbi .pasid true 1, .tlbi .va false 63, .tlbi .range true 62,
    .pgharv true 1 61, .cscope 63 8, .cscope 1 7, .bmode .way 1, .msib .one 62, .atsinv false 61, .prgr .ok 63,
    .plaunch 63, .prepeat 63 1] := by decide

-- R38: the same destination, the same bank, and three reads of one bank
theorem test_ill_formed_pair : IllFormed [
    .pairVadd 3 4 (.vmovi 3 0), .pairSadd 3 4 (.smovi 3 0), .pairVadd 3 4 (.vmovi 7 0),
    .pairVadd 4 8 (.vadd 5 12)] := by decide

-- One step of an instruction; the expected values stand in the rules named ---------------------------------------------------

-- R56, R90, R91
theorem test_smulh_signed : scalarAfter (.smulh .sg 3 4 5) (now .compute (regs [(4, -1), (5, 2)])) 3 = some (-1) := by decide
theorem test_smulh_unsigned : scalarAfter (.smulh .un 3 4 5) (now .compute (regs [(4, -1), (5, 2)])) 3 = some 1 := by decide
theorem test_ssub_wraps : scalarAfter (.ssub 4 4 5) (now .compute (regs [(4, 1), (5, 2)])) 4 = some 0xFFFFFFFFFFFFFFFF := by decide
theorem test_s0_discards : scalarAfter (.smovi 0 5) (now .compute (regs [])) 0 = some 0 := by decide
theorem test_sdiv_truncates :
    pendAfter (.sdiv .sg 0 3 4 5) (now .compute (regs [(4, -7), (5, 2)])) = some (some [.s 3 (-3)], 0) := by decide
theorem test_srem_by_zero :
    pendAfter (.srem .un 0 3 4 5) (now .compute (regs [(4, 7)])) = some (some [.s 3 7], 0) := by decide
-- R92 to R94
theorem test_ssra_by_64 : scalarAfter (.ssra 3 4 (.reg 5)) (now .compute (regs [(4, -8), (5, 64)])) 3 = some (-1) := by decide
theorem test_sshl_by_64 : scalarAfter (.sshl 3 4 (.reg 5)) (now .compute (regs [(4, 1), (5, 64)])) 3 = some 0 := by decide
theorem test_sclz_zero : scalarAfter (.sclz 3 4) (now .compute (regs [])) 3 = some 64 := by decide
theorem test_sbfx_signed :
    scalarAfter (.sbfx true 10 11 12 8) (now .compute (regs [(11, 0x9C000)])) 10 = some 0xFFFFFFFFFFFFFF9C := by decide
theorem test_sbfx_unsigned : scalarAfter (.sbfx false 10 11 12 8) (now .compute (regs [(11, 0x9C000)])) 10 = some 0x9C := by decide
theorem test_sbfi : scalarAfter (.sbfi 3 4 4 8) (now .compute (regs [(3, -1), (4, 0xF05)])) 3 = some 0xFFFFFFFFFFFFF05F := by decide
-- R97: SLIT adds the address of its own word
theorem test_slit : scalarAfter (.slit 3 16) (now .compute (regs [])) 3 = some 0x10010 := by decide
theorem test_saddr : scalarAfter (.saddr 3 4 5 3 (-8)) (now .compute (regs [(4, 0x100), (5, 2)])) 3 = some 0x108 := by decide

-- R101, R105, R106, with R109's clamp
def clampRegs : Group := { regs [(9, 100)] [(7, [5, 200, -3, 7]), (11, [0x7FFFFFFD, 10, 0x80000000, 1])] with p := [(2, 0x8)] }
theorem test_vcmp_keeps_lanes_outside_em :
    (groupAfter (.vcmp .lt .sg 2 7 (.sca 9)) (now .compute clampRegs)).map (·.pget 2) = some 0xD := by decide
theorem test_vsel : lanesAfter (.vsel .always 8 7 (.sca 9) ⟨false, 2⟩) (now .compute { clampRegs with p := [(2, 5)] }) 8
    = some ([5, 100, -3, 0], 0) := by decide
theorem test_vadds : lanesAfter (.vadds .sg 10 8 (.vec 11))
    (now .compute (regs [] [(8, [5, 100, -3, 0]), (11, [0x7FFFFFFD, 10, 0x80000000, 1])])) 10 = some ([0x7FFFFFFF, 110, 0x80000000, 0], 0) := by decide
-- R103, R108, R109
theorem test_vabs : lanesAfter (.vabs false 3 4) (now .compute (regs [] [(4, [0x80000000, -5, 6])])) 3 = some ([0x80000000, 5, 6, 0], 0) := by decide
theorem test_vabs_sat : lanesAfter (.vabs true 3 4) (now .compute (regs [] [(4, [0x80000000, -5, 6])])) 3 = some ([0x7FFFFFFF, 5, 6, 0], 0) := by decide
theorem test_vaddr_high_word : lanesAfter (.vaddr .sg 4 6 9 2 4) (now .compute (regs [] [(6, [0]), (9, [-2, 1])])) 5
    = some ([-1, 0, 0, 0], 0) := by decide
theorem test_vdp4_mixed : lanesAfter (.vdp4 .sg .un 3 4 (.vec 5)) (now .compute (regs [] [(3, [10]), (4, [0x000000FF]), (5, [0x000000FF])])) 3
    = some ([10 - 255, 0, 0, 0], 0) := by decide

-- R60, R62, R117, R119 to R121
theorem test_vfadd_overflow : lanesAfter (.vfadd .rtz 3 4 (.vec 5)) (now .compute (regs [] [(4, [0x7F7FFFFF]), (5, [0x7F7FFFFF])])) 3
    = some ([0x7F7FFFFF, 0, 0, 0], 0x05) := by decide
theorem test_vfma_invalid : lanesAfter (.vfma .rne 3 4 (.vec 5)) (now .compute (regs [] [(3, [0x7FC00001]), (4, [0]), (5, [0x7F800000])])) 3
    = some ([0x7FC00000, 0, 0, 0], 0x10) := by decide
theorem test_vfmin_nan_is_missing : lanesAfter (.vfmin 3 4 (.vec 5)) (now .compute (regs [] [(4, [0x7FC00000, 0]), (5, [0x40000000, 0x80000000])])) 3
    = some ([0x40000000, 0x80000000, 0, 0], 0) := by decide
theorem test_vfcmp_ne_nan : (groupAfter (.vfcmp .ne 2 4 (.vec 5)) (now .compute (regs [] [(4, [0x7FC00000, 0x80000000]), (5, [0, 0])]))).map
    (fun g => (g.pget 2, g.fpflags)) = some (1, 0) := by decide
theorem test_vfclass : lanesAfter (.vfclass 3 4) (now .compute (regs [] [(4, [0x80000001, 0x7F800001, 0x80000000])])) 3
    = some ([4, 0x100, 8, 0], 0) := by decide
theorem test_vfrnd : lanesAfter (.vfrnd .rne 3 4) (now .compute (regs [] [(4, [0xBE800000, 0x40200000, 0xC0200000])])) 3
    = some ([0x80000000, 0x40000000, 0xC0000000, 0], 0) := by decide
-- R124, R125
theorem test_vfrcp_minus_zero : pendAfter (.vfrcp 0 3 4) (now .compute (regs [] [(4, [0x80000000])]) { aFrag with em := 1 })
    = some (some [.v 3 0 0xFF800000], 0x08) := by decide
theorem test_vfsqrt_minus_zero : pendAfter (.vfsqrt 0 .rne 3 4) (now .compute (regs [] [(4, [0x80000000])]) { aFrag with em := 1 })
    = some (some [.v 3 0 0x80000000], 0) := by decide
-- R126
theorem test_vcvt_s32 : lanesAfter (.vcvt .s32 .f32 .rne false false 3 4) (now .compute (regs [] [(4, [0xC0200000, 0x4F32D05E, 0x7FC00000])])) 3
    = some ([-2, 0x7FFFFFFF, 0, 0], 0x11) := by decide
theorem test_vcvt_clamps : lanesAfter (.vcvt .s32 .n32 .rne false false 3 4) (now .compute (regs [] [(4, [0x90000000, 5])])) 3
    = some ([0x7FFFFFFF, 5, 0, 0], 0) := by decide
-- R130 to R132, R134 to R136
theorem test_vrot : lanesAfter (.vrot 3 4 (.imm 31)) (now .compute (regs [] [(4, [10, 11, 12])])) 3 = some ([0, 10, 11, 0], 0) := by decide
theorem test_vext_signed : scalarAfter (.vext true 3 4 (.imm 1)) (now .compute (regs [] [(4, [1, -2])])) 3 = some (-2) := by decide
theorem test_vscan_tree : pendAfter (.vscan 0 .fadd .rne 5 4)
    (now .compute (regs [] [(4, [0x4B800000, 0x3F800000, 0x3F800000, 0x3F800000, 0x40E00000])]) { aFrag with em := 0xF })
    = some (some [.v 5 0 0x4B800000, .v 5 1 0x4B800000, .v 5 2 0x4B800000, .v 5 3 0x4B800001], 0x01) := by decide
theorem test_vred_no_lane : pendAfter (.vred 0 .fmin .rne 5 4) (now .compute (regs []) { aFrag with em := 0 })
    = some (some [.s 5 0x7F800000], 0) := by decide
theorem test_plog_andn : (groupAfter (.plog 4 2 3 4) (now .compute { regs [] with p := [(3, 6), (4, 2)] })).map (·.pget 2) = some 4 := by decide
theorem test_p0_discards : (groupAfter (.pset 0 4) (now .compute (regs []))).map (·.pget 0) = some 0xFFFFFFFF := by decide
-- R37: both halves read before either writes
theorem test_pair_reads_first : (groupAfter (.pairSmov 3 4 (.smov 4 3)) (now .compute (regs [(3, 7), (4, 9)]))).map
    (fun g => (g.sget 3, g.sget 4)) = some (9, 7) := by decide

-- R167, R169, R180
theorem test_call_link : (groupAfter (.call (.sca 17) 2) (now .compute (regs []))).map (·.sget 17) = some 0x10008 := by decide
theorem test_call_target : pcAfter (.call (.sca 17) 2) (now .compute (regs [])) = some 0x10010 := by decide
theorem test_sdbnz_ends : pcAfter (.sdbnz 9 (-3)) (now .compute (regs [(9, 1)])) = some 0x10008 := by decide
theorem test_jmpi : pcAfter (.jmpi (.sca 17) 19) (now .compute (regs [(17, 0x10000), (19, 3)])) = some 0x10018 := by decide
theorem test_trap_code : (trapAfter (.trap 6 0x12345) (now .compute (regs []))).map (fun x => (x.1, x.2.1)) = some (0x036, 0x10000) := by decide
theorem test_privileged_in_compute : (trapAfter .eret (now .compute (regs []))).map (fun x => (x.1, x.2.1)) = some (0x028, 0x10000) := by decide

-- R203 to R207: a stored byte, read back with its sign; an address past 2^56
theorem test_sst_sld : (match exec (.sst .always 0 .h false 4 5 0) (at1 (now .compute (regs [(4, 0xFFFFFFFF8001), (5, 0x10010)]))) with
    | .next t => match exec (.sld 0 0 .b .sg false 6 5 (-8 + 9)) { t with frags := [(1024, some aFrag)] } with
      | .next u => (u.groups.find 16).bind (fun g => (g.pends.all.getLast?).bind (fun p => p.2.vals))
      | _ => none
    | _ => none) = some [.s 6 (-128)] := by decide
theorem test_sld_beyond : trapAfter (.sld 0 0 .b .un false 6 5 0) (now .compute (regs [(5, 0x100000000000000)])) = some (0x047, 0x10000, 0x100000000000000) := by decide

-- Witnesses: states and operands that meet the hypotheses of the statements -------------------------------------------------

/-- The first part is an answer. -/
def ok {ε α σ : Type} (x : Except ε α × σ) : Bool :=
  match x.1 with
  | .ok _ => true
  | .error _ => false

theorem ok_elim {ε α σ : Type} {x : Except ε α × σ} (h : ok x = true) : ∃ a t, x = (.ok a, t) := by
  obtain ⟨(e | a), t⟩ := x
  · cases h
  · exact ⟨a, t, rfl⟩

/-- exec answers a next state with p. -/
def goesTo (o : Out) (p : State → Bool) : Bool :=
  match o with
  | .next t => p t
  | _ => false

/-- The state of withFetchWord with the fragment's turn taken. -/
def turn (w : Nat) : State := { State.reset.withFetchWord 128 w with issueQ := [], cur := ⟨0, 0⟩ }

/-- p of the fragment, the state after the fetch, and the word, where the word of a turn is fetched. -/
def fetched (s : State) (p : Now → State → Word → Bool) : Bool :=
  match s.now with
  | some n => s.mayIssue n && !s.outsideProl n &&
      match s.fetchWord (n.party s.cur.team) n.f.pc.toNat with
      | (.ok w, s1) => p n s1 w
      | _ => false
  | none => false

/-- Nothing holds an instruction back. -/
def freeToRun (s : State) (n : Now) (i : Instr) : Bool :=
  decide (s.standing n i = .ready) && n.debugStop i == none && n.violation i == none

theorem witness_StepRunsDecoded_word : (turn 0x0000610280000000).power ≠ .off ∧ (turn 0x0000610280000000).order = []
    ∧ fetched (turn 0x0000610280000000) (fun n s w => decide (w.toNat / 2 ^ 60 ≠ 15)
        && decide (decodeWord n.t.kind n.t.nregs w.toNat = .instr (.sadd 3 4 5)) && freeToRun s n (.sadd 3 4 5)) = true := by decide
theorem witness_StepRunsDecoded_literal : fetched (turn (lw 0x0160BFC000000000 5)) (fun n s w =>
    match decodeWord n.t.kind n.t.nregs w.toNat, s.fetchWord (n.party 0) (n.f.pc.toNat + 8) with
    | .needs f k, (.ok x, s2) => decide (decodeExt f k x.toNat = .instr (.smoviL 5 5)) && freeToRun s2 n (.smoviL 5 5)
    | _, _ => false) = true := by decide
theorem witness_StepRunsDecoded_ext : fetched (turn 0xF000000000000007) (fun n s w =>
    decide (w.toNat / 2 ^ 60 = 15) && freeToRun s n (.ext 7)) = true := by decide
theorem witness_StepRunsDecoded_bad : fetched (turn (fw 0 0x19 0 0 0 0 0 0)) (fun n _ w =>
    match decodeWord n.t.kind n.t.nregs w.toNat with
    | .bad _ _ => true
    | _ => false) = true := by decide
theorem witness_StepRunsDecoded_interlock :
    let s := turn 0x0000610280000000
    fetched { s with groups := s.groups.upd 0 (fun g => { g with pends := [(1, some { regs := [.s 4] })] })
                     frags := s.frags.upd 0 (fun f => { f with wins := [(1, 0)] }) } (fun n s w =>
      decide (decodeWord n.t.kind n.t.nregs w.toNat = .instr (.sadd 3 4 5)) && decide (s.standing n (.sadd 3 4 5) = .results [1])) = true := by decide
/-- A short result that is still to be written, and a long one under an open window that the word would write. -/
theorem witness_StepRunsDecoded_others :
    let s (p : Pend) (k : Nat) : State := { turn 0x0000610280000000 with
      groups := (turn 0x0000610280000000).groups.upd 0 (fun g => { g with pends := [(1, some p)] })
      frags := (turn 0x0000610280000000).frags.upd 0 (fun f => { f with wins := [(1, k)] }) }
    fetched (s { regs := [.s 4], short := true } 0) (fun n s _ => decide (s.standing n (.sadd 3 4 5) = .notReady)) = true
      ∧ fetched (s { regs := [.s 3] } 2) (fun n s _ => decide (s.standing n (.sadd 3 4 5) = .ready) && (n.violation (.sadd 3 4 5)).isSome) = true := by
  decide
/-- A word whose mask names a non-zero token; the pieces of an access under way; a due step that waits behind them. -/
theorem witness_StepRunsDecoded_tokens :
    let s := turn (fw 6 0x09 0 0 0 0 0 (0x81 <<< 15))
    fetched { s with groups := s.groups.upd 0 (fun g => { g with tok := [(7, 1)] }) } (fun n _ _ =>
        n.tokenWait (.ld 0 0 .w .un 4 6 0) == false && n.tokenWait (.ld 0x80 0 .w .un 4 6 0)) = true
      ∧ Event.meetsPieces (.piece 0 0) = true ∧ Event.meetsPieces (.teamEnd 0) = false := by decide
theorem test_step_runs_the_word_at_pc : goesTo (step (State.reset.withFetchWord 64 0x0160A00000000009))
    (fun t => (t.groups.find 0).map (fun g => (written g).sget 5) = some 9 && (t.frags.find 0).map (·.pc) = some 0x10008) = true := by decide
theorem test_step_traps_a_word_that_does_not_decode : goesTo (step (State.reset.withFetchWord 64 (fw 0 0x19 0 0 0 0 0 0)))
    (fun t => (t.teams.find 0).map (fun x => (x.run, x.trap.code, x.trap.pc)) = some (.stopped, 0x001, 0x10000)) = true := by decide

-- EncodingRoundTrip and DecodedWords
theorem witness_EncodingRoundTrip : (Instr.sbfx true 63 63 63 1).wf = true ∧ (Instr.sbfx true 63 63 63 1).isWord = true
    ∧ decodeTableWord 128 (fw 0 0x10 63 63 0 0 0 0x207F) = some (.sbfx true 63 63 63 1) := by decide

-- StepOutcomes: nothing due, and each power state
theorem witness_StepOutcomes : State.reset.order = [] ∧ State.reset.issueQ = [] ∧ State.reset.agenda = [] ∧ State.reset.power = .running
    ∧ (step { State.reset with power := .retention } matches .next _) = true ∧ (step { State.reset with power := .entering 0x150 } matches .next _) = true := by
  decide
theorem witness_StepOutcomes_off : (step { State.reset with power := .off } matches .fault .unpowered) = true := by decide

-- InvStep
theorem witness_InvStep : State.reset.Inv ∧ (step State.reset matches .next _) = true :=
  ⟨⟨by decide, by decide, by decide⟩, by decide⟩

/-- The team, group and fragment of at1 are the ones whose word is being issued. -/
theorem at1_permits (n : Now) (p : Permit) (h : p.fault n.t.kind = none) : (at1 n).permits p n := by
  obtain ⟨t, g, f⟩ := n
  exact ⟨by simp [State.now, State.at', at1, dev, Cur.team, Cur.fid, Tab.find, Cells.get], h⟩

-- RegisterWordsFrame
theorem witness_RegisterWordsFrame : let n := now .compute (regs [])
    (at1 n).now.isSome ∧ n.t.kind = .compute ∧ (Instr.vadd 3 4 (.vec 5)).isWord = true ∧ (Instr.vadd 3 4 (.vec 5)).form ∈ [0, 1, 2, 3, 12]
      ∧ goesTo (exec (.vadd 3 4 (.vec 5)) (at1 n)) (fun _ => true) = true := by decide

/-- The last word of the address space has its own address, and no next one (R162). -/
theorem witness_fits : (now .compute {} { aFrag with pc := 0xFFFFFFFFFFFFE8 }).fits 16 ∧ (now .compute {} { aFrag with pc := 0xFFFFFFFFFFFFF0 }).fits 8
    ∧ ¬(now .compute {} { aFrag with pc := 0xFFFFFFFFFFFFF8 }).fits 8 := by unfold Now.fits; decide

/-- Every statement of a word whose hypotheses are its mode and its next address: each mode that the statement permits. -/
theorem witness_modes :
    (at1 (now .compute {})).permits .any (now .compute {}) ∧ (at1 (now .system {})).permits .any (now .system {})
      ∧ (at1 (now .prologue {})).permits .any (now .prologue {}) ∧ (at1 (now .compute {})).permits .cores (now .compute {})
      ∧ (at1 (now .system {})).permits .cores (now .system {}) ∧ (at1 (now .system {})).permits .system (now .system {})
      ∧ (at1 (now .system {})).permits .systemIo (now .system {}) ∧ (at1 (now .compute {})).permits .matrix (now .compute {})
      ∧ (at1 (now .prologue {})).permits .prologue (now .prologue {}) :=
  ⟨at1_permits _ _ rfl, at1_permits _ _ rfl, at1_permits _ _ rfl, at1_permits _ _ rfl, at1_permits _ _ rfl, at1_permits _ _ rfl,
    at1_permits _ _ rfl, at1_permits _ _ rfl, at1_permits _ _ rfl⟩

-- ScalarBitsAndChoices and VectorBitsAndChoices: the bit fields at both ends of their ranges
theorem witness_bit_fields : (Instr.sbfx true 3 4 63 1).wf = true ∧ (Instr.sbfx false 3 4 0 64).wf = true ∧ (Instr.sbfi 3 4 0 64).wf = true
    ∧ (Instr.vbfx true 3 4 31 1).wf = true ∧ (Instr.vbfi 3 4 0 32).wf = true := by decide

-- PredicateMoves: EMWR within em
theorem witness_PredicateMoves : let n := now .compute (regs [(4, 5)])
    n.f.rcd = none ∧ BitVec.ofNat 32 (n.g.sget 4).toNat ≠ 0 ∧ BitVec.ofNat 32 (n.g.sget 4).toNat &&& ~~~n.f.em = 0
      ∧ goesTo (exec (.emwr 4) (at1 n)) (fun t => (t.frags.find 1024).map (·.em) = some 5) = true := by decide

-- PairHalves: one half of each kind, and two vector halves in different banks
theorem witness_PairHalves : pairWordOk (.vadd 3 4) (.smovi 5 1) = true ∧ pairWordOk (.vadd 4 5) (.vfadd .rne 6 7) = true := by decide

/-- Control may go to t: its word can be fetched and is no EXT word. -/
def canReach (s : State) (n : Now) (t : Word) : Bool :=
  decide (t.toNat % 8 = 0) && decide (t.toNat < 2 ^ 56) &&
    match s.fetchWord (n.party s.cur.team) t.toNat with
    | (.ok w, _) => decide (bits w 63 60 ≠ 15)
    | _ => false

theorem reaches_of_canReach {s : State} {n : Now} {t : Word} (h : canReach s n t = true) : ∃ s', s.reaches n t s' := by
  unfold canReach at h
  split at h
  · rename_i w s' e
    simp only [Bool.and_eq_true, decide_eq_true_eq] at h
    exact ⟨s', h.1.1, h.1.2, w, e, h.2⟩
  · simp at h

-- ControlTransfer: targets in the page of the code, the guards, the counts, and links that agree and differ
theorem witness_ControlTransfer : let n := now .compute (regs [(17, 0x10000), (9, 1)] [(4, [0x10000, 0x10000, 0x10000]), (6, [0x10000, 0x10008])])
    (∃ s', (at1 n).reaches n 0x10010 s') ∧ (∃ s', (at1 n).reaches n (n.g.sget 17) s')
      ∧ n.f.em &&& n.g.guard ⟨true, 0⟩ = 0 ∧ n.f.em &&& n.g.guard .always ≠ 0 ∧ n.g.sget 9 - 1 = 0 ∧ n.g.sget 10 - 1 ≠ 0
      ∧ (∀ i, i < 32 → n.f.em.getLsbD i = true → n.g.pairGet 4 i = 0x10000) ∧ n.g.pairGet 6 0 ≠ n.g.pairGet 6 1 :=
  ⟨reaches_of_canReach (by decide), reaches_of_canReach (by decide), by decide, by decide, by decide, by decide, by decide, by decide⟩

-- ThreadWords
theorem witness_ThreadWords : let n := now .compute { regs [] with tok := [(2, 1)] }
    (∃ s', (at1 n).reaches n 0x10008 s') ∧ (∀ k, k < 8 → (1 : Wait).getLsbD k = true → n.g.tget k = 0) ∧ (4 : Wait).getLsbD 2 = true ∧ n.g.tget 2 ≠ 0 ∧ n.f.rcd = none ∧ n.g.held = [] ∧ Cells.wf none (at1 n).frags = true
      ∧ (∀ e ∈ (at1 n).frags.all, e.1 / 64 = 16 → e.1 = 1024) :=
  ⟨reaches_of_canReach (by decide), by decide, by decide, by decide, by decide, by decide, by decide, by decide⟩

/-- A STOP whose slot goes to a READY entry, below one that has JOINED. -/
def heldGroup : Group := { regs [] with held := [{ em := 8, pc := 0x10010, rcd := none, joined := false, jpc := 0 }, { em := 16, pc := 0x10018, rcd := none, joined := true, jpc := 0x10018 }] }
theorem witness_ThreadWords_stop : let n := now .compute heldGroup
    (((at1 n).leaveAll 16 (n.g.chain n.f.rcd) n.f.em).groups.find 16).map (·.held.map (·.joined)) = some [false, true]
      ∧ goesTo (exec .stop (at1 n)) (fun t => (t.frags.find 1024).map (fun f => (f.em, f.pc, f.st)) = some (8, 0x10010, .pending)
        && (t.groups.find 16).map (·.held.length) = some 1) = true := by decide

-- Divergence: none, all and some of the lanes taken under a record; a JOIN with no record, and at the innermost one
def split1 : Group := { regs [] with p := [(1, 7), (2, 3)], recs := [(0, some { tok := 5, exp := 7, par := none })] }
theorem witness_Divergence : let n := now .compute split1 { aFrag with rcd := some 0 }
    n.g.match' n.f.rcd 5 = some 0 ∧ n.f.em &&& n.g.guard ⟨true, 1⟩ = 0 ∧ n.f.em &&& ~~~n.g.guard ⟨false, 1⟩ = 0
      ∧ n.f.em &&& n.g.guard ⟨false, 2⟩ ≠ 0 ∧ n.f.em &&& ~~~(n.f.em &&& n.g.guard ⟨false, 2⟩) ≠ 0
      ∧ ((at1 n).fragsOf 16).length < 8 ∧ (∃ k, (at1 n).poolSlot n.t.core = some k ∧ k ≠ (at1 n).cur.slot ∧ k < 64)
      ∧ goesTo (exec (.brd ⟨false, 2⟩ 5 2) (at1 n)) (fun t => (t.fragsOf 16).map (fun e => (e.2.em, e.2.pc)) = [(3, 0x10010), (4, 0x10008)]) = true :=
  ⟨by decide, by decide, by decide, by decide, by decide, by decide, ⟨32, by decide, by decide, by decide⟩, by decide⟩
theorem witness_Divergence_join : let n := now .compute split1 { aFrag with rcd := some 0 }
    n.g.match' n.f.rcd 6 = none ∧ n.g.recs.find 0 = some { tok := 5, exp := 7, par := none } ∧ n.g.held = [] ∧ n.f.active ≠ none
      ∧ (∀ e ∈ (at1 n).fragsOf 16, e.1 ≠ 1024 → e.2.st ≠ .join)
      ∧ goesTo (exec (.join 5) (at1 n)) (fun t => (t.frags.find 1024).map (fun f => (f.em, f.rcd)) = some (7, none)) = true := by decide

/-- The last fragment to come to the record of its JOIN, and one that waits there for the other lanes. -/
theorem witness_Divergence_reconverge : let n := now .compute split1 { aFrag with rcd := some 0 }
    let w := now .compute split1 { aFrag with em := 3, rcd := some 0 }
    let at0 (n : Now) : Option (List (BitVec 32) × Option (BitVec 32)) :=
      let u := ((at1 n).putFrag (at1 n).cur (n.f.closes (n.f.wins.map (·.1)))).settle 16
      u.now.map (fun m =>
        let v := (u.putFrag u.cur { m.f with rcd := some 0, jpc := m.f.pc, st := .join, ready := none }).leaveAll 16 ((m.g.chain m.f.rcd).takeWhile (· ≠ 0)) m.f.em
        ((v.waitersAt 16 0).map (·.2.em), ((v.groups.find 16).bind (fun g => g.recs.find 0)).map (·.exp)))
    n.awaited = [] ∧ n.g.match' n.f.rcd 5 = some 0 ∧ at0 n = some ([7], some 7) ∧ at0 w = some ([3], some 7)
      ∧ goesTo (exec (.join 5) (at1 w)) (fun t => (t.frags.find 1024).map (·.st) = some .join) = true := by decide

-- SoftwareTrap, ExceptionReturn and TrapsByMode
theorem witness_SoftwareTrap : (now .compute {}).t.run = .resident ∧ (now .system {}).g.trap.v = false
    ∧ (now .system {}).g.pends = [] := by decide
def trapped1 : Now := now .system { regs [] with trap := { v := true, pc := 0x10020, em := 5 }, vbase := 0x10000 }
theorem witness_ExceptionReturn : trapped1.g.trap.v = true ∧ (now .system {}).g.trap.v = false
    ∧ (∃ s', (at1 trapped1).reaches trapped1 trapped1.g.trap.pc s') ∧ trapped1.f.st = .active ∧ trapped1.t.run = .resident
    ∧ trapped1.t.dbg.budget ≠ some 0 ∧ (at1 trapped1).awake = true :=
  ⟨by decide, by decide, reaches_of_canReach (by decide), by decide, by decide, by decide, by decide⟩
theorem test_eret : goesTo (exec .eret (at1 trapped1)) (fun t => (t.frags.find 1024).map (fun f => (f.pc, f.em)) = some (0x10020, 5)
    && (t.groups.find 16).map (·.trap.v) = some false) = true := by decide
/-- A TRAPPC that R41 refuses. -/
theorem witness_ExceptionReturn_refused : ((at1 trapped1).checkTarget trapped1 0x10024).1.isSome = true
    ∧ ((at1 trapped1).checkTarget trapped1 0x100000000000000).1.isSome = true := by decide
theorem test_system_trap : goesTo (exec (.trap 6 9) (at1 (now .system { regs [] with vbase := 0x20000 }))) (fun t =>
    (t.groups.find 16).map (fun g => (g.trap.v, g.trap.code, g.trap.pc, g.trap.em, g.trap.data)) = some (true, 0x036, 0x10000, 7, 9)
      && (t.frags.find 1024).map (·.pc) = some 0x20000) = true := by decide
theorem witness_TrapsByMode : (now .compute {}).t.kind = .compute ∧ (now .system {}).t.kind = .system ∧ (now .prologue {}).t.kind = .prologue
    ∧ trapped1.g.trap.v = true
    ∧ (let n := now .prologue { regs [] with p := [(1, 1)] } { aFrag with em := 1 }
       n.f.em = 1 ∧ (n.g.guard ⟨true, 1⟩).getLsbD 0 = false ∧ (n.g.guard ⟨false, 1⟩).getLsbD 0 = true ∧ ∃ s', (at1 n).reaches n 0x10010 s') :=
  ⟨by decide, by decide, by decide, by decide, by decide, by decide, by decide, reaches_of_canReach (by decide)⟩

-- LaneMemory: loads and stores of the page of the code, and scratch at both ends of its bank
def memRegs : Group := regs [(5, 0x10100), (6, 0x1FFFC)] [(8, [0x10100, 0x10200, 0x1FFFC]), (10, [0, 16, 0x1FFFC]), (12, [1, 2, 3])]
theorem witness_LaneMemory : let n := now .compute memRegs
    let lanes := (lanesOf n.f.em).map (fun i => (i, pairAddr n.g 8 0 i))
    let scr := (lanesOf n.f.em).map (fun i => (i, scrAddr n.g (.vec 10) 0 i))
    n.idle 0xFF ∧ (∃ l s1, (at1 n).checkLanes (n.party 1) .load 4 lanes = (.ok l, s1))
      ∧ (∃ l s1, (at1 n).checkLanes (n.party 1) .ldro 4 lanes = (.ok l, s1)) ∧ (∃ l s1, (at1 n).checkLanes (n.party 1) .store 4 lanes = (.ok l, s1))
      ∧ ((at1 n).checkScrLanes n.t 1 .lds 4 scr matches .ok _) = true ∧ ((at1 n).checkScrLanes n.t 1 .store 4 scr matches .ok _) = true :=
  ⟨by unfold Now.idle; decide, ok_elim (by decide), ok_elim (by decide), ok_elim (by decide), by decide, by decide⟩
theorem test_st_ld : goesTo (exec (.st .always 0 .w 12 8 0) (at1 (now .compute memRegs))) (fun t =>
    goesTo (exec (.ld 0 0 .h .sg 13 8 0) { t with frags := [(1024, some { aFrag with em := 4 })] }) (fun u =>
      (u.groups.find 16).bind (fun g => (g.pends.all.head?).bind (fun p => p.2.vals)) = some [.v 13 2 3])) = true := by decide
/-- The same access piece by piece, where the tears of the state say so. -/
theorem witness_LaneMemory_torn : let n := now .compute memRegs
    ∃ l s1, ({ at1 n with tear := [true] }).checkLanes (n.party 1) .load 4 ((lanesOf n.f.em).map (fun i => (i, pairAddr n.g 8 0 i))) = (.ok l, s1)
      ∧ ({ at1 n with tear := [true] }).tear = [true] :=
  let ⟨l, s1, h⟩ := ok_elim (x := ({ at1 (now .compute memRegs) with tear := [true] }).checkLanes _ .load 4 _) (by decide)
  ⟨l, s1, h, rfl⟩
theorem test_torn_store : goesTo (exec (.st .always 0 .w 12 8 0) { at1 (now .compute memRegs) with tear := [true, false] }) (fun t =>
    (t.torn.all.map (fun e => e.2.todo.keys), t.tear) = ([[0, 1, 2]], [false]) && t.memByte 0x10100 = dev.memByte 0x10100) = true := by decide
-- R202
theorem test_st_counter_page : (trapAfter (.st .always 0 .w 12 8 0) (now .compute (regs [] [(8, [0x20000]), (12, [1])]) { aFrag with em := 1 })).map (·.1)
    = some 0x068 := by decide

-- ScalarMemory
theorem witness_ScalarMemory : let n := now .compute memRegs
    (match (at1 n).checkAccess (n.party 1) .load (scaAddr n.g 5 0) 8 with
      | (.ok l, s1) => s1.badPiece (n.party 1) (scaAddr n.g 5 0) l == none
      | _ => false) = true
      ∧ ((at1 n).checkScr n.t 1 .other (scaScrAddr n.g 6 0) 4 matches .ok _) = true ∧ n.t.kind ≠ .prologue
      ∧ ok ((at1 n).checkAccess (n.party 1) .store (scaAddr n.g 5 0) 8) = true
      ∧ ((at1 n).checkScr n.t 1 .store (scaScrAddr n.g 6 0) 4 matches .ok _) = true
      ∧ n.f.em &&& n.g.guard .always ≠ 0 ∧ n.f.em &&& n.g.guard ⟨true, 0⟩ = 0 := by decide
/-- A store of two pieces, performed one after the other. -/
theorem witness_ScalarMemory_torn : let n := now .compute (regs [(5, 0x10108), (6, 7), (7, 8)])
    (match ({ at1 n with tear := [true] }).checkAccess (n.party 1) .store (scaAddr n.g 5 4) 8 with
      | (.ok l, s1) => (s1.tears (decide (1 < l.length))).1
      | _ => false) = true
      ∧ goesTo (exec (.sst .always 0 .d false 6 5 4) { at1 n with tear := [true] }) (fun t => t.torn.all.map (fun e => e.2.todo.keys) = [[0, 1]]) = true := by
  decide
theorem witness_ScalarMemory_beyond : 2 ^ 56 ≤ scaAddr (regs [(5, 0xFFFFFFFFFFFFFF)]) 5 1 := by decide

-- MemoryReduce: three lanes add to one word and a fourth stays outside em; the pages are as above
def redRegs : Group := regs [] [(8, [0x10100, 0x10100, 0x10200]), (12, [5, 6, 7])]
theorem witness_MemoryReduce : let n := now .compute redRegs
    (match (at1 n).checkLanes (n.party 1) .red 4 ((lanesOf n.f.em).map (fun i => (i, (n.g.pairGet 8 i).toNat))) with
      | (.ok l, s1) =>
        let lanes := l.map (fun e => (e.1, e.2.1, (e.2.2.head?.map (·.1)).getD 0, (n.g.vget 12 e.1).toNat))
        lanes.all (fun e => !s1.holds e.2.2.1) && (s1.redLanes (n.party 1) (some 0) 4 .add lanes).1.2 == none
          && ((lanes.foldl (fun s e => s.dropLine 0 e.2.2.1) s1).redLanes (n.party 1) none 4 .add lanes).1.2 == none
      | _ => false) = true := by decide
/-- The lanes as steps of their own, and a word that another RED has read and not yet written. -/
theorem witness_MemoryReduce_torn : let n := now .compute redRegs
    let red : Instr := .red .always 0 0 false .add 5 none 8 12
    let pa : List Nat := match (at1 n).checkLanes (n.party 1) .red 4 [(0, 0x10100)] with
      | (.ok l, _) => l.flatMap (fun e => e.2.2.map (·.1))
      | _ => []
    goesTo (exec red { at1 n with tear := [true] }) (fun t => t.torn.all.map (fun e => e.2.todo.keys) = [[0, 1, 2]]) = true
      ∧ goesTo (exec red { at1 n with torn := [(5, some { todo := [(0, some (.redPut (pa.headD 0) [0, 0, 0, 0]))] })] }) (fun t =>
          (t.frags.find 1024).map (fun f => (f.pc, f.ready)) = some (0x10000, some 1000001)) = true := by decide
theorem test_red_old_values : pendAfter (.red .always 0 0 false .add 5 (some 3) 8 12) (now .compute redRegs)
    = some (some [.v 3 0 0, .v 3 1 5, .v 3 2 0], 0) := by decide

-- WaitMask: the highest token
theorem witness_WaitMask : let n := now .compute { regs [] with tok := [(7, 1)] }
    ¬n.idle 0x80 ∧ goesTo (exec (.nop) (at1 n)) (fun _ => true) = true
      ∧ goesTo (exec (.mma 0x80 0 0 false 0 4 5) (at1 n)) (fun t => (t.frags.find 1024).map (fun f => (f.st, f.pc)) = some (.waitT, 0x10000)) = true :=
  ⟨by unfold Now.idle; decide, by decide, by decide⟩

-- Stores
theorem witness_Stores : dev.settled = true := by decide

-- CounterRequests: a counter of a COUNTER page, the first and the last scratch counter, and the null counter
def ctrRegs : Group := regs [(10, 0x20000), (11, 5), (12, 0x8000000080000000), (13, 0x80000000800001F8), (20, 0x20008), (22, 0)]
  [(8, [0x20000, 0x20000, 0x20010]), (14, [1, 2, 4])]
theorem witness_CounterRequests : let n := now .compute ctrRegs
    (∀ r ∈ [10, 12, 13, 22], ok ((at1 n).ctrOperand n 1 (.add false) (n.g.sget r)) = true
        ∧ ok ((at1 n).ctrOperand n 1 (.add true) (n.g.sget r)) = true ∧ ok ((at1 n).ctrOperand n 1 .wait (n.g.sget r)) = true)
      ∧ ∀ r ∈ [12, 13], ok ((at1 n).ctrOperand n 1 .set (n.g.sget r)) = true := by decide
-- CounterVectors
theorem witness_CounterVectors : let n := now .compute ctrRegs
    (∃ l s1, (at1 n).laneOperands n 1 (.add false) ((lanesOf n.f.em).map (fun i => (i, n.g.pairGet 8 i))) = (.ok l, s1))
      ∧ (∃ l s1, (at1 n).laneOperands n 1 (.add true) ((lanesOf n.f.em).map (fun i => (i, n.g.pairGet 8 i))) = (.ok l, s1))
      ∧ (∃ l s1, (at1 n).laneOperands n 1 .wait ((List.range 2).map (fun j => (j, n.g.sget (20 + 2 * j)))) = (.ok l, s1)) :=
  ⟨ok_elim (by decide), ok_elim (by decide), ok_elim (by decide)⟩
theorem test_caddv_one_add_for_each_counter : goesTo (exec (.caddv .always 0 none 8 14 none) (at1 (now .compute ctrRegs)))
    (fun t => t.ops.all.map (fun e => e.2.act) = [.add 3, .add 4]) = true := by decide
theorem test_cwait_waits : goesTo (exec (.cwait 10 11 none) (at1 (now .compute ctrRegs)))
    (fun t => (t.frags.find 1024).map (fun f => (f.st, f.pc)) = some (.waitC, 0x10008)) = true := by decide

-- RingWords: a ring with one published and one unpublished record, its own and a cluster peer's; a push that fits exactly
def ringTeam : Team := { aTeam .compute with rings := [(3, some { tail := 2, pub := 1, cap := 16, base := 16, w := 5, recs := [(0, 0x99), (1, 0x98)], batches := [⟨1, 1024, 0⟩] })] }
def ringNow : Now := ⟨ringTeam, regs [(5, 0)] [(8, [1, 2, 3]), (9, [4, 5, 6])], aFrag⟩
theorem witness_RingWords : ((at1 ringNow).ringTarget ringNow 1 3 none matches .ok _) = true ∧ ((at1 ringNow).ringTarget ringNow 1 3 (some 5) matches .ok _) = true
    ∧ (ringTeam.rings.find 3).map (fun r => (decide (r.occ + 3 ≤ r.w), decide (r.spilled + r.toSpill 3 ≤ r.slots))) = some (true, true)
    ∧ lanesOf (ringNow.f.em &&& ringNow.g.guard ⟨true, 0⟩) = [] := by decide
theorem test_qpush : goesTo (exec (.qpush .always 3 8 none) (at1 ringNow)) (fun t => ((t.teams.find 1).bind (fun x => x.rings.find 3)).map
    (fun r => (r.tail, r.pub, r.batches.map (·.count), Cells.get 0 r.recs 2)) = some (5, 1, [1, 3], 0x0000000400000001)
      && (t.frags.find 1024).map (·.st) = some .waitL) = true := by decide
theorem test_qpop_takes_published : pendAfter (.qpop 0 false 3 16 2 none) ringNow
    = some (some ([.v 16 0 0x99] ++ (List.range 7).map (fun j => .v (17 + j) 0 0) ++ [.p 2 7 1]), 0) := by decide
theorem test_qinfo : pendAfter (.qinfo 0 3 40 none) ringNow = some (some [.s 40 2, .s 41 0, .s 42 0x1000000000], 0) := by decide
/-- A push for which no spill slot is free, and one to a peer of the cluster. -/
def ringFull : Now := { ringNow with
  t := { ringTeam with rings := [(3, some { head := 1, tail := 9, pub := 9, cap := 1, base := 1, w := 9, spilled := 8 })] }, f := { aFrag with em := 1 } }
theorem witness_RingWords_held : (ringFull.t.rings.find 3).map (fun r => (decide (r.occ + 1 ≤ r.w), decide (r.slots < r.spilled + r.toSpill 1))) = some (true, true)
    ∧ goesTo (exec (.qpush .always 3 8 none) (at1 ringFull)) (fun t => ((t.teams.find 1).bind (fun x => x.rings.find 3)).map (fun r => (r.tail, r.held.length)) = some (9, 1)) = true := by
  decide
def ringPeers : Now := { ringNow with t := { ringTeam with clu := (2, 1), peers := [1, 2] }, g := regs [(5, 1)] [(8, [1, 2, 3])] }
theorem witness_RingWords_peer : let s := at1 ringPeers
    let s := { s with teams := s.teams.put 2 { ringPeers.t with idx := 1 } }
    s.ringTarget ringPeers 1 3 (some 5) matches .ok (2, _)
      ∧ goesTo (exec (.qpush .always 3 8 (some 5)) s) (fun t => ((t.teams.find 2).bind (fun x => x.rings.find 3)).map (fun r => (r.tail, r.arrived.length)) = some (2, 1)) = true := by
  decide
-- CopyWords: three lanes from memory to scratch with a completion add, a 16 by 16 tensor of 4-byte elements, a fill, and empty ones
def copyNow : Now := now .compute { regs
    [(20, 0x10100), (21, 0x10140), (22, 0x1000000000), (23, 0x1000000000), (24, 0x100), (25, 0x99), (26, 0), (27, 0x1FF00), (30, 0x20000)]
    [(8, [0x10100, 0x10104, 0x10108]), (12, [0, 4, 0x1FFFC])] with tok := [(2, 254)] }
def copyState : State :=
  let s := at1 copyNow
  let s := s.memStore (slotFrame + 0x140) (leBytes 8 (1 + 2 * 2 ^ 8 + 2 * 2 ^ 11 + 8 * 2 ^ 16))
  let s := s.memStore (slotFrame + 0x148) (leBytes 4 16 ++ leBytes 4 16)
  s.memStore (slotFrame + 0x160) (leBytes 8 64)
theorem witness_CopyWords_lanes : copyNow.idle 3 ∧ copyNow.g.tget 2 < 255
    ∧ (match copyState.copyLanes (copyNow.party 1) copyNow.t 1 4 false true
        ((lanesOf copyNow.f.em).map (fun i => (copyNow.g.copyAddr false 8 i, copyNow.g.copyAddr true 12 i))) with
      | (.ok _, s1) => ok (s1.copyCtr copyNow (some ⟨30, 6⟩)) && ok (s1.copyCtr copyNow none)
      | _ => false) = true := ⟨by unfold Now.idle; decide, by decide, by decide⟩
theorem witness_CopyWords_tensor : (copyState.teamCopies 1).length < 32
    ∧ (match copyState.readLayout copyNow false false (copyNow.g.sget 21) with
      | (.ok l, s1) => l.ndim == 2 && decide (20 + l.ndim + 1 < 64) && ok (s1.copyCtr copyNow none)
          && s1.boxFault copyNow l false (copyNow.g.sget 20) (copyNow.g.sget 20) [16, 16] == none && decide ((s1.layoutsOf 1).length < 4)
      | _ => false) = true := by decide
theorem witness_CopyWords_fill : copyState.scrRange copyNow.t 1 0x1FF00 0x100 64 = none ∧ (copyNow.g.sget 24).toNat % 16 = 0
    ∧ (copyNow.g.sget 24).toNat ≤ 2 ^ 40 ∧ (copyNow.g.sget 26).toNat = 0 ∧ 24 + 2 < 64 := by decide
theorem test_cpyf : goesTo (exec (.cpyf 0 2 true .q 27 24 none) copyState) (fun t => t.copies.all.map (fun e => e.2.kind)
    = [.fill true 0x1FF00 0x100 16 0x99] && (t.groups.find 16).map (·.tget 2) = some 255) = true := by decide
/-- One copy of a group on a token, and none on another. -/
theorem witness_CopyWords_status : let s := { copyState with copies := [(5, some { kind := .linear 0 0 64, own := .group 16 2, prog := 64 })] }
    (∀ e ∈ s.copies.all, ¬(e.2.own = .group 16 3)) ∧ (∀ e ∈ s.copies.all, e.2.own = .group 16 2) ∧ s.copies.all.length = 1 := by decide
theorem test_cpyq : (match exec (.cpyq 0 0 2 6) { copyState with copies := [(5, some { kind := .linear 0 0 64, own := .group 16 2, prog := 64 })] } with
    | .next t => (t.groups.find 16).bind (fun g => (g.pends.all.head?).bind (fun p => p.2.vals))
    | _ => none) = some [.s 6 (BitVec.ofNat 64 (2 ^ 48 + 254 * 2 ^ 40 + 64))] := by decide

-- EngineWords: a holder with its four quarters tagged, a format block in scratch, and the last tile
def engTeam : Team := { aTeam .compute with bs := 4, scratch := [(0x10000, 1)] }
def engNow : Now := ⟨engTeam, { regs [(20, 0), (21, 0x10000), (22, 0x14000), (23, 0)] [] with tok := [(1, 254)] }, aFrag⟩
def tagged (team : Nat) : Tab Latch := (List.range 4).map (fun q => (q, some { valid := true, team := team }))
def engState (holder : Option Nat) : State := { at1 engNow with cores := [(0, some { holder := holder, latches := tagged 1 })] }
theorem witness_EngineWords : let s := engState (some 16)
    engNow.idle 1 ∧ engNow.t.savedBaton = none ∧ s.engineShut engNow = false ∧ (s.core 0).holder = some 16 ∧ 3 < engNow.t.ntiles
      ∧ s.scrRange engTeam 1 0 4096 64 = none ∧ engNow.g.tget 1 < 255 ∧ (s.core 0).quarterFault 1 = none
      ∧ (match s.readFmt engNow true 0x10000 with
        | (.ok f, s1) => s1.mmaFault engNow 1 f 0 255 false == none
        | _ => false) = true
      ∧ 2 + 1 < engNow.t.ntiles ∧ s.engRange engNow 1 0 256 16384 = none ∧ s.engRange engNow 1 0x14000 64 (8 * 8 * drainRow .f32) = none
      ∧ s.scrRange engTeam 1 (0x14000 + 4096) (8 * 64) 64 = none :=
  ⟨by unfold Now.idle; decide, by decide, by decide, by decide, by decide, by decide, by decide, by decide, by decide, by decide, by decide, by decide,
    by decide⟩
theorem test_mma_joins_the_queue : goesTo (exec (.mma 0 1 7 true 3 20 21) (engState (some 16))) (fun t =>
    (t.core 0).engine.map (fun e => match e.op with | .mma _ d a _ r p k => (d, a, r, p, k) | _ => (0, 0, 0, 0, 0)) = [(3, 0, 7, 0, 1)]
      && (t.groups.find 16).map (·.tget 1) = some 255) = true := by decide
theorem test_mma_without_the_baton : (match exec (.mma 0 1 7 true 3 20 21) (engState none) with
    | .next t => (t.teams.find 1).map (fun x => (x.run, x.trap.code))
    | _ => none) = some (.stopped, 0x0D8) := by decide
/-- The baton free, held by another group of the team, and a queue that starts with one of another team. -/
theorem witness_EngineWords_baton : ((engState none).core 0).holder ≠ some 16 ∧ (engNow.g.sget 23).toNat < 16
    ∧ (let s := { at1 ⟨{ engTeam with groups := 2 }, engNow.g, aFrag⟩ with cores := [(0, some { holder := some 16, batonQ := [33] })] }
       (s.core 0).holder = some 16 ∧ 1 < 2 ∧ 1 ∉ engTeam.ended ∧ 1 ≠ s.cur.grp
         ∧ goesTo (exec (.bpass 0 none) s) (fun t => (t.core 0).holder == none && (t.core 0).grantTo == some 33) = true) := by decide

/-- An engine queue with no place, and a team whose saved holding is still to be granted. -/
theorem witness_EngineWords_waits : ({ engState (some 16) with
      cores := [(0, some { holder := some 16, engine := List.replicate 16 { op := .mzero 0 1, who := ⟨16, 0⟩, pc := 0 } })] } : State).engineShut engNow = true
    ∧ goesTo (exec (.baton 0) (at1 { engNow with t := { engTeam with savedBaton := some 16 } })) (fun t => (t.frags.find 1024).map (fun f => (f.st, f.pc)) = some (.waitB, 0x10000)) = true := by
  decide

-- EngineStatusAndCompression: a zero quarter; bf16 and np8 with scales that are not 255
theorem witness_EngineStatusAndCompression : let s := engState (some 16)
    s.scrRange engTeam 1 0 4096 64 = none ∧ s.scrRange engTeam 1 0x14000 2560 64 = none ∧ s.engRange engNow 1 0 64 512 = none
      ∧ (∀ i, i < 16 * (256 / 32) → (engTeam.scaleEntry 0 32 i).1 ≠ 255) := by decide
theorem test_mstat : pendAfter (.mstat 0 0 1 false 6) ⟨{ engTeam with fnan := true }, engNow.g, aFrag⟩ = some (some [.s 6 0x1000000], 0) := by decide

-- IoWords: a doorbell binding whose last slot is named, MMIO and configuration space of a link that is up, and a call block
def ioGroup : Group := regs [(4, 0), (5, 15), (6, 0x30000), (7, 0x123400), (8, 0x10000), (9, 0x20000), (10, slotPasid), (11, 1), (12, 0x10040), (13, 0x40000), (14, 1), (15, 0xFFFF), (16, 0x20000), (17, slotPasid)]
def ioState (kind : Mode) : State :=
  let s := (at1 (now kind ioGroup)).memStore (slotFrame + 0x40) (leBytes 8 0x20000 ++ [1])
  { s with subs := [(0, some { up := true })], ioLeases := [(1, some { pasid := slotPasid, va := 0x40000, bytes := 0x10000, dir := 2 })]
           bindings := [(0, some { pasid := slotPasid, dbaddr := 0x30000, qbase := 0x40000, depth := 16, esz := 6, ctr := .null, pubVa := 0, follow := false })]
           funcs := [(1, some { rid := 1, port := 0, sub := 0, ats := true, pri := true, groups := [(slotPasid, 0, 1)], pageReqs := 1 })] }
theorem witness_IoWords : ((ioState .compute).dbwFault (now .compute ioGroup) 0 15 matches .ok 0) = true
    ∧ ok ((ioState .system).ioAddr (now .system ioGroup) false false 0x30000 8) = true ∧ ok ((ioState .system).ioAddr (now .system ioGroup) false true 0x30000 8) = true
    ∧ ok ((ioState .system).ioAddr (now .system ioGroup) true true 0x123400 4) = true
    ∧ ok ((ioState .compute).callBlock (now .compute ioGroup) 0x10040) = true ∧ ok ((ioState .system).bindCounter 0 slotPasid 0x20000) = true := by decide
/-- The last binding, with a counter and a PASID in the next scalars; the function's invalidation; a held page request group. -/
theorem witness_IoWords_services : (ioGroup.sget 15).toNat < 2 ^ 17 ∧ (ioGroup.sget 10).toNat < 2 ^ 20
    ∧ (((ioState .system).hub 0).msi.find 0xFFFF) = none ∧ ((ioState .system).funcs.find 1).map (·.ats) = some true
    ∧ ((ioState .system).funcs.find 1).map (fun f => f.groups.find? (fun e => e.1 = slotPasid && e.2.1 = 0)) = some (some (slotPasid, 0, 1)) := by decide
/-- The second issue of the MSIB that waits for the installation of the last binding. -/
theorem test_msib_installed : let b : MsiBind := { pasid := slotPasid, ctr := .mem (slotFrame + 0x10000), va := 0x20000, data := false, installing := true, valid := false }
    let s := ioState .system
    goesTo (exec (.msib .one 15) (s.putHub 0 { s.hub 0 with msi := [(0xFFFF, some b)] })) (fun t =>
      (t.hub 0).msi.find 0xFFFF = some { b with installing := false, valid := true } && (t.frags.find 1024).map (·.pc) = some 0x10008) = true := by decide
theorem test_dbw_past_the_depth : ((ioState .compute).dbwFault (now .compute ioGroup) 0 16 matches .error 0x103) = true := by decide
theorem test_iost_posts : goesTo (exec (.iost false .h 6 7 2) (ioState .system)) (fun t =>
    t.sent.map (fun x => (x.sub, x.addr, x.data)) = [(0, 0x100000000002, some [0x00, 0x34])]) = true := by decide
theorem test_svcall_queues : goesTo (exec (.svcall 12 5) (ioState .compute)) (fun t =>
    t.calls.all.map (fun e => (e.2.num, e.2.hub, e.2.block, e.2.who)) = [(5, 0, 0x10040, none)]) = true := by decide

-- SpecialRegisters
theorem witness_SpecialRegisters : barredReg (now .compute {}) 0x009 = false ∧ barredReg (now .system {}) 0x11B = false
    ∧ (∀ k ∈ (now .compute {}).floats, (now .compute {}).g.resultIn k = true) ∧ sysWritable 0x118 = true ∧ barredReg (now .prologue {}) 0x000 = false := by decide
theorem test_srd_laneid_prologue : goesTo (exec (.srd 0 0 100) (at1 (now .prologue {}))) (fun t => t.groups == (at1 (now .prologue {})).groups) = true := by decide
theorem test_srd_clock : pendAfter (.srd 0 9 2) (now .compute {}) = some (some [.s 2 1000000], 0) := by decide
theorem test_srd_laneid : pendAfter (.srd 0 0 100) (now .compute {}) = some (some [.v 100 0 0, .v 100 1 1, .v 100 2 2], 0) := by decide
theorem test_stageq_clamps : goesTo (exec (.stageqWrite 4) (at1 (now .system (regs [(4, 0xFF40410000000001)]))))
    (fun t => t.stageq = 0x4040400000000001) = true := by decide

-- SystemWords: translations of the last page, a harvest of one page, a scope entry, and the deadlines on both sides of CLOCK
def sysGroup : Group := { regs [(8, slotPasid), (9, 0x10000), (10, 1), (11, 0x10100), (12, slotPasid), (13, 0x10100), (4, 1000000), (5, 1000001), (6, 0x20000), (7, 1)] with
  trap := { v := true, pc := 0x10010, em := 7 } }
theorem witness_SystemWords : let n := now .system sysGroup
    8 + 3 < 64 ∧ (0x10000 % 0x10000 = 0) ∧ (at1 n).migrating slotPasid 0x10000 1 = false
      ∧ ok ((at1 n).harvest (n.party 1) 0 slotPasid 0x10000 0x10100 true 1 0 0 1) = true ∧ ok ((at1 n).readWords (n.party 1) 0x10100 24) = true
      ∧ (n.g.sget 4).toNat ≤ (at1 n).clock ∧ (at1 n).clock < (n.g.sget 5).toNat ∧ ok ((at1 n).ctrOperand n 1 .wait (n.g.sget 6)) = true := by decide
/-- A bank that can switch at once, one that waits for a copy of the team, and a switch whose 512 ck have passed. -/
theorem witness_SystemWords_bmode : let n := now .compute {}
    let s := at1 n
    n.t.switches = [] ∧ n.t.switchFault .way 0 = none ∧ s.bankBusy 1 = false ∧ s.holdsBaton 1 = false ∧ s.waitsBaton 1 = false
      ∧ ({ s with copies := [(5, some { kind := .fill true 0 64 4 0, own := .group 16 2, prog := 0 })] } : State).bankBusy 1 = true
      ∧ n.t.switchFault .ring 3 ≠ none
      ∧ goesTo (exec (.bmode .way 0) s) (fun t => (t.teams.find 1).map (fun x => (x.switches.map (·.begun), x.bs)) = some ([some 1000000], 0)
          && goesTo (.next ({ t with clock := t.clock + 512 }.bankStep 1)) (fun u =>
            (u.teams.find 1).map (fun x => (x.switches, x.bs)) = some ([], 0) && (u.frags.find 1024).map (fun f => (f.st, f.pc)) = some (.active, 0x10008))) = true := by
  decide
theorem test_tlbi : goesTo (exec (.tlbi .va false 8) { at1 (now .system sysGroup) with
    cores := [(7, some { tlb := [{ pasid := slotPasid, vpn := 1, pte := 7, size := 1 }, { pasid := slotPasid, vpn := 2, pte := 7, size := 1 }] })] })
    (fun t => (t.core 7).tlb.map (·.vpn) = [2]) = true := by decide
theorem test_halt_waits : goesTo (exec (.halt 5) (at1 (now .system sysGroup))) (fun t => (t.frags.find 1024).map (fun f => (f.st, f.active)) = some (.waitL, none)) = true := by
  decide

-- The front end: one queue of slotPasid whose ring starts at 0x10000, with its QCB in the device-structure range ---------------------

def aQueue : Queue :=
  { pasid := slotPasid, hub := 0, qcb := 0xBC00000000, prio := 0, ctx := 3, base := 0x10000, lsz := 6, tail := 0x20000, head := 0x20008
    fault := 0x20010, scope := 0, slice := 1000, park := 20, wdog := 1, refuse := 0, ppool := 0, fields := 0xFFFF, next := 63 }
def queueKey : Nat := slotPasid * 4096
/-- The device with the queue, its QCB valid, and a context. -/
def fe (q : Queue) : State :=
  { dev.memStore 0xBC00000000 (leBytes 8 0x50103) with
    queues := [(queueKey, some q)], ctxs := [(3, some { pasid := slotPasid, queues := [queueKey] })] }
/-- The queue with a packet taken. -/
def taken (type : Nat) (f : List Word) (desc : Option Desc := none) : Queue :=
  { aQueue with step := .taken, pkt := some { idx := 63, type := type, ord := false, sc := 5, bar := false, f := f, desc := desc } }
/-- A descriptor at 0x10080. -/
def aDesc : Desc := { regs := 32, entry := 0x10000 }
def withDesc (s : State) : State := (s.memStore (slotFrame + 0x80) (leBytes 8 (1 + 32 * 2 ^ 8))).memStore (slotFrame + 0x88) (leBytes 8 0x10000)
def hubParty : Party := { place := .hub 0, pasid := slotPasid }

-- Packets: the last slot of the ring is the next one
theorem witness_Packets_take : (fe aQueue).queues.find queueKey = some aQueue ∧ (fe aQueue).serves aQueue = true
    ∧ (match (fe aQueue).hubOperand 0 slotPasid .wait 0x20000 with | (.ok (.mem _), _) => true | _ => false) = true
    ∧ dirBad ((fe aQueue).dirEntry 0 slotPasid) = false ∧ qcbBad ((fe aQueue).memWord 0xBC00000000) = false
    ∧ ((fe aQueue).memWord 0xBC00000000).getLsbD 3 = false
    ∧ (match ((fe aQueue).memStore (slotFrame + 64 * 63) (leBytes 8 0x108)).feRead 0 slotPasid (aQueue.slot 63).toNat 8 with
      | (.ok l, _) => !packetBad l && (packetOf 63 l).type == 8
      | _ => false) = true := by decide
theorem test_packet_take : goesTo (exec (.packetTake queueKey) ((fe { aQueue with reached := true }).memStore (slotFrame + 64 * 63) (leBytes 8 0x108)))
    (fun t => (t.queues.find queueKey).map (fun q => (q.step, q.prio, q.next)) = some (.taken, 5, 63)) = true := by decide
/-- A LAUNCH packet whose descriptor reads well, a word 0 that does not, and a queue that has stopped. -/
theorem witness_Packets_launch : (match (withDesc ((fe aQueue).memStore (slotFrame + 64 * 63) (leBytes 8 0x101 ++ leBytes 8 0x10080))).feRead 0 slotPasid
      (aQueue.slot 63).toNat 8 with
    | (.ok l, s1) => !packetBad l && (packetOf 63 l).type == 1
      && (match s1.readDesc aQueue ((packetOf 63 l).fld 0) with | (.ok d, _) => d == aDesc | _ => false)
    | _ => false) = true ∧ qcbBad 0x50104 = true ∧ ({ aQueue with halted := true } : Queue).halted = true := by decide
theorem test_packet_take_refuses_word_0 : goesTo (exec (.packetTake queueKey) ((fe { aQueue with reached := true }).memStore 0xBC00000000 (leBytes 8 0x50104)))
    (fun t => (t.queues.find queueKey).map (fun q => (q.halted, q.fcause, q.next)) = some (true, 0x0B6, 63)) = true := by decide
theorem witness_Packets_operands :
    (fe (taken 3 [0x20018, 2])).started queueKey 3 = some (taken 3 [0x20018, 2], ⟨63, 3, false, 5, false, [0x20018, 2], none⟩)
      ∧ ok ((fe (taken 3 [0x20018, 2])).hubOperand 0 slotPasid (.add false) 0x20018) = true
      ∧ (fe (taken 4 [0x20018, 2])).started queueKey 4 = some (taken 4 [0x20018, 2], ⟨63, 4, false, 5, false, [0x20018, 2], none⟩)
      ∧ (match (fe (taken 5 [0x10100, 7])).checkAccess hubParty .store 0x10100 8 with
        | (.ok _, s1) => ok (s1.hubOperand 0 slotPasid (.add false) 0x20018) && s1.settled
        | _ => false) = true
      ∧ ((fe (taken 2 [])).checkDone aQueue (some { ctr := 0x20018, val := 1, scope := none })).1 = none := by decide
theorem test_cadd_packet : goesTo (exec (.caddPacket queueKey) (fe (taken 3 [0x20018, 2]))) (fun t =>
    t.memWord (slotFrame + 0x10018) = 2 && (t.queues.find queueKey).map (fun q => (q.next, q.pkt)) = some (64, none)) = true := by decide
theorem test_wrsig_packet : goesTo (exec (.wrsig queueKey) (fe (taken 6 [0x10100, 7, 0x20018, 1]))) (fun t =>
    t.memWord (slotFrame + 0x100) = 7 && t.memWord (slotFrame + 0x10018) = 1) = true := by decide
theorem test_copy_packet_of_nothing : goesTo (exec (.copyPacket queueKey) (fe (taken 2 [1, 2, 0]))) (fun t => t.copies == []) = true := by decide
theorem test_marker : goesTo (exec (.marker queueKey) (fe (taken 8 [0x55]))) (fun t => (t.queues.find queueKey).map (·.mark) = some 0x55) = true := by decide

-- LaunchAndGraphPackets: a descriptor at 0x10080 with 32 registers and one group; a graph of two nodes at 0x10100, the second of one predecessor
theorem witness_LaunchAndGraphPackets_launch :
    ((fe (taken 1 [0x10080, 1] (some aDesc))).started queueKey 1).map (·.2.desc) = some (some aDesc)
      ∧ ((fe (taken 1 [0x10080, 1])).checkDone aQueue none).1 = none := by decide
theorem test_launch_without_a_prologue : goesTo (exec (.launch queueKey) (fe (taken 1 [0x10080, 0x40000200001, 9] (some aDesc))))
    (fun t => t.launches.all.map (fun e => (e.2.step, e.2.grid, e.2.args)) = [(.admission, 0x40000200001, 9)]) = true := by decide
/-- A CADD node of no predecessor with successor 1, and an END node of one. -/
def node0 : Nat := 3 + 0x0001 * 2 ^ 32 + 0xFFFF * 2 ^ 48
def node1 : Nat := 8 + 2 ^ 12 + 0xFFFFFFFF * 2 ^ 32
def withGraph (s : State) : State :=
  let s := s.memStore (slotFrame + 0x100) (leBytes 8 (1 + 2 * 2 ^ 16))
  let s := s.memStore (slotFrame + 0x140) (leBytes 8 node0 ++ leBytes 8 0x20018 ++ leBytes 8 5)
  s.memStore (slotFrame + 0x180) (leBytes 8 node1)
theorem witness_LaunchAndGraphPackets_graph : let s := withGraph (fe (taken 7 [0x10100, 0]))
    (s.graphLoad 0).1 < 64 ∧ (s.graphLoad 0).2 + 2 ≤ 4096 ∧ 0x10100 % 64 = 0
      ∧ (match s.feRead 0 slotPasid 0x10100 8 with
        | (.ok l, s2) => l == [0x20001, 0, 0, 0, 0, 0, 0, 0] && ok (s2.loadNodes aQueue 0x10100 2 0 2)
        | _ => false) = true := by decide
def graphState : State := match exec (.graph queueKey) (withGraph (fe (taken 7 [0x10100, 0]))) with | .next t => t | _ => dev
theorem test_graph_starts_its_roots : graphState.graphs.all.map (fun e => e.2.nodes.all.map (fun n => (n.2.running, n.2.due)))
    = [[(true, true), (false, false)]] := by decide

-- Graphs: the node is due with its arguments read; its successor starts with its arrival
theorem witness_Graphs : (match graphState.nodeDue 2 0 3 with
    | some (x, q, n) => match graphState.nodeArgs x q 0 n with
      | (.ok l, s1) => l == [0x20018, 5, 0, 0, 0, 0, 0] && ok (s1.hubOperand 0 slotPasid (.add false) 0x20018)
      | _ => false
    | none => false) = true := by decide
theorem test_cadd_node : goesTo (exec (.caddNode 2 0) graphState) (fun t =>
    (t.graphs.find 2).map (fun x => x.nodes.all.map (fun n => (n.2.running, n.2.due))) = some [(true, false), (false, false)]
      && t.ops.all.any (fun e => e.2.act = .add 5 && e.2.who = .node 2 0)) = true := by decide
/-- A node that reads its fields one by one keeps what it has read, and stays due (R404). -/
theorem test_node_reads_a_field : goesTo (exec (.caddNode 2 0) { graphState with tear := [true] }) (fun t =>
    (t.graphs.find 2).map (fun x => x.nodes.all.map (fun n => (n.2.due, n.2.args))) = some [(true, [0x20018]), (false, [])]
      && (t.nodeDue 2 0 3).map (fun e => (t.nodeArgs e.1 e.2.1 0 e.2.2).1.toOption) = some (some [0x20018, 5, 0, 0, 0, 0, 0])) = true := by decide
/-- A graph of one node of each other kind, due with arguments a and b. -/
def oneNode (kind : Nat) (n : GNode) (a : List Nat) : State :=
  let s := fe { aQueue with next := 64 }
  let s := (s.memStore (slotFrame + 0x140) (leBytes 8 (n.word.toNat + kind) ++ a.flatMap (leBytes 8))).memStore (slotFrame + 0x200) [1]
  { s with graphs := [(2, some { va := 0x10100, arg := 9, queue := queueKey, idx := 63, pasid := slotPasid, since := 1
                                 nodes := [(0, some { n with word := n.word + BitVec.ofNat 64 kind, running := true, due := true }), (1, some { word := 8 + 2 ^ 12 })] })] }
def succ01 : GNode := { word := BitVec.ofNat 64 (0x0001 * 2 ^ 32 + 0xFFFF * 2 ^ 48) }
def argsOf (s : State) (kind : Nat) : Option (List Word) :=
  match s.nodeDue 2 0 kind with
  | some (x, q, n) => match s.nodeArgs x q 0 n with
    | (.ok l, _) => some l
    | _ => none
  | none => none
theorem witness_Graphs_kinds : argsOf (withDesc (oneNode 1 succ01 [0x10080, 1])) 1 = some [0x10080, 1, 0, 0, 0, 0, 0]
    ∧ argsOf (oneNode 2 succ01 [0x10000, 0x10100, 0x40]) 2 = some [0x10000, 0x10100, 0x40, 0, 0, 0, 0]
    ∧ argsOf (oneNode 4 succ01 [0x20018, 5]) 4 = some [0x20018, 5, 0, 0, 0, 0, 0] ∧ argsOf (oneNode 5 succ01 [0x10200]) 5 = some [0x10200, 0, 0, 0, 0, 0, 0]
    ∧ argsOf (oneNode 7 { succ01 with table := [1] } [0x10204]) 7 = some [0x10204, 0, 0, 0, 0, 0, 0]
    ∧ argsOf (oneNode 6 succ01 [0x10200, 1]) 6 = some [0x10200, 1, 0, 0, 0, 0, 0] ∧ argsOf (oneNode 8 {word := 0xFFFFFFFF00000000} []) 8 = some [0, 0, 0, 0, 0, 0, 0]
    ∧ ok ((oneNode 5 succ01 [0x10200]).feRead32 aQueue 0x10200) = true ∧ ok ((oneNode 6 succ01 [0x10200, 1]).loopGo aQueue succ01 0x10200 1) = true := by decide
/-- A CWAIT node whose waiter a suspension has withdrawn. -/
def askAgain : CtrOp := { ctr := .mem (slotFrame + 0x10018), act := .wait 5, who := .node 2 0, pasid := slotPasid, va := 0x20018 }
theorem witness_Graphs_asked : ((oneNode 4 { succ01 with asked := some askAgain } [0x20018, 5]).nodeDue 2 0 4).map (·.2.2.asked) = some (some askAgain) := by decide
/-- A graph of a detached queue with no node running, and no other packet alive. -/
theorem witness_Graphs_end : let s := fe { aQueue with detached := true, live := [62] }
    goesTo (exec (.graphEnd 2) { s with graphs := [(2, some { va := 0x10100, arg := 9, queue := queueKey, idx := 62, pasid := slotPasid, since := 1 })] })
      (fun t => t.graphs == [] && t.queues == []) = true := by decide
theorem test_cond_node_takes_succ0 : goesTo (exec (.condNode 2 0) (oneNode 5 succ01 [0x10200]))
    (fun t => ((t.graphs.find 2).bind (fun x => x.nodes.find 1)).map (·.running) = some true) = true := by decide
theorem test_cond_node_takes_succ1 : goesTo (exec (.condNode 2 0) (oneNode 5 succ01 [0x10204]))
    (fun t => ((t.graphs.find 2).bind (fun x => x.nodes.find 1)).map (·.running) = some false) = true := by decide
theorem test_switch_node : goesTo (exec (.switchNode 2 0) (oneNode 7 { word := 0xFFFFFFFF00000000, table := [1] } [0x10204]))
    (fun t => ((t.graphs.find 2).bind (fun x => x.nodes.find 1)).map (·.running) = some true) = true := by decide
theorem test_loop_node_counts : goesTo (exec (.loopNode 2 0) (oneNode 6 succ01 [0x10200, 1]))
    (fun t => ((t.graphs.find 2).bind (fun x => x.nodes.find 0)).map (·.it) = some 1) = true := by decide
theorem test_end_node : goesTo (exec (.endNode 2 0) (oneNode 8 { word := 0xFFFFFFFF00000000 } [])) (fun t => (t.graphs.find 2).map (·.ended) = some true) = true := by decide
/-- An arrival that makes up a threshold, and the limits of arrivals and of the watchdog. -/
theorem witness_Graphs_arrivals : let n : GNode := { word := 8 + 2 ^ 12 }
    n.thr ≤ 0 + 1 ∧ ({ n with word := 8 + 2 * 2 ^ 12 } : GNode).thr = 2 ∧ 1 + aQueue.wdog * 1000 * 700 ≤ (oneNode 8 {word := 0} []).clock := by decide
theorem test_graph_watchdog : goesTo (exec (.graphWatchdog 2) (oneNode 4 succ01 []))
    (fun t => (t.queues.find queueKey).map (fun q => (q.fcause, q.fidx)) = some (0x0BA, 63)) = true := by decide

-- Prologues and Dispatching: a launch of one team of that descriptor
def aLaunch : Launch := { desc := aDesc, queue := queueKey, own := .packet queueKey 63, pasid := slotPasid, ctx := 3, grid := 0x40000200001, args := 9 }
def launched (l : Launch) : State := { fe { aQueue with pkt := some ⟨63, 1, false, 0, false, [], none⟩, launch := some 1, step := .admission } with launches := [(1, some l)] }
theorem witness_Prologues : ((launched { aLaunch with step := .prologue }).coreTeams 4096).length < 16
    ∧ (at1 (now .prologue {})).permits .prologue (now .prologue {}) ∧ (now .prologue {}).t.launch = 1 ∧ (now .prologue {}).t.watch + 1400 ≤ dev.clock
    ∧ (at1 (now .prologue {})).teamFrags 1 ≠ [] := ⟨by decide, at1_permits _ _ rfl, by decide, by decide, by decide⟩
theorem test_prologue_run : goesTo (exec (.prologueRun 1) (launched { aLaunch with step := .prologue, arg0 := 9, run := 2 }))
    (fun t => (t.groups.find 32).map (fun g => (g.sget 1, g.sget 2, g.sget 3)) = some (9, 2, 0x10FC0)) = true := by decide
theorem test_plaunch : goesTo (exec (.plaunch 10) { at1 (now .prologue (regs [(10, 0x40000200003), (11, 5)])) with launches := [(1, some { aLaunch with step := .inPrologue })] })
    (fun t => (t.launches.find 1).map (fun l => (l.step, l.grid, l.args)) = some (.admission, 0x40000200003, 5) && t.teams == []) = true := by decide
theorem witness_Dispatching_admission : let s := launched aLaunch
    s.gridRefusal aLaunch 0xFFFF = none ∧ ok (s.readRanges aQueue 0 1 0 0) = true ∧ (s.leaseView 0 slotPasid 1 []).bad = none
      ∧ s.leaseTooBig (s.leaseView 0 slotPasid 1 []) = false ∧ (s.takeAreas aLaunch 0xFFFF).isSome = true := by decide
theorem test_admission : goesTo (exec (.admission 1) (launched aLaunch)) (fun t =>
    (t.launches.find 1).map (fun l => (l.step, l.total)) = some (.admitted, 1) && (t.queues.find queueKey).map (·.next) = some 64) = true := by decide
/-- A zero extent is refused (R377). -/
theorem test_admission_refuses_an_empty_grid : goesTo (exec (.admission 1) (launched { aLaunch with grid := 0x40000000001 })) (fun t =>
    (t.queues.find queueKey).map (·.fcause) = some 0x0B3) = true := by decide
def ready1 : Launch := { aLaunch with step := .admitted, total := 1, left := 1, dims := (1, 1, 1) }
theorem witness_Dispatching : (launched ready1).canDispatch 1 ready1 = true
    ∧ (launched ready1).fitsAt 0xFFFF 1535 (1, 1) [aDesc.need 3] = some [1535] ∧ (launched ready1).charged ≤ (launched ready1).quota
    ∧ (launched ready1).firstToPlace 1 ready1 = true := by decide
/-- A line that a team reads and no team of its launch has paid for; no launch goes before it. -/
def staged1 : Launch := { ready1 with ranges := [{ va := 0x10000, stride := 0, bytes := 256, soff := 0, sbank := 0, hbm := false, prio := 0, intent := 1, target := 1 }] }
theorem test_staging : goesTo (exec (.staging 1 0) (launched staged1)) (fun t =>
    t.launches.all.map (fun e => (e.2.staged, e.2.charged, e.2.paid)) = [([0], [0x100], [0x100])]) = true := by decide
theorem test_team_dispatch : goesTo (exec (.teamDispatch 1 1535) (launched ready1)) (fun t =>
    (t.teams.find 2).map (fun x => (x.core, x.lin, x.kind)) = some (1535, 0, .compute) && (t.groups.find 32).map (·.sget 1) = some 9) = true := by decide
theorem test_launch_end : goesTo (exec (.launchEnd 1) (launched { ready1 with left := 0, nextTeam := 1 })) (fun t => t.launches == []) = true := by decide
/-- A launch whose prologue asked to run again: it does; where the launch has failed it ends. -/
theorem test_launch_repeats : goesTo (exec (.launchEnd 1) (launched { ready1 with left := 0, nextTeam := 1, repeats := true, run := 2 })) (fun t =>
    t.launches.all.map (fun e => (e.2.step, e.2.run)) = [(.prologue, 3)]) = true := by decide
theorem witness_Dispatching_failed : ({ ready1 with left := 0, nextTeam := 1, repeats := true, failed := some 0x054 } : Launch).failed = some 0x054 := by decide
-- Issue, results, homes, answers, caches, parking and ends -------------------------------------------------------------------

/-- A compute team with its group and one fragment of each kind. -/
def team1 (f : Frag := aFrag) (g : Group := {}) : State := at1 (now .compute g f)
def coreOf : Nat := slotCore .compute

-- IssueAndResults
theorem witness_IssueAndResults_issue : (team1).readyFrags coreOf ≠ [] ∧ coreOf < 4096 := by decide
theorem witness_IssueAndResults_swap :
    let s := team1 { aFrag with st := .pending, active := none, ready := some 999990 }
    ((s.coreFrags coreOf).filter (fun e => e.2.active.isSome)).length < activePlaces coreOf
      ∧ s.nextIn coreOf = some (1024, { aFrag with st := .pending, active := none, ready := some 999990 }) ∧ s.frags.find 1024 ≠ none := by decide
/-- 16 ready fragments fill the places, and one more has waited 8 ck. -/
def crowd : State := { team1 with
  frags := ((List.range 16).map (fun i => (1024 + i, some aFrag))) ++ [(1040, some { aFrag with st := .pending, active := none, ready := some 999992 })] }
theorem witness_IssueAndResults_age : crowd.exchange coreOf = (none, none)
    ∧ crowd.nextIn coreOf = some (1040, { aFrag with st := .pending, active := none, ready := some 999992 }) ∧ crowd.readyFrags coreOf ≠ []
    ∧ 999992 + 8 ≤ crowd.clock := by decide
theorem test_age_expiry_exchanges : goesTo (exec (.pendingAgeExpiry coreOf) crowd)
    (fun t => (t.frags.find 1040).map (·.st) = some .active && (t.frags.all.filter (fun e => e.2.st = .pending)).length = 1) = true := by decide
def aPend : Pend := { regs := [.v 3, .s 4], vals := some [.v 3 31 7, .s 4 9], flags := 1, due := 1000000 }
theorem witness_IssueAndResults_result : (team1 aFrag { pends := [(1, some aPend)] }).pendOf 16 1 = some aPend
    ∧ aPend.due ≤ (team1).clock ∧ aPend.bad = none ∧ (∀ q j x, RegVal.v q j x ∈ [RegVal.v 3 31 7, .s 4 9] → j < 32) :=
  ⟨by decide, by decide, by decide, by simp +contextual⟩
theorem test_result_write : goesTo (exec (.resultWrite 16 0 1 none) (team1 aFrag { pends := [(1, some aPend)] }))
    (fun t => (t.groups.find 16).map (fun g => (g.vget 3 31, g.sget 4, g.fpflags)) = some (7, 9, 1) && t.pendOf 16 1 = none) = true := by decide
theorem test_result_write_of_a_part : goesTo (exec (.resultWrite 16 0 1 (some (3, 0x7FFFFFFF))) (team1 aFrag { pends := [(1, some aPend)] }))
    (fun t => (t.groups.find 16).map (fun g => (g.vget 3 31, g.sget 4)) = some (0, 0) && t.pendOf 16 1 = some aPend) = true := by decide
/-- A result that its fragment's window keeps, and one of bad data. -/
theorem witness_IssueAndResults_kept : (team1 { aFrag with wins := [(1, 8)] } { pends := [(1, some aPend)] }).windowOpen 16 1 = true
    ∧ (team1).windowOpen 16 1 = false ∧ (aTeam .compute).run = .resident ∧ (aTeam .compute).paged = false := by decide
theorem test_result_of_bad_data : goesTo (exec (.resultWrite 16 0 1 none) (team1 aFrag { pends := [(1, some { aPend with bad := some { code := 0x078 } })] }))
    (fun t => (t.teams.find 1).map (fun x => (x.run, x.trap.code)) = some (.stopped, 0x078) && (t.groups.find 16).map (fun g => g.sget 4) = some 0) = true := by decide
theorem witness_IssueAndResults_halt : let f : Frag := { aFrag with st := .waitL, why := .deadline 1000000 5, ready := none }
    ((team1 f).at' ⟨16, 0⟩).map (·.f) = some f ∧ 1000000 ≤ (team1).clock := by decide

-- Homes: a counter of memory and a scratch counter, wanted by the fragment
def memC : Ctr := .mem (slotFrame + 0x10018)
def scrC : Ctr := .scr 1 63
def anOp (c : Ctr) (a : CtrDo) : CtrOp := { ctr := c, act := a, who := .frag 1024 0, team := 1, pasid := slotPasid, va := 0x20018, seq := 1, pc := 0x10000 }
def asked (c : Ctr) (a : CtrDo) : State := { team1 with ops := [(5, some (anOp c a))], nextId := 6 }
/-- The same with another fragment's wait for t held at the counter's home. -/
def awaited (c : Ctr) (a : CtrDo) (t : Word) : State :=
  let s := asked c a
  s.putHome (s.homeOf c) { general := [⟨{ anOp c (.wait t) with who := .frag 1025 0 }, t, 0⟩] }
theorem witness_Homes : (awaited memC (.add 7) 7).ops.find 5 = some (anOp memC (.add 7)) ∧ (awaited memC (.add 7) 7).ready (anOp memC (.add 7)) = true
    ∧ (awaited memC (.add 7) 7).ctrGone memC = false ∧ (awaited memC (.add 7) 7).settled = true
    ∧ ((awaited memC (.add 7) 7).home ((awaited memC (.add 7) 7).homeOf memC)).general ≠ []
    ∧ (awaited scrC (.add 7) 7).ready (anOp scrC (.add 7)) = true ∧ (awaited scrC (.add 7) 7).ctrGone scrC = false := by decide
/-- A test or a wait for a value that is reached, by the smallest and the largest distance, and one that is not (R12). -/
theorem witness_Homes_reached : let v := (asked memC .read).ctrGet memC
    v = 0 ∧ ((0 : Word) - v).toNat ≠ 2 ^ 63 ∧ (v - 0).toNat < 2 ^ 63 ∧ (v - 0x8000000000000001).toNat < 2 ^ 63 ∧ 2 ^ 63 < (v - 0x7FFFFFFFFFFFFFFF).toNat
      ∧ ((asked memC .read).home ((asked memC .read).homeOf memC)).general.length < (homeSize ((asked memC .read).homeOf memC)).1
      ∧ (asked memC (.set 5)).setRefused memC = none := by decide
theorem test_home_add_answers_and_wakes : goesTo (exec (.homeCounterOp 5) (awaited memC (.add 7) 7))
    (fun t => t.ctrGet memC = 7 && t.answers.all.map (fun e => e.2.val) == [.reached, .value 0]) = true := by decide
theorem test_home_wait_takes_an_entry : goesTo (exec (.homeCounterOp 5) (asked memC (.wait 1)))
    (fun t => (t.home (t.homeOf memC)).general.map (·.t) = [1] && t.answers == []) = true := by decide
theorem test_home_set_is_refused_while_something_waits : goesTo (exec (.homeCounterOp 5) (awaited memC (.set 7) 7))
    (fun t => t.ctrGet memC = 0 && t.answers.all.map (fun e => e.2.val) == [.trap 0x080]) = true := by decide
/-- A retrying wait, with n waits held at the home: the limit passed, for a fragment and for a packet. -/
def late (w : Who) : CtrOp := { anOp scrC (.wait 9) with who := w, retried := true, since := 0, seq := 77, team := match w with | .frag _ _ => 1 | _ => 0 }
def held (n : Nat) : List Waiter := List.replicate n ⟨{ anOp scrC (.wait 9) with who := .frag 1025 0 }, 9, 0⟩
def full (n : Nat) (o : CtrOp) : State :=
  let s := fe { aQueue with pkt := some ⟨63, 9, false, 0, false, [], none⟩, step := .waiting, refuse := 1 }
  let s : State := { s with teams := [(1, some { aTeam .compute with queue := queueKey })], groups := [(16, some {})], frags := [(1024, some aFrag)] }
  s.putHome coreOf { general := held n, retry := [o] }
theorem witness_Homes_full : ((full 224 (late (.frag 1024 0))).home coreOf).general = held 1 ++ held 223 ∧ (held 223).length < (homeSize coreOf).1
    ∧ ((full 224 (late (.frag 1024 0))).home coreOf).retry = [late (.frag 1024 0)] := ⟨rfl, by rw [held, List.length_replicate]; decide, rfl⟩
theorem test_cold_move : goesTo (exec (.coldMoveTick coreOf) (full 1 (late (.frag 1024 0))))
    (fun t => t.cold.length = 1 && (t.home coreOf).general.map (·.op) = [late (.frag 1024 0)] && (t.home coreOf).retry == []) = true := by decide
theorem witness_Homes_limit : (full 1 (late (.frag 1024 0))).retrying 77 = some (late (.frag 1024 0)) ∧ (full 1 (late (.frag 1024 0))).limitPassed (late (.frag 1024 0)) = true
    ∧ (full 1 (late (.packet queueKey))).retrying 77 = some (late (.packet queueKey)) ∧ (full 1 (late (.packet queueKey))).limitPassed (late (.packet queueKey)) = true := by decide
theorem test_refusal_limit_of_a_fragment : goesTo (exec (.waiterRefusalLimit 77) (full 1 (late (.frag 1024 0))))
    (fun t => (t.teams.find 1).map (fun x => (x.run, x.trap.code, x.trap.va)) = some (.stopped, 0x098, 0x20018)) = true := by decide
theorem test_refusal_limit_of_a_packet : goesTo (exec (.waiterRefusalLimit 77) (full 1 (late (.packet queueKey))))
    (fun t => (t.queues.find queueKey).map (fun q => (q.fcause, q.next)) = some (0x099, 64)) = true := by decide

-- CounterAnswers
def answered1 (f : Frag) (g : Group) (q : Queue) (a : Ans) : State :=
  { fe q with teams := [(1, some (aTeam .compute))], groups := [(16, some g)], frags := [(1024, some f)], answers := [(5, some a)], nextId := 6 }
def waitingC : Frag := { aFrag with st := .waitC, why := .answer, ready := none }
theorem witness_CounterAnswers_wait : let s := answered1 waitingC {} aQueue ⟨anOp memC (.wait 1), .reached⟩
    s.answers.find 5 = some ⟨anOp memC (.wait 1), .reached⟩ ∧ s.frags.find 1024 = some waitingC ∧ s.teams.find (1024 / 1024) = some (aTeam .compute) := by decide
theorem test_reached_wait_goes_on : goesTo (exec (.counterAnswer 5) (answered1 waitingC {} aQueue ⟨anOp memC (.wait 1), .reached⟩))
    (fun t => (t.frags.find 1024).map (fun f => (f.st, f.ready)) = some (.active, some 1000001)) = true := by decide
def reads : Pend := { regs := [.s 63], need := 1 }
theorem witness_CounterAnswers_read : let s := answered1 aFrag { pends := [(1, some reads)] } aQueue ⟨{ anOp memC .read with pend := some 1, reg := 63 }, .value 8⟩
    s.teams.find (1024 / 1024) = some (aTeam .compute) ∧ s.pendOf (1024 / 64) 1 = some reads ∧ reads.need ≤ 1 ∧ reads.got = [] := by decide
theorem test_read_answer_fills_its_result : goesTo (exec (.counterAnswer 5)
      (answered1 aFrag { pends := [(1, some reads)] } aQueue ⟨{ anOp memC .read with pend := some 1, reg := 63 }, .value 8⟩))
    (fun t => (t.pendOf 16 1).map (·.vals) = some (some [.s 63 8])) = true := by decide
theorem test_token_falls : goesTo (exec (.counterAnswer 5) (answered1 aFrag { tok := [(7, 2)] } aQueue ⟨{ anOp memC (.add 1) with who := .token 16 7 2 }, .value 8⟩))
    (fun t => (t.groups.find 16).map (fun g => g.tget 7) = some 1) = true := by decide
theorem witness_CounterAnswers_front : let s (w : Who) := answered1 aFrag { tok := [(7, 2)] } { aQueue with step := .waiting } ⟨{ anOp memC (.wait 1) with who := w }, .reached⟩
    (s (.tail queueKey)).queues.find queueKey = some { aQueue with step := .waiting } ∧ (s (.token 16 7 2)).groups.find 16 = some { tok := [(7, 2)] }
      ∧ (s (.packet queueKey)).answers.find 5 = some ⟨{ anOp memC (.wait 1) with who := .packet queueKey }, .reached⟩ ∧ (∀ c, AnsVal.reached ≠ .trap c) :=
  ⟨by decide, by decide, by decide, fun _ h => by cases h⟩
theorem test_cwait_packet_retires : goesTo (exec (.counterAnswer 5) (answered1 aFrag {} { aQueue with step := .waiting, pkt := some ⟨63, 9, false, 0, false, [], none⟩ }
      ⟨{ anOp memC (.wait 1) with who := .packet queueKey }, .reached⟩))
    (fun t => (t.queues.find queueKey).map (fun q => (q.step, q.next)) = some (.idle, 64)) = true := by decide

-- CachesAndWalks: a sector with one dirty byte, 2 µs old
def aSector : Sector := { data := [(63, 9)], dirty := 0x8000000000000000, oldest := some (1000000 - 1400) }
def cached : State := (team1).putCore coreOf { (team1).core coreOf with l1 := [(slotFrame / 64, some aSector)] }
theorem witness_CachesAndWalks : (cached.core coreOf).l1.find (slotFrame / 64) = some aSector ∧ aSector.oldest = some 998600 ∧ 998600 + 1400 ≤ cached.clock
    ∧ cached.settled = true ∧ (∀ i, i < 64 → cached.holds (64 * (slotFrame / 64) + i) = false) := by decide
theorem test_writeback : goesTo (exec (.writebackTimer coreOf (slotFrame / 64) false) cached)
    (fun t => t.memByte (slotFrame + 63) = 9 && ((t.core coreOf).l1.find (slotFrame / 64)).map (·.dirty) = some 0) = true := by decide
theorem test_logical_time : goesTo (exec (.logicalTimeTick coreOf) cached) (fun t => (t.core coreOf).lt = 1) = true := by decide
/-- A page at the top of the leaf table, whose accessed bit is not set yet. -/
def unwalked : State := (team1).memStore (slotRoot + 0x40028) (leBytes 8 (slotFrame + 0x30000 + 0x107))
theorem witness_CachesAndWalks_walk : 0x50000 < 2 ^ 56 ∧ (unwalked.tlbOf (placeOf coreOf)).find? (fun x => unwalked.entryHits (placeOf coreOf).hubOf slotPasid 0x50000 x) = none
    ∧ (match unwalked.walk (placeOf coreOf).hubOf slotPasid 0x50000 with
      | .leaf e a _ _ => pteP e && a == slotRoot + 0x40028
      | .fault _ => false) = true ∧ unwalked.settled = true := by decide
theorem test_walk_sets_the_accessed_bit : goesTo (exec (.pageWalk coreOf slotPasid 0x50000) unwalked)
    (fun t => (t.memWord (slotRoot + 0x40028)).toNat = slotFrame + 0x30000 + 0x127) = true := by decide

-- ParkingAndRelaunch: a team whose only fragment waits; its queue has a park pool
def poolQueue : Queue := { aQueue with pool := 0xBD00000000, ppool := 16 }
def parkTeam (run : RunSt) : Team := { aTeam .compute with run := run, queue := queueKey, ctx := 3, eligible := some (1000000 - 20 * 700), nregs := 32 }
def parking (run : RunSt) (f : Frag := waitingC) : State :=
  let s : State := { fe poolQueue with teams := [(1, some (parkTeam run))], groups := [(16, some {})], frags := [(1024, some f)] }
  s.putHome (s.homeOf memC) { general := [⟨anOp memC (.wait 9), 9, 3⟩] }
theorem witness_ParkingAndRelaunch_threshold : (parking .resident).teams.find 1 = some (parkTeam .resident) ∧ (parkTeam .resident).peers = []
    ∧ (parkTeam .resident).parkNow = false ∧ (parking .resident).dueToPark 1 = true := by decide
theorem test_park_threshold_begins : goesTo (exec (.parkThreshold 1) (parking .resident)) (fun t => (t.teams.find 1).map (·.run) = some (.parking 1)) = true := by decide
theorem witness_ParkingAndRelaunch_save : let s := parking (.parking 1)
    s.idleTeam 1 = true ∧ s.quiet 1 = true ∧ s.tokensZero 1 false = true ∧ s.engineDone 1 (parkTeam (.parking 1)) true = true ∧ s.spanBad 1 = false
      ∧ (match s.takeSpace [1] with
        | some s1 => !((s1.saveTeam 1 .parked).updTeam 1 (fun y => { y with npark := min 0xFFFF (y.npark + 1), parkNow := false })).unwakeable [1]
        | none => false) = true := by decide
theorem test_park_saves : goesTo (exec (.parkSave 1) (parking (.parking 1)))
    (fun t => (t.teams.find 1).map (fun x => (x.run, x.npark, x.saveAt)) = some (.parked, 1, some 0xBD00000000)) = true := by decide
/-- A team that is left as it is: a pending result keeps the save waiting, and a fragment that goes on abandons it. -/
theorem test_park_waits : goesTo (exec (.parkSave 1) { parking (.parking 1) with groups := [(16, some { pends := [(1, some aPend)] })] })
    (fun t => (t.teams.find 1).map (fun x => (x.run, x.npark)) = some (.parking 1, 0)) = true := by decide
theorem witness_ParkingAndRelaunch_relaunch : let s := parking .relaunch
    s.running = true ∧ s.queues.find (parkTeam .relaunch).queue = some poolQueue ∧ s.fitsAt poolQueue.fields 1535 (1, 1) [s.needOf 1 (parkTeam .relaunch)] = some [1535]
      ∧ s.recordFault 1 = none ∧ s.coldBad 1 = false := by decide
theorem test_relaunch : goesTo (exec (.teamRelaunch 1 1535) (parking .relaunch))
    (fun t => (t.teams.find 1).map (fun x => (x.run, x.core)) = some (.resident, 1535)) = true := by decide
/-- A saved team whose record in memory an edit has changed (R417, R421). -/
def edited (o n : Nat) (ver : Byte := 1) : State :=
  (({ (parking .relaunch).updTeam 1 (fun x => { x with saveAt := some 0xBD00000000 }) with ctxs := [(3, some { pasid := slotPasid })] }).memStore
    0xBD00000000 [ver]).memStore (0xBD00000000 + 0x1000 + 128 * 32 + o) (leBytes 8 n)
theorem test_relaunch_reads_an_edited_register : goesTo (exec (.teamRelaunch 1 1535) (edited 40 0x123)) (fun t => (t.teams.find 1).map (·.run) = some .resident
    && (t.groups.find 16).map (fun g => g.s.get 0 5) = some 0x123) = true := by decide
theorem test_bad_record_ends_the_context : goesTo (exec (.teamRelaunch 1 1535) (edited 0 1)) (fun t => (t.ctxs.find 3).map (·.killed) = some true) = true := by decide
theorem test_bad_version_ends_the_context : goesTo (exec (.teamRelaunch 1 1535) (edited 40 0x123 2)) (fun t => (t.ctxs.find 3).map (·.killed) = some true) = true := by
  decide
-- TeamsEndAndStop
/-- A team of a launch of the queue, with its group and fragments, and an attached context. -/
def ending (x : Team) (fs : List (Nat × Option Frag)) : State :=
  { fe poolQueue with teams := [(1, some { x with queue := queueKey, ctx := 3 })], groups := [(16, some {})], frags := fs
                      launches := [(1, some { ready1 with nextTeam := 1 })] }
def over1 : State := ending { aTeam .compute with ended := [0] } []
theorem witness_TeamsEndAndStop_end : (∀ g ∈ over1.groupsOf 1, over1.groupDone g = true) ∧ over1.groupsOf 1 = [16] ∧ over1.tokensZero 1 false = true
    ∧ over1.engineDone 1 (aTeam .compute) true = true ∧ over1.teamCopies 1 = [] ∧ (over1.launches.find 1).map (·.left) = some 1 := by decide
theorem test_team_end : goesTo (exec (.teamEnd 1) over1) (fun t => t.teams == [] && (t.launches.find 1).map (·.left) = some 0) = true := by decide
def stoppedBy (code : Code) : State :=
  { ending { aTeam .compute with run := .stopped, trap := { v := true, code := code, pc := 0x10000, atIssue := true } } [(1024, some aFrag)] with queues := [(queueKey, some aQueue)] }
def stoppedTeam (code : Code) : Team := { aTeam .compute with run := .stopped, trap := { v := true, code := code, pc := 0x10000, atIssue := true }, queue := queueKey, ctx := 3 }
/-- The first and the last of the codes that may be resumed, and a code of injection. -/
theorem witness_TeamsEndAndStop_stop : (stoppedBy 0x030).teams.find 1 = some (stoppedTeam 0x030) ∧ (stoppedBy 0x030).quiet 1 = true
    ∧ (stoppedBy 0x030).engineDone 1 (stoppedTeam 0x030) false = true ∧ resumable 0x030 = true ∧ resumable 0x03F = true ∧ resumable 0x0FF = true
    ∧ (({ stoppedBy 0x030 with frags := (stoppedBy 0x030).frags.upd 1024 (fun f => { f with pc := 0x10008 }) } : State).updTeam 1
        (fun y => { y with dbg := { y.dbg with skip := false } })).spanBad 1 = false
    ∧ ((stoppedBy 0x03F).updTeam 1 (fun y => { y with dbg := { y.dbg with skip := true } })).spanBad 1 = false := by decide
theorem test_stop_after_a_software_trap : goesTo (exec (.teamStop 1) (stoppedBy 0x030)) (fun t => (t.teams.find 1).map (·.run) = some .trapped
    && (t.frags.find 1024).map (·.pc) = some 0x10008 && t.launches.all.map (fun e => e.2.failed) = [none]) = true := by decide
theorem test_stop_ends_the_launch : goesTo (exec (.teamStop 1) (stoppedBy 0x001)) (fun t => t.teams == []
    && (t.queues.find queueKey).map (fun q => (q.fcause, q.fpc)) = some (0x001, 0x10000)) = true := by decide
def watched : State := { ending (aTeam .compute) [(1024, some aFrag)] with ctxs := [(3, some { pasid := slotPasid, wdog := 1, watch := 300000 })] }
theorem witness_TeamsEndAndStop_watchdog : watched.ctxs.find 3 = some { pasid := slotPasid, wdog := 1, watch := 300000 } ∧ watched.running = true
    ∧ (aTeam .compute).onCore = true ∧ 300000 + 1 * 700000 ≤ watched.clock
    ∧ (1, { aTeam .compute with queue := queueKey, ctx := 3 }) ∈ watched.teams.all := by decide
theorem test_watchdog_ends_the_context : goesTo (exec (.watchdogExpiry 3) watched) (fun t => (t.ctxs.find 3).map (·.killed) = some true) = true := by decide
def spent : State := ending { aTeam .compute with dbg := { budget := some 0 } } [(1024, some aFrag)]
theorem witness_TeamsEndAndStop_budget : (spent.teams.find 1).map (fun x => (x.dbg.budget, x.run)) = some (some 0, .resident) ∧ spent.teamFrags 1 = [(1024, aFrag)] := by decide
theorem test_spent_budget_stops : goesTo (exec (.debugBudgetExpiry 1) spent) (fun t => (t.teams.find 1).map (fun x => (x.run, x.trap.code)) = some (.stopped, 0x03D)) = true := by decide
theorem test_preempt_begins : goesTo (exec (.preempt 1 7) spent) (fun t => (t.teams.find 1).map (fun x => (x.run, x.cause)) = some (.preempting, 0x147)) = true := by decide
/-- A queue whose slice has run out, alone and with another queue's launch at admission. -/
def sliced (l : Tab Launch) : State := { fe { aQueue with sliceStart := some 300000 } with
  teams := [(1, some { aTeam .compute with queue := queueKey })]
  queues := [(queueKey, some { aQueue with sliceStart := some 300000 }), (queueKey + 1, some aQueue)], launches := l }
theorem witness_TeamsEndAndStop_slice : (sliced []).queues.find queueKey = some { aQueue with sliceStart := some 300000 } ∧ 300000 + aQueue.slice * 700 ≤ (sliced []).clock
    ∧ (sliced []).firstWaiting queueKey aQueue.prio = none ∧ (sliced [(1, some { aLaunch with queue := queueKey + 1 })]).firstWaiting queueKey aQueue.prio ≠ none
    ∧ (sliced []).runningOf queueKey ≠ [] := by decide
theorem test_slice_restarts : goesTo (exec (.timeSliceExpiry queueKey) (sliced [])) (fun t => (t.queues.find queueKey).map (·.sliceStart) = some (some 1000000)) = true := by decide
theorem test_slice_suspends : goesTo (exec (.timeSliceExpiry queueKey) (sliced [(1, some { aLaunch with queue := queueKey + 1 })]))
    (fun t => (t.queues.find queueKey).map (·.suspended) = some true && (t.teams.find 1).map (·.run) = some .preempting) = true := by decide
/-- R372: a pre-emption for priority suspends the queue; its slice stands still while no team of it is resident. -/
theorem test_priority_suspends : goesTo (exec (.preempt 1 0) (sliced [])) (fun t => (t.queues.find queueKey).map (fun q => (q.suspended, q.sliceStart)) = some (true, none)
    && (t.teams.find 1).map (·.cause) = some 0x140) = true := by decide
theorem test_slice_stands_still : ((({ sliced [] with clock := 300007 } : State).leaveCore 1 ({ aTeam .compute with queue := queueKey } : Team)).queues.find queueKey).map
    (fun (q : Queue) => (q.sliceStart, q.sliceUsed)) = some (none, 7) := by decide

-- CopyProgress: a linear copy of 65 bytes of the group: its first chunk, and the last byte
def aCopy : Copy := { kind := .linear 0x10000 0x10100 65, own := .group 16 7, team := 1, pasid := slotPasid, pc := 0x10000 }
def copying (c : Copy) : State :=
  let s : State := { ending (aTeam .compute) [(1024, some aFrag)] with copies := [(5, some c)], copyQueue := [(0, some [5])] }
  ({ s with groups := [(16, some { tok := [(7, 1)] })] }).memWrite (slotFrame + 63) [64, 65, 66]
theorem witness_CopyProgress_start : (copying aCopy).copyQueue.find 0 = some (5 :: []) ∧ (copying aCopy).copies.find 5 = some aCopy
    ∧ ((copying aCopy).copies.all.filter (fun e => e.2.die = 0 && e.2.running)).length < 16 := by decide
theorem test_engine_start : goesTo (exec (.copyEngineStart 0) (copying aCopy)) (fun t => (t.copies.find 5).map (·.running) = some true) = true := by decide
def chunkOk (c : Copy) : Bool :=
  let s := copying c
  let p := s.copyParty c
  match s.chunkPlan p.1 p.2 c c.prog (min (c.prog + c.kind.chunk) c.kind.total) with
  | (.ok _, s1) => !s.copyHeld c && !s.copyStops c && decide (s1.tears true = (false, s1)) && (({ s1 with tear := [true] }).tears true).1
  | _ => false
theorem witness_CopyProgress_chunk : chunkOk { aCopy with running := true } = true ∧ chunkOk { aCopy with running := true, prog := 64 } = true
    ∧ min (64 + aCopy.kind.chunk) aCopy.kind.total = aCopy.kind.total ∧ min (0 + aCopy.kind.chunk) aCopy.kind.total = 64 := by decide
/-- The first chunk as steps of its own: its four granules are read before any is written (R298). -/
theorem test_first_chunk_torn : goesTo (exec (.copyChunk 5) { copying { aCopy with running := true } with tear := [true] }) (fun t =>
    t.torn.all.map (fun e => e.2.todo.keys) = [[0, 1, 2, 3]] && t.memByte (slotFrame + 0x13F) = 0) = true := by decide
theorem test_last_chunk : goesTo (exec (.copyChunk 5) (copying { aCopy with running := true, prog := 64 })) (fun t => t.copies == []
    && t.memByte (slotFrame + 0x140) = 65 && t.memByte (slotFrame + 0x141) = 0 && (t.groups.find 16).map (·.tget 7) = some 0) = true := by decide
def laneCopy (cancel : Bool) : LaneCopy := { gid := 16, tok := 7, size := 4, lanes := [(.mem (slotFrame + 60), .scr 1 0x1FFFC)], pasid := slotPasid, cancel := cancel }
theorem witness_CopyProgress_lanes : ({ copying aCopy with laneCopies := [(9, some (laneCopy false))] } : State).laneCopies.find 9 = some (laneCopy false)
    ∧ ({ copying aCopy with laneCopies := [(9, some (laneCopy true))] } : State).laneCopies.find 9 = some (laneCopy true) := by decide
theorem test_lane_copy : goesTo (exec (.cpyComplete 9) { copying aCopy with laneCopies := [(9, some (laneCopy false))] }) (fun t => t.laneCopies == []
    && (t.teams.find 1).map (fun x => Cells.get 0 x.scratch 0x1FFFF) = some 64 && (t.groups.find 16).map (·.tget 7) = some 0) = true := by decide

-- EngineSteps
def engineWith (op : EngOp) (tiles : Cells Lane := []) (scratch : Cells Byte := []) : State :=
  let n : Now := ⟨{ engTeam with tiles := tiles, scratch := scratch }, { tok := [(1, 1)] }, aFrag⟩
  { at1 n with cores := [(0, some { holder := some 16, latches := tagged 1, engine := [{ op := op, who := ⟨16, 0⟩, pc := 0x10000 }] })] }
def plainFmt : FmtBlk := { anb := 2, bmid := false, bp := 8, bbl := 0, bsc := false, bfmt := 0, abl := 0, asc := false, afmt := 0
                           ascale := 0, bscale := 0, astep := 0x4000, bstream := 0, bstep := 0 }
theorem witness_EngineSteps : let s := engineWith (.mma plainFmt 3 0 false 255 255 1)
    (s.core 0).engine = [{ op := .mma plainFmt 3 0 false 255 255 1, who := ⟨16, 0⟩, pc := 0x10000 }] ∧ (s.teams.find 1).isSome = true ∧ s.groups.find 16 = some { tok := [(1, 1)] }
      ∧ ({ t := engTeam, f := plainFmt, a := 255 * 0x4000, sa := 2048 * 255, sb := 2048 * 255, latches := fun q => { ((s.core 0).latches.find q).getD {} with comp := false } } : MmaStep).fault = none
      ∧ (255 = 0 ∨ plainFmt.bstep = 0) := by decide
/-- C + A·B of one word with A[0][0] = 2 and B[0][0] = −3 in format s8 (R75). -/
theorem test_mma_word : (mmaWord { t := { engTeam with scratch := [(0, 2)] }, f := plainFmt, a := 0, sa := 0, sb := 0, latches := fun _ => { data := [(0, 0xFD)] } } 5 0 0).1
    = 0xFFFFFFFF#32 := by decide
theorem test_mzero_performs : goesTo (exec (.engineOpPerform 0) (engineWith (.mzero 1 2) [(4095, 1), (4096, 2), (12287, 3), (12288, 4)])) (fun t =>
    (t.teams.find 1).map (·.tiles) = some [(4095, 1), (12288, 4)] && (t.core 0).engine == []) = true := by decide
theorem test_mbq_performs : goesTo (exec (.engineOpPerform 0) (engineWith (.mbq 3 false [(0, 9)]))) (fun t =>
    ((t.core 0).latches.find 3).map (·.data) = some [(0, 9)]) = true := by decide
theorem witness_EngineSteps_baton : let s := { engineWith (.mzero 0 1) with cores := [(0, some { batonQ := [16, 17] })] }
    (s.core 0).holder = none ∧ (s.core 0).grantTo = none ∧ (s.core 0).batonQ = 16 :: [17] ∧ (s.core 0).busyFor (16 / 16) = false := by decide
theorem test_baton_grant : goesTo (exec (.batonGrant 0) { engineWith (.mzero 0 1) with cores := [(0, some { batonQ := [16, 17] })] })
    (fun t => (t.core 0).holder = some 16 && (t.core 0).batonQ = [17]) = true := by decide

-- RingLogicAndErrors
def aRing : Ring := { tail := 3, cap := 2, base := 2, w := 4, spilled := 1, batches := [⟨2, 1024, 1⟩, ⟨1, 1024, 2⟩], recs := [(0, 5), (2, 7)] }
def ringState (r : Ring) : State := ending { aTeam .compute with rings := [(7, some r)], spill := some 0xBD00000000 } [(1024, some aFrag)]
theorem witness_RingLogicAndErrors_publish : ((ringState aRing).teams.find 1).bind (·.rings.find 7) = some aRing ∧ aRing.batches = ⟨2, 1024, 1⟩ :: [⟨1, 1024, 2⟩] ∧ aRing.arrived = [] ∧ (ringState aRing).ops = [] ∧ (ringState aRing).settled = true := by decide
theorem test_publish : goesTo (exec (.ringPublish 1 7) (ringState aRing)) (fun t =>
    t.scrCounter 1 63 = 2 && ((t.teams.find 1).bind (·.rings.find 7)).map (fun r => (r.pub, r.batches.map (·.count))) = some (2, [1])) = true := by decide
/-- HEAD has advanced, so one on-chip slot is free. -/
def freed : Ring := { aRing with head := 1, recs := [(2, 7)], batches := [] }
theorem witness_RingLogicAndErrors_refill : 0 < freed.spilled ∧ freed.onChip < freed.cap
    ∧ (ringState freed).poisoned (({ aTeam .compute with rings := [(7, some freed)], spill := some 0xBD00000000 } : Team).spillAt 7 freed (freed.head + freed.onChip)) 32 = false := by decide
theorem test_refill : goesTo (exec (.ringRefill 1 7) (ringState freed)) (fun t => ((t.teams.find 1).bind (·.rings.find 7)).map (·.spilled) = some 0) = true := by decide
/-- The 16th grant goes to a request of class 1 that is 10 µs old, before one of class 0; the 15th does not (R391). -/
theorem test_arbiter_ages : ({ waiting := [(0, 999999), (1, 993000)], grants := 15 } : Arbiter).pick 1000000 = some (1, 993000)
    ∧ ({ waiting := [(0, 999999), (1, 993000)], grants := 14 } : Arbiter).pick 1000000 = some (0, 999999)
    ∧ ({ waiting := [(0, 999999), (1, 993001)], grants := 15 } : Arbiter).pick 1000000 = some (0, 999999) := by decide
theorem test_soft_error_saturates : let s := ringState aRing
    goesTo (exec (.sramEccError (.tile 1) false) s) (fun t => (t.hub 0).serrcnt = 0x10000)
      && goesTo (exec (.sramEccError (.tile 1) false) (s.putHub 0 { s.hub 0 with serrcnt := 0xFF0000 })) (fun t => (t.hub 0).serrcnt = 0xFF0000) = true := by decide
theorem witness_RingLogicAndErrors_stop : ((ringState aRing).teams.find 1).map (fun x => (x.kind, x.run)) = some (.compute, .resident) := by decide
theorem test_uncorrectable_tile : goesTo (exec (.sramEccError (.tile 1) true) (ringState aRing)) (fun t => (t.teams.find 1).map (fun x => (x.run, x.trap.code)) = some (.stopped, 0x16C)) = true := by decide
/-- A log that has been full for a second, with an entry of a team held. -/
def fullLog : State :=
  let s := { ringState aRing with clock := 700000001 }
  s.putHub 0 { s.hub 0 with fullSince := some 1, flog := [{ team := some 1, ctx := 3 }] }
theorem witness_RingLogicAndErrors_log : (fullLog.hub 0).fullSince = some 1 ∧ 1 + 700000000 ≤ fullLog.clock ∧ (fullLog.hub 0).flog.map (·.team) = [some 1]
    ∧ fullLog.ctxs.find 3 ≠ none := by decide
theorem test_log_full_timeout : goesTo (exec (.faultLogFullTimeout 0) fullLog) (fun t => (t.ctxs.find 3).map (·.killed) = some true) = true := by decide
-- Calls and services ------------------------------------------------------------------------------------------------------------

/-- A call that Vetiver works on, its block at 0x10040 and its counter at 0x20018. -/
def aCall (num : Nat) (args : List Word) (step : Nat := 0) : Call :=
  { num := num, hub := 0, block := 0x10040, ctr := .mem (slotFrame + 0x10018), ctrVa := 0x20018, pasid := slotPasid, team := 1, lin := 0, since := 0
    begun := some 0, args := args, step := step }
def State.call (s : State) (num : Nat) (args : List Word) (step : Nat := 0) : State := { s with calls := [(5, some (aCall num args step))], nextId := 6 }
/-- The call's block where it is looked up before a step of its service, and the state that follows. -/
def State.keeps (s : State) (num : Nat) (args : List Word) (step : Nat := 0) : Bool := ((s.call num args step).blockAt (aCall num args step) true).1.isSome
def State.works (s : State) (num : Nat) (args : List Word) (step : Nat := 0) : State := ((s.call num args step).blockAt (aCall num args step) true).2
theorem serves (s : State) (num : Nat) (args : List Word) (step : Nat) (h : s.running = true) (hb : s.keeps num args step = true) :
    (s.call num args step).serving num 5 (aCall num args step) (s.works num args step) := by
  obtain ⟨pa, e⟩ := Option.isSome_iff_exists.1 hb
  exact ⟨aCall num args step, rfl, rfl, rfl, h, .inl ⟨fun h => (by cases h), rfl, pa, Prod.ext e rfl⟩⟩
/-- STATUS and RESULT of the block, and the add that goes to CTR (R439). -/
def ended (o : Out) (word : Word) (p : State → Bool) : Bool :=
  goesTo o (fun t => t.memWord (slotFrame + 0x50) == word && t.calls == [] && t.ops.all.any (fun e => e.2.ctr == memC && e.2.act == .add 1) && p t)

-- CallsAndContexts: a call that begins, with a block of version 1
def newCall : Call := { aCall 0 [] with begun := none }
def called : State := { team1.memStore (slotFrame + 0x48) (leBytes 8 1) with calls := [(5, some newCall)], nextId := 6 }
theorem witness_serving_begins : ∃ c u, called.serving 0 5 c u := by
  have h : (match called.readBlock newCall with
    | (some (a :: _), _) => a == 1
    | _ => false) = true := by decide
  split at h
  · rename_i a args v e
    have : a = 1 := by simpa using h
    subst this
    exact ⟨_, _, newCall, by decide, rfl, rfl, by decide, .inr ⟨rfl, by decide, args, v, e, rfl, rfl⟩⟩
  · cases h
theorem test_echo : ended (exec (.echo 5) called) 0 (fun _ => true) = true := by decide
theorem test_bad_version : ended (exec (.echo 5) (called.memStore (slotFrame + 0x48) (leBytes 8 2))) 0x13A (fun _ => true) = true := by decide
theorem witness_serving : team1.running = true ∧ team1.keeps 0 [] = true ∧ called.switching 0 = false := by decide
theorem witness_CallsAndContexts_end : Cells.wf none (team1.works 0 []).calls = true ∧ (match (team1.works 0 []).blockAt (aCall 0 []) true with
    | (some _, w) => match w.blockAt (aCall 0 []) false with
      | (some pa, v) => pa == slotFrame + 0x40 && v.settled
      | _ => false
    | _ => false) = true ∧ (∀ pa, (aCall 0 []).ctr ≠ .peer pa) := ⟨by decide, by decide, fun _ h => by cases h⟩
/-- A call that has run for twice its 2 µs, and one that its queue has not taken for a millisecond. -/
theorem witness_CallsAndContexts_late : (aCall 0 []).begun = some 0 ∧ (aCall 0 []).overrun = false ∧ (team1.works 0 []).callLimit (aCall 0 []) = 1400
    ∧ 0 + 2 * (team1.works 0 []).callLimit (aCall 0 []) ≤ dev.clock
    ∧ ({ team1 with calls := [(5, some { newCall with who := some ⟨16, 0⟩, since := 300000 })] } : State).calls.all.find? (fun e => e.2.who = some ⟨16, 0⟩)
      = some (5, { newCall with who := some ⟨16, 0⟩, since := 300000 }) ∧ 300000 + 700000 ≤ dev.clock := by decide
theorem test_overrun : ended (exec (.echo 5) { team1 with calls := [(5, some { aCall 0 [] with overrun := true })], nextId := 6 }) 0x0BB (fun _ => true) = true := by decide
theorem test_queue_timeout : goesTo (exec (.svcallQueueTimeout 16 0) { team1 with calls := [(5, some { newCall with who := some ⟨16, 0⟩, since := 300000 })] })
    (fun t => (t.teams.find 1).map (fun x => (x.run, x.trap.code, x.trap.va)) = some (.stopped, 0x13B, 0x10040)) = true := by decide

/-- A call whose block has lost its page, and one whose service a live update is switching. -/
theorem witness_CallsAndContexts_lost : let c : Call := { aCall 0 [] with block := 0x50000 }
    (({ team1 with calls := [(5, some c)] } : State).blockAt c true).1 = none
      ∧ (let s : State := { team1 with calls := [(5, some newCall), (6, some (aCall 42 [0, 0, 0, 0, 0, 7, 0, 0] 1))] }
         s.switching 0 = true ∧ newCall.hold = none
           ∧ goesTo (exec (.echo 5) s) (fun t => (t.calls.find 5).map (·.hold) = some (some 1000000)) = true) := by decide

/-- The last of 4096 queues of the PASID, with its QCB. -/
def attachable : State :=
  let s := dev.memStore (slotDir + 8 * slotPasid) (leBytes 8 (0x440003 + 12 * 2 ^ 6 + 0xBC000 * 2 ^ 39))
  let s := s.memStore (0xBC00000000 + 256 * 4095) ([0x300050103, 0x10000, 16, 0x20000, 0x20008, 0x20010, 0, 1000 + 20 * 2 ^ 32, 10, 16 + 0xFFFF * 2 ^ 32].flatMap (leBytes 8))
  { s with ctxs := [(3, some { pasid := slotPasid })] }
theorem witness_CallsAndContexts_qattach : let u := attachable.works 1 [slotPasid, 4095]
    let d := u.dirEntry 0 slotPasid
    let w := (List.range 32).map (fun i => u.memWord (0xBC00000000 + 256 * 4095 + 8 * i))
    u.pasidBad 0 slotPasid = false ∧ dirBad d = false ∧ 4095 < 2 ^ bits d 9 6 ∧ bits d 63 39 * 2 ^ 20 = 0xBC00000000
      ∧ u.queues.find (slotPasid * 4096 + 4095) = none ∧ (queueOf slotPasid (0xBC00000000 + 256 * 4095) 0 w u.clock).ctx = 3 ∧ u.ctxs.find 3 = some { pasid := slotPasid }
      ∧ qcbRefused w = false ∧ (u.setAside (16 * 0x10000)).isSome = true := by decide
theorem test_qattach : ended (exec (.qattach 5) (attachable.call 1 [slotPasid, 4095])) 0 (fun t =>
    (t.queues.find (slotPasid * 4096 + 4095)).map (fun q => ([q.lsz, q.prio, q.ctx, q.slice, q.park, q.wdog, q.fields, q.ppool])) = some [16, 5, 3, 1000, 20, 10, 0xFFFF, 16]
      && (t.memWord (0xBC00000000 + 256 * 4095)).getLsbD 2) = true := by decide
def served : State := { fe aQueue with
  teams := [(1, some { aTeam .compute with queue := queueKey, ctx := 3, run := .trapped, saveAt := some 0xBD00000000 })], groups := [(16, some {})], frags := [(1024, some aFrag)] }
/-- A queue with nothing in progress; a new and the last context; a trapped team's record; a live context with no team on a core and with one. -/
theorem witness_CallsAndContexts_contexts : served.queues.find queueKey = some aQueue ∧ aQueue.step = .idle ∧ aQueue.live = []
    ∧ served.sysPasid slotPasid = false ∧ (0xFFFF : Word).toNat < 2 ^ 16 ∧ served.ctxs.find 0xFFFF = none ∧ (served.ctxs.find 3).map (·.killed) = some false
    ∧ (served.teams.all.find? (fun e => e.2.saveAt = some 0xBD00000000)).map (·.1) = some 1
    ∧ (served.teams.all.filter (fun e => e.2.kind = .compute && e.2.ctx = 3 && e.2.onCore)) = []
    ∧ ((ending (aTeam .compute) [(1024, some aFrag)]).teams.all.filter (fun e => e.2.kind = .compute && e.2.ctx = 3 && e.2.onCore)) ≠ [] := by decide
theorem test_qdetach : ended (exec (.qdetach 5) (served.call 2 [slotPasid, 0])) 0 (fun t => t.queues == []) = true := by decide
theorem test_ctxcreate : ended (exec (.ctxcreate 5) (served.call 3 [slotPasid, 0xFFFF])) 0 (fun t => (t.ctxs.find 0xFFFF).map (·.pasid) = some slotPasid) = true := by decide
theorem test_ctxkill : ended (exec (.ctxkill 5) (served.call 4 [3])) 0 (fun t => (t.ctxs.find 3).map (·.killed) = some true) = true := by decide
theorem test_ctxresume : ended (exec (.ctxresume 5) (served.call 5 [0xBD00000000, 0])) 0 (fun t => (t.teams.find 1).map (·.run) = some .relaunch) = true := by decide
theorem witness_CallsAndContexts_suspended : let s := { served with teams := served.teams.upd 1 (fun x => { x with run := .parked }), ctxs := [(3, some { pasid := slotPasid, suspended := true })] }
    (s.teams.find 1).map (·.run) ≠ some .trapped ∧ (s.ctxs.find 3).map (·.suspended) = some true ∧ (s.teams.all.find? (fun e => e.2.saveAt = some 0xBD00000000)).isSome := by decide
theorem test_ctxsuspend : ended (exec (.ctxsuspend 5) (served.call 6 [3])) 0 (fun t => (t.ctxs.find 3).map (·.suspended) = some true
    && (t.queues.find queueKey).map (·.suspended) = some true) = true := by decide
theorem witness_CallsAndContexts_scope : ok (((served.works 14 [3, 31, 0x10100]).svcRead (aCall 14 [3, 31, 0x10100]) 0x10100 24)) = true ∧ 8 ≤ 31 ∧ 31 ≤ 31 := by decide

-- DebugAndInformationServices
def info : State := { ending (aTeam .compute) [(1024, some aFrag)] with
  life := .retired, funcs := [(1, some { rid := 1, port := 0, sub := 0, vid := 0x1234, state := 1, bars := [(0x100000000000, 16)] })], peers := [(1023, some 0)] }
/-- The first and the last code of injection; a comparator in each of its modes at the boundary of its address. -/
def debugged (op w1 w2 : Nat) : State := (info.memStore (slotFrame + 0x120) (leBytes 8 (0x100 + op) ++ leBytes 8 w1 ++ leBytes 8 w2 ++ leBytes 8 0)).call 44 [3, 0, 0x10120]
theorem witness_DebugAndInformationServices : injection 0x013 = true ∧ injection 0x0FF = true ∧ (info.teamBy 3 0).map (·.1) = some 1 ∧ info.life ≠ .deployed
    ∧ (aTeam .compute).onCore = true ∧ 0x10120 % 32 = 0
    ∧ (match (debugged 0xF1 0xFFFFFFFFFFFFF8 0).svcRead (aCall 44 [3, 0, 0x10120]) 0x10120 4 with
      | (.ok w, _) => w == [0x1F1, 0xFFFFFFFFFFFFF8, 0, 0]
      | _ => false) = true ∧ 0x1F1 / 256 = 1 ∧ 0x1F1 / 64 % 4 ≠ 0 ∧ 0xFFFFFFFFFFFFF8 % 8 = 0 := by decide
theorem test_faultinject : ended (exec (.faultinject 5) (info.call 43 [3, 0, 0x013])) 0 (fun t => (t.teams.find 1).map (fun x => (x.run, x.trap.code)) = some (.stopped, 0x013)) = true := by decide
theorem test_debug_sets_a_comparator : ended (exec (.svcDebug 5) (debugged 0xF1 0xFFFFFFFFFFFFF8 0)) 0
    (fun t => (t.teams.find 1).map (fun x => x.dbg.cmp) = some [(3, 0xFFFFFFFFFFFFFB)]) = true := by decide
theorem test_debug_budget : ended (exec (.svcDebug 5) (debugged 5 0 0xFFFFFFFF)) 0 (fun t => (t.teams.find 1).map (fun x => x.dbg.budget) = some (some 0xFFFFFFFF)) = true := by decide
/-- Buffers of FUNCINFO, LOGREAD, SERVICEINFO and ATTEST that may be written, the last page of one at its end. -/
def writesAt (num va n : Nat) : Bool := ((info.works num []).svcWrite (aCall num []) va (List.replicate n 0)).1
theorem witness_DebugAndInformationServices_buffers : writesAt 29 0x1FF80 128 = true ∧ info.funcs.find 1 ≠ none ∧ writesAt 45 0x1FFC0 64 = true ∧ info.peers.find 1023 = some 0
    ∧ ok ((info.works 35 []).svcRead (aCall 35 []) 0x10100 4) = true := by decide
theorem test_funcinfo : ended (exec (.funcinfo 5) (info.call 29 [1, 0x1FF80])) 0 (fun t => t.memWord (slotFrame + 0xFF80) = 0xFF0101
    && t.memWord (slotFrame + 0xFF88) = 0x1234 && t.memWord (slotFrame + 0xFF98) = 0x100000000000 && t.memByte (slotFrame + 0xFFC8) = 16) = true := by decide
theorem test_logread_of_an_empty_log : ended (exec (.logread 5) (info.call 45 [1, 0x1FFC0, 4096])) 0 (fun t => t.memWord (slotFrame + 0xFFC0) = 0) = true := by decide
/-- The bounds of POWERALARM (R473). -/
theorem test_poweralarm : ended (exec (.poweralarm 5) (info.call 41 [20000])) 0 (fun t => t.alarmAt = 20000) && ended (exec (.poweralarm 5) (info.call 41 [12000])) 0 (fun t => t.alarmAt = 12000)
    && ended (exec (.poweralarm 5) (info.call 41 [20100])) 0x13A (fun t => t.alarmAt = 18000) = true := by decide
/-- A live update (R482): its check names the services that change; each is switched; it ends with the new version. -/
theorem witness_DebugAndInformationServices_update : info.fwMinimum ≤ 7 ∧ (aCall 42 [0, 0, 0, 0, 0, 7, 0, 3] 1).changed[0]? = some 3
    ∧ (aCall 42 [0, 0, 0, 0, 0, 7, 1, 3] 2).changed.length + 1 = 2
    ∧ ((info.works 42 [0, 0, 0, 0, 0, 7, 1] 2).teams.all.all (fun e => decide (e.2.run = .preempting → e.2.cause ≠ 0x146))) = true := by decide
theorem test_fwupdate_checks : goesTo (exec (.fwupdate 5 { status := 0, result := 7, data := [1, 3] }) (info.call 42 [])) (fun t =>
    (t.calls.find 5).map (fun c => (c.step, c.arg 5, c.arg 6, c.changed)) = some (1, 7, 1, [3])) = true := by decide
theorem test_fwupdate_ends : ended (exec (.fwupdate 5 { status := 0, result := 0, data := [] }) (info.call 42 [0, 0, 0, 0, 0, 7, 0] 1)) 0 (fun t => t.fwVersion = 7) = true := by decide
theorem test_retention_service : goesTo (exec (.retention 5) (info.call 40 [])) (fun t => t.agenda.contains (.retentionEntry 1)) = true := by decide

-- BindingServices: a record at 0x10100 of 65536 slots of 16 bytes, wholly under leases
def leasedSpan : State := { info with ioLeases := [(1, some { pasid := slotPasid, va := 0x100000, bytes := 0x100000, dir := 2 })]
                                      leases := (List.range 16).map (fun i => (slotPasid * 2 ^ 40 + 16 + i, 1)) }
def recorded (cons flw : Nat) : State :=
  leasedSpan.memStore (slotFrame + 0x100) ([0x30000, 0x100000, 0x1000000000004, 0x20018, cons, flw, 1, 0].flatMap (leBytes 8))
theorem witness_BindingServices_dbbind : let u := (recorded 0x20020 1).works 17 [0x10100]
    let c := aCall 17 [0x10100]
    (match u.svcRead c 0x10100 8 with
      | (.ok w, u1) => w == [0x30000, 0x100000, 0x1000000000004, 0x20018, 0x20020, 1, 1, 0] && (match u1.doorbellOk c 0x30000 with
        | (true, u2) => u2.leased slotPasid 0x100000 (65536 * 2 ^ 4) && (match u2.bindCounter 0 slotPasid 0x20018 with
          | (.ok _, u3) => ok (u3.bindCounter 0 slotPasid 0x20020)
          | _ => false)
        | _ => false)
      | _ => false) = true ∧ u.bindings.find 0 = none := by decide
theorem test_dbbind : ended (exec (.dbbind 5) ((recorded 0x20020 1).call 17 [0x10100])) 0 (fun t =>
    (t.bindings.find 0).map (fun b => (b.depth, b.esz, b.follow, b.cons, b.ctr)) = some (65536, 4, true, some (.mem (slotFrame + 0x10020)), memC)) = true := by decide
def unbound : State := { info with
  bindings := [(4095, some { pasid := slotPasid, dbaddr := 0x30000, qbase := 0x100000, depth := 2, esz := 4, ctr := memC, pubVa := 0x20018, follow := true })]
  dws := [(1, some { binding := 4095, tail := 1, who := ⟨16, 0⟩, team := 1, lin := 0, pc := 0x10000 })] }
theorem witness_BindingServices_dbunbind : (unbound.bindings.find 4095).map (fun b => (b.pasid, b.seen == (unbound.followed b).1)) = some (slotPasid, true) := by decide
theorem test_dbunbind : ended (exec (.dbunbind 5) (unbound.call 18 [4095])) 0 (fun t => t.bindings == [] && t.dws == []
    && t.answers.all.map (fun e => e.2.val) == [.trap 0x105]) = true := by decide
theorem witness_BindingServices_msi : ok ((info.works 19 []).bindCounter 0 slotPasid 0x20018) = true ∧ ((info.hub 0).msi.find 0xFFFF) = none ∧ (0x1FFFF : Nat) < 2 ^ 17 := by decide
theorem test_msibind_installs : goesTo (exec (.msibind 5) (info.call 19 [0xFFFF, 0x20018, slotPasid, 2])) (fun t =>
    ((t.hub 0).msi.find 0xFFFF).map (fun b => (b.installing, b.data, b.valid, b.ctr)) = some (true, true, false, memC) && (t.calls.find 5).map (·.step) = some 1) = true := by decide
theorem test_msiunbind : ended (exec (.msiunbind 5) ((info.putHub 1 { info.hub 1 with msi := [(3, some { pasid := slotPasid, ctr := memC, va := 0x20018, data := false })] }).call 20 [1, 3])) 0
    (fun t => (t.hub 1).msi.find 3 == none) = true := by decide
def atsFunc : Func := { rid := 1, port := 0, sub := 0, ats := true, given := [(slotPasid, 1)], state := 1 }
theorem witness_BindingServices_ats : (1 + slotPasid * 2 ^ 0 : Nat) < 2 ^ 23 ∧ ({ info with funcs := [(1, some atsFunc)] } : State).funcs.find 1 = some atsFunc
    ∧ (info.works 28 [] 1).invalOpen (some 5) = false := by decide
theorem test_atsctl : ended (exec (.atsctl 5) ({ info with funcs := [(1, some atsFunc)] }.call 27 [1, 0])) 0 (fun t => (t.funcs.find 1).map (fun f => (f.ats, f.given)) = some (false, [])) = true := by decide
theorem test_atsinval_waits : goesTo (exec (.atsinval 5) ({ info with funcs := [(1, some atsFunc)] }.call 28 [1, slotPasid, 0x10000, 0x1000000])) (fun t =>
    (t.calls.find 5).map (·.step) = some 1 && t.invalOpen (some 5)) = true := by decide
-- PagingServices: the page at 0x50000 is absent; a range of one page, and the last page of the address space -----------------------
def freeFrame : Nat := 0x20000000
theorem witness_PagingServices_range : let va := 0xFFFFFFFFFF0000
    (dev.works 9 [slotPasid, 0xFFFFFFFFFF0000, 0x10000, 7]).ranged (aCall 9 [slotPasid, 0xFFFFFFFFFF0000, 0x10000, 7]) va 1 :=
  ⟨by decide, by decide, by decide, by decide, by decide, by decide, by decide⟩
def brings (s : State) (va frame : Nat) : Bool := (s.bringPage 0 slotPasid va frame none).1 == .done
theorem witness_PagingServices_bring : brings (dev.works 7 [slotPasid, 0x50000, 0x10000]) 0x50000 freeFrame = true ∧ 0 + 1 = 1
    ∧ brings dev 0x10000 0 = true := by decide
theorem test_pagereq : ended (exec (.pagereq 5 freeFrame) (dev.call 7 [slotPasid, 0x50000, 0x10000])) 0x100000000 (fun t =>
    (t.memWord (slotRoot + 0x40028)).toNat = freeFrame + 0x107) = true := by decide
/-- A page that may be paged out, and one that is passed over. -/
theorem witness_PagingServices_pageout : (dev.works 8 [slotPasid, 0x10000, 0x10000]).migrating slotPasid 0x10000 1 = false ∧ (dev.splitRuns 0 slotPasid 0x10000 1).skipped 0 slotPasid 0x10000 = false
    ∧ (dev.splitRuns 0 slotPasid 0x30000 1).skipped 0 slotPasid 0x30000 = true := by decide
theorem test_pageout_passes_over_mmio : ended (exec (.pageout 5) (dev.call 8 [slotPasid, 0x30000, 0x10000])) 0 (fun t => t.backing == []) = true := by decide
/-- The block's own page is saved: its words are at the place of the backing. -/
theorem test_pageout : goesTo (exec (.pageout 5) ((dev.memStore (slotFrame + 0x99) [7]).call 8 [slotPasid, 0x10000, 0x10000])) (fun t =>
    t.memByte (backingAt slotPasid 1 + 0x99) = 7 && t.memByte (slotFrame + 0x99) = 0 && !pteP (t.memWord (slotRoot + 0x40008))) = true := by decide
theorem witness_PagingServices_map : let u := dev.works 9 [slotPasid, 0x60000, 0x10000, 7]
    u.templateBad 7 1 = false ∧ dirRoot (u.dirEntry 0 slotPasid) ≠ 0 ∧ (u.slotOf 0 slotPasid 0x60000).map (fun a => pteV (u.memWord a.1)) = some false
      ∧ pteP 7 = false ∧ u.framesOk (roundUp freeFrame 0x40000) (0x40000 * (4 + 1 / 0x8000)) 0 0x10000 = true := by decide
theorem test_map : ended (exec (.map 5 freeFrame) (dev.call 9 [slotPasid, 0x60000, 0x10000, 0x107])) 0x100000000 (fun t =>
    (t.memWord (slotRoot + 0x40030)).toNat = freeFrame + 0x107) = true := by decide
theorem witness_PagingServices_quiet : (∀ e ∈ (dev.works 10 [slotPasid, 0x50000, 0x10000]).funcs.all, e.2.given = []) ∧ (∀ k, (dev.works 10 [slotPasid, 0x50000, 0x10000]).invalOpen k = false)
    ∧ (dev.works 10 []).leasedAny slotPasid 0x50000 1 = false ∧ (dev.works 10 []).migrating slotPasid 0x50000 1 = false
    ∧ ((dev.splitRuns 0 slotPasid 0x50000 1).slotOf 0 slotPasid 0x50000) = some (slotRoot + 0x40028, 1) ∧ pteV ((dev.splitRuns 0 slotPasid 0x50000 1).memWord (slotRoot + 0x40028)) = true ∧ pteP ((dev.splitRuns 0 slotPasid 0x50000 1).memWord (slotRoot + 0x40028)) = false
    ∧ (14 : Word) &&& 14 = 14 ∧ (0 : Word) &&& 14 = 0 := ⟨by decide, fun _ => rfl, by decide⟩
theorem test_unmap : ended (exec (.unmap 5) (dev.call 10 [slotPasid, 0x50000, 0x10000])) 0 (fun t => t.memWord (slotRoot + 0x40028) = 0) = true := by decide
theorem test_protect : ended (exec (.protect 5) (dev.call 11 [slotPasid, 0x50000, 0x10000, 8])) 0 (fun t => t.memWord (slotRoot + 0x40028) = 9) = true := by decide
/-- A leaf of a run loses C when the run is changed in part. -/
theorem test_protect_splits_a_run : ended (exec (.protect 5) ((dev.memStore (slotRoot + 0x40030) (leBytes 8 0x47)).call 11 [slotPasid, 0x50000, 0x10000, 8])) 0
    (fun t => t.memWord (slotRoot + 0x40030) = 7 && t.memWord (slotRoot + 0x40028) = 9) = true := by decide
theorem witness_PagingServices_migrate : let u := dev.works 12 [slotPasid, 0x10000, 0x10000, 0]
    u.tierThere 0 = true ∧ (match u.migrateRange 0 slotPasid 0x10000 0 freeFrame 0 (List.range 1) with
      | some (k, v) => k == 1 && !v.migrating slotPasid 0x10000 1
      | none => false) = true := by decide
/-- The block of the call lies on the page that moves. -/
theorem test_migrate : goesTo (exec (.migrate 5 freeFrame) (dev.call 12 [slotPasid, 0x10000, 0x10000, 0])) (fun t =>
    t.memWord (freeFrame + 0x50) = 0x100000000 && (t.memWord (slotRoot + 0x40008)).toNat = freeFrame + 0x12F) = true := by decide
theorem witness_PagingServices_iolease : (dev.works 15 [slotPasid, 0x50000, 0x10000, 2]).leaseCount slotPasid 0x50000 < 65535
    ∧ (dev.works 15 []).migrating slotPasid 0x50000 1 = false := by decide
theorem test_iolease : ended (exec (.iolease 5) (dev.call 15 [slotPasid, 0x50000, 0x10000, 2])) 0x100000000 (fun t =>
    t.ioLeases.find 1 = some { pasid := slotPasid, va := 0x50000, bytes := 0x10000, dir := 2 }) = true := by decide
def fault5 : Call := { aCall 0 [] with num := faultCall, block := 0x50000 }
theorem witness_PagingServices_fault : ({ dev with calls := [(5, some fault5)] } : State).calls.find 5 = some fault5
    ∧ brings { dev with calls := [(5, some fault5)] } 0x50000 freeFrame = true := by decide
theorem witness_PagingServices_harvest : let u := dev.works 13 [slotPasid, 0x10000, 1, 0x10100]
    u.pasidBad 0 slotPasid = false ∧ u.migrating slotPasid 0x10000 1 = false
      ∧ ok (u.harvest { place := .hub 0, pasid := slotPasid } 0 slotPasid 0x10000 0x10100 false 1 0 0 (1 / 8 + 1)) = true := by decide
def leased5 : State := { dev with ioLeases := [(7, some { pasid := slotPasid, va := 0x40000, bytes := 0x10000, dir := 2 })] }
theorem witness_PagingServices_iorelease : (leased5.works 16 [7]).ioLeases.find 7 ≠ none
    ∧ ((leased5.works 16 [7]).invalRange slotPasid 0x40000 1 (some 5)).invalOpen (some 5) = false
    ∧ (({ leased5 with funcs := [(1, some { rid := 1, port := 0, sub := 0, given := [(slotPasid, 4)] })] }.works 16 [7]).invalRange slotPasid 0x40000 1 (some 5)).invalOpen (some 5) = true := by
  decide
theorem test_iorelease : ended (exec (.iorelease 5) (leased5.call 16 [7])) 0 (fun t => t.ioLeases == [] && pteType (t.memWord (slotRoot + 0x40020)) == 0) = true := by decide
theorem witness_PagingServices_tme : (dev.moveUnit (dev.hubFor slotPasid) slotPasid 0x1FFFF).map (fun x => (x.1, x.2.1, x.2.2.1, x.2.2.2.getLsbD 4)) = some (0x10000, slotFrame, 1, false)
    ∧ dev.movable slotFrame 1 freeFrame 0 = true := by decide
theorem witness_PagingServices_clear : dev.Inv ∧ tierOf slotFrame ≠ none ∧ dev.installed slotFrame = true ∧ dev.unwiped (0x80000 * 0x200000) = true ∧ dev.wipeHeld = []
    ∧ dev.poison = [] ∧ dev.frameNamed slotDir = false ∧ dev.frameNamed slotFrame = true :=
  ⟨⟨by decide, by decide, by decide⟩, by decide, by decide, by decide, rfl, rfl, by decide, by decide⟩
theorem test_page_clear : goesTo (exec (.pageClear (slotDir + 0xFFFF)) dev) (fun t => t.mem.all (fun e => e.1 < slotDir || slotDir + 0x10000 ≤ e.1)) = true := by decide
theorem test_wipe : goesTo (exec (.wipeRegionClear 0x80000) { dev with wipeHeld := [{ pa := 0x10000000004, data := [9] }] }) (fun t => t.memByte 0x10000000004 = 9 && t.wipeHeld == []
    && !t.unwiped 0x10000000000) = true := by decide

-- DriverServices: a bound function with a queue of each kind, and records at 0x10100
def nvmeFunc : Func := { rid := 1, port := 0, sub := 0, state := 1, filters := [9], queues :=
  [{ id := 4, kind := 3, ctx := 3, pasid := slotPasid }, { id := 5, kind := 1, ctx := 3, pasid := slotPasid }, { id := 6, kind := 2, ctx := 3, pasid := slotPasid }] }
def driven (w : List Nat) : State := { leasedSpan.memStore (slotFrame + 0x100) (w.flatMap (leBytes 8)) with funcs := [(1, some nvmeFunc)] }
/-- The command of the call is outstanding. -/
def waitingFor (s : State) (kind : Nat) : State :=
  { s with reqs := [(8, some { kind := .driver 1 kind (some 5), sub := 0, addr := 1, since := 0, team := 1, pc := 0, va := 0 })] }
theorem witness_DriverServices : let u := (driven []).works 21 [1, 0x10100]
    u.funcs.find 1 = some nvmeFunc ∧ nvmeFunc.state = 1 ∧ 0x10100 % 64 = 0
      ∧ (match u.svcRead (aCall 21 [1, 0x10100]) 0x10100 10 with
        | (.ok _, v) => ok (v.svcCheck { place := .hub 0, pasid := slotPasid } 0x10100 10)
        | _ => false) = true
      ∧ (waitingFor ((driven []).works 21 [1, 0x10100] 1) 0x134).driverOpen 5 = true
      ∧ (((waitingFor ((driven []).works 21 [1, 0x10100] 1) 0x134).driverDone 5).svcWrite (aCall 21 [1, 0x10100] 1) 0x10140 (List.replicate 16 0)).1 = true := by decide
def pairRec : List Nat := [0x100000, 0x110000, 0x1000000010001, 0x3FFFF]
theorem witness_DriverServices_queues : let u := (driven pairRec).works 22 [1, 0x10100]
    (match u.svcRead (aCall 22 [1, 0x10100]) 0x10100 8 with
      | (.ok w, v) => w == [0x100000, 0x110000, 0x1000000010001, 0x3FFFF, 0, 0, 0, 0] && v.leasedFor slotPasid 0x100000 128 false && v.leasedFor slotPasid 0x110000 32 true
          && ok (v.svcCheck { place := .hub 0, pasid := slotPasid } 0x10100 8)
      | _ => false) = true
      ∧ (nvmeFunc.queues.find? (fun q => q.kind = 3 && q.id = 4)).isSome = true ∧ (nvmeFunc.queues.find? (fun q => q.kind < 3 && q.id = 6)).isSome = true
      ∧ (∀ x ∈ nvmeFunc.queues, x.kind < 2 → x.cq ≠ 6) := by decide
/-- A receive queue of 65536 entries of 16 bytes for completion queue 6; a filter to receive queue 5. -/
theorem witness_DriverServices_nic : (driven []).nicqBad (aCall 24 [1, 0x10100]) nvmeFunc [1 + 4 * 2 ^ 8 + 2 ^ 16 + 6 * 2 ^ 32, 0x100000, 65536, 0, 0, 0, 0, 0] = false
    ∧ (∃ q ∈ nvmeFunc.queues, q.kind = 1 ∧ q.id = 5) ∧ 9 ∈ nvmeFunc.filters := by decide
theorem test_nvmeqdel_sends : goesTo (exec (.nvmeqdel 5 { status := 0, result := 0, data := [] }) ((driven []).call 23 [1, 4])) (fun t => (t.calls.find 5).map (·.step) = some 1
    && t.driverOpen 5) = true := by decide
theorem test_nvmeqdel_answered : ended (exec (.nvmeqdel 5 { status := 0, result := 0, data := [] }) (waitingFor ((driven []).call 23 [1, 4] 1) 0x134)) 0 (fun t =>
    (t.funcs.find 1).map (fun f => f.queues.map (·.id)) = some [5, 6]) = true := by decide
theorem test_nvmeqdel_failed : ended (exec (.nvmeqdel 5 { status := 0x13D, result := 3, data := [] }) (waitingFor ((driven []).call 23 [1, 4] 1) 0x134)) 0x30000013D (fun t =>
    (t.funcs.find 1).map (fun f => f.queues.length) = some 3) = true := by decide
theorem test_nicfilter_answered : ended (exec (.nicfilter 5 { status := 0, result := 12, data := [] }) (waitingFor ((driven []).call 26 [1, 0x10100, 0, 0, 0, BitVec.ofNat 64 (1 + 5 * 2 ^ 16 + 0xFFFF * 2 ^ 32 + 2 ^ 48)] 1) 0x136))
    0xC00000000 (fun t => (t.funcs.find 1).map (·.filters) = some [9, 12]) = true := by decide

-- LinkServices: an NTB whose port has one sub-link, and a CXL sub-link
def linked (ntbUp : Bool) : State := { info with
  subs := [(0, some { mode := 1, up := ntbUp, ide := false, streams := [(64, some { keyed := true })] }), (8, some { mode := 2, up := true, reported := 0x30000000000 })], peers := [] }
/-- Window 63, that ends at the end of the sub-link's part. -/
def windowed (f0 : Nat) : State := ((linked true).memStore (slotFrame + 0x100) ([f0, 0xFFFFFF0000, 0x10000, 0x30000].flatMap (leBytes 8))).call 30 [0, 63, 0x10100]
theorem witness_LinkServices_window : (windowed 0x101).subArg 0 = some 0 ∧ ((windowed 0x101).sub 0).mode = 1 ∧ 63 < 128
    ∧ (match (windowed 0x101).svcRead (aCall 30 [0, 63, 0x10100]) 0x10100 4 with
      | (.ok w, v) => w == [0x101, 0xFFFFFF0000, 0x10000, 0x30000] && (v.sub 0).wins == [] && (v.sub 0).parts == 1
      | _ => false) = true ∧ 0xFFFFFF0000 + 0x10000 ≤ 0x10000000000 / 1 := by decide
theorem test_ntbwindow : ended (exec (.ntbwindow 5) (windowed 0x103)) 0 (fun t => ((t.sub 0).wins.find 63).map (fun w => (w.ctr, w.off, w.size, w.tgt, w.inbound))
    = some (true, 0xFFFFFF0000, 0x10000, 0x30000, false)) = true := by decide
def good : Answer := { status := 0, result := 0, data := [] }
theorem witness_LinkServices_peer : ((linked true).works 31 [0, 1023]).peers.find 1023 = none ∧ ((linked true).sub 0).up = true ∧ good.status = 0
    ∧ ({ linked true with peers := [(1023, some 0)] } : State).peers.find 1023 = some 0 ∧ ((linked true).sub 0).streams.find 64 = some { keyed := true } := by decide
theorem test_peerattach : ended (exec (.peerattach 5 good) ((linked true).call 31 [0, 1023])) 0 (fun t => t.peers.find 1023 = some 0 && (t.sub 0).session = 1) = true := by decide
theorem test_peerattach_down : ended (exec (.peerattach 5 good) ((linked false).call 31 [0, 1023])) 0x124 (fun t => t.peers == []) = true := by decide
theorem test_iderefresh_starts : goesTo (exec (.iderefresh 5 good) ((linked true).call 33 [0, 64])) (fun t => ((t.sub 0).streams.find 64).map (·.refreshing) = some (some 1000000)) = true := by decide
theorem witness_LinkServices_spdm : (((linked true).works 34 [1, 0x10100]).svcWrite (aCall 34 [1, 0x10100]) 0x10100 ([1, 2, 3] ++ List.replicate ((8 - 3 % 8) % 8) 0)).1 = true
    ∧ (linked true).funcs.find 1 ≠ none := by decide
theorem test_spdmmeasure : ended (exec (.spdmmeasure 5 { status := 0, result := 0, data := [1, 2, 3] }) ((linked true).call 34 [1, 0x10100])) 0x300000000 (fun t =>
    t.memWord (slotFrame + 0x100) = 0x030201) = true := by decide
theorem test_portreset : goesTo (exec (.portreset 5 good) ((linked true).call 38 [0])) (fun t => (t.sub 0).up = false)
    && ended (exec (.portreset 5 good) ((linked false).call 38 [0] 1)) 0 (fun t => (t.sub 0).up) = true := by decide
theorem test_flr : goesTo (exec (.flr 5 good) ((linked true).call 39 [1])) (fun t => (t.funcs.find 1).map (·.state) = some 2) = true := by decide
theorem witness_LinkServices_cxl : ((linked true).works 36 [1]).subArg 1 = some 8 ∧ ((linked true).sub 8).mode = 2
    ∧ (match ((linked true).works 37 [1]).moveOut freeFrame (((linked true).works 37 [1]).residentIn ((linked true).cxlStart 8) 0) with
      | some v => v.migrations == []
      | none => false) = true := by decide
theorem test_cxlonline : ended (exec (.cxlonline 5 good) ((linked true).call 36 [1])) 0 (fun t => (t.sub 8).cxlBytes = 0x20000000000) = true := by decide
theorem test_cxloffline : ended (exec (.cxloffline 5 freeFrame good) ((linked true).call 37 [1])) 0 (fun t => (t.sub 8).cxlBytes = 0) = true := by decide

-- DoorbellsAndInterrupts: a binding whose PUB has moved, an accepted DBW, and messages for each kind of binding
def bell (flw : Bool) (cons : Option Ctr) : Binding :=
  { pasid := slotPasid, dbaddr := 0x30004, qbase := 0x100000, depth := 16, esz := 6, ctr := memC, pubVa := 0x20018, cons := cons, follow := flw }
def aDw (sent : Bool) : Dw := { binding := 0, tail := 15, who := ⟨16, 0⟩, team := 1, lin := 0, pc := 0x10000, sent := sent }
def belled (flw : Bool) (cons : Option Ctr) (sent : Bool) : State :=
  { info.memStore (slotFrame + 0x10018) [15] with bindings := [(0, some (bell flw cons))], dws := [(1, some (aDw sent))], subs := [(0, some { up := true })] }
def consC : Ctr := .mem (slotFrame + 0x10020)
theorem witness_DoorbellsAndInterrupts : let s := belled true (some consC) false
    s.dws.find 1 = some (aDw false) ∧ s.bindings.find 0 = some (bell true (some consC)) ∧ s.settled = true
      ∧ (∀ e ∈ s.dws.all, e.1 < 1 → e.2.binding = 0 → e.2.sent = true)
      ∧ (match s.xlate (.hub 0) slotPasid 0x30004 pteW with
        | (.page e, v) => pteType e.pte == 2 && pteW e.pte && (v.mmioRoute (e.pa 0x30004) matches .ok _)
        | _ => false) = true
      ∧ s.ctrGet memC = 15 ∧ (s.ctrGet memC - (s.ctrGet consC + BitVec.ofNat 64 15) - 1).toNat ≥ 2 ^ 63 ∧ (15 : Word) ≠ (bell true none).seen ∧ (bell true none).last ≠ some 15 := by decide
theorem test_doorbell_write : goesTo (exec (.doorbellWrite 1) (belled false none false)) (fun t => t.sent.map (fun x => (x.sub, x.addr, x.data)) = [(0, 0x100000000004, some [15, 0, 0, 0])]
    && (t.bindings.find 0).map (·.last) = some (some 15)) = true := by decide
theorem test_dbp_follows : goesTo (exec (.dbpFollow 0) (belled true (some consC) true)) (fun t => t.sent.map (·.data) = [some [15, 0, 0, 0]]) = true := by decide
/-- PUB one past CONS + DEPTH − 1: the tail stays at the limit, and 0x107 is logged. -/
theorem test_dbp_overrun : goesTo (exec (.dbpFollow 0) ((belled true (some consC) true).memStore (slotFrame + 0x10018) [16])) (fun t => t.sent.map (·.data) = [some [15, 0, 0, 0]]
    && (t.bindings.find 0).map (·.overrunLogged) = some true) = true := by decide
theorem test_aer : goesTo (exec (.aerErrorReport 1) (belled false none true)) (fun t => t.dws == [] && t.answers.all.map (fun e => e.2.val) == [.trap 0x104]) = true := by decide
def msiOf (installing data : Bool) : MsiBind := { pasid := slotPasid, ctr := memC, va := 0x20018, data := data, installing := installing }
def msiState (b : MsiBind) : State := info.putHub 0 { info.hub 0 with msi := [(65535, some b)] }
theorem witness_DoorbellsAndInterrupts_msi : (info.hub 0).msi.find 65535 = none ∧ info.converterLoad 0 < 1024 ∧ ((msiState (msiOf false true)).hub 0).msi.find 65535 = some (msiOf false true)
    ∧ (msiState (msiOf false true)).deadPasid slotPasid = false ∧ ok ((msiState (msiOf false true)).hubOperand 0 slotPasid (.add false) 0x20018) = true ∧ 0xFFFFFFFF < 2 ^ 32 := by decide
theorem test_msi_adds_its_data : goesTo (exec (.msiWrite (0x1FF000000000 + 4 * 65535) 8 0xFFFFFFFF) (msiState (msiOf false true))) (fun t => t.ops.all.map (fun e => e.2.act) == [.add 0xFFFFFFFF])
    && goesTo (exec (.msiWrite (0x1FF000000000 + 4 * 65535) 4 0xFFFFFFFF) (msiState (msiOf false false))) (fun t => t.ops.all.map (fun e => e.2.act) == [.add 1]) = true := by decide
theorem test_msi_is_held : goesTo (exec (.msiWrite (0x1FF000000000 + 4 * 65535) 4 7) (msiState (msiOf true true))) (fun t => (t.hub 0).msiHeld = [(65535, 4, 7)] && t.ops == []) = true := by decide
-- InboundRequests: a function that may issue requests, and a leased IOPIN page at 0x40000
def epFunc : Func := { rid := 1, port := 0, sub := 0, master := true, ats := true, pri := true, pasids := [slotPasid], pageReqs := 63, state := 1 }
def ep (dir : Nat := 2) : State := { info with
  subs := [(0, some { up := true })], funcs := [(1, some epFunc)], ioLeases := [(7, some { pasid := slotPasid, va := 0x40000, bytes := 0x10000, dir := dir })] }
theorem witness_InboundRequests : (ep).issues 1 epFunc ∧ epFunc.bound slotPasid = true
    ∧ (match (ep).xlate (.ta 0) slotPasid 0x4FFFF (fun _ => true) with
      | (.page e, v) => pteType e.pte == 3 && e.size == 1 && e.vpn == 4 && pteR e.pte && v.leaseAllows slotPasid 0x4FFFF true
      | _ => false) = true ∧ (ep).ioLeasesOf slotPasid 0x4FFFF ≠ [] := ⟨⟨by decide, by decide, by decide, by decide⟩, by decide, by decide, by decide⟩
/-- A translation that may only be read where the lease's direction is TO_DEVICE. -/
theorem test_ats_translation : goesTo (exec (.atsTranslationRequest 1 slotPasid 0x4FFFF false) (ep 0)) (fun t => t.sent.map (fun x => x.data)
    = [some (leBytes 8 (slotFrame + 0x20000 + 1) ++ leBytes 8 1)] && (t.funcs.find 1).map (·.given) = some [(slotPasid, 4)]) = true := by decide
theorem witness_InboundRequests_page : epFunc.pri = true ∧ epFunc.pageReqs < 64 ∧ ((ep).memWord ((ep).hub 0).prqCtr.toNat - (ep).memWord (((ep).hub 0).prqCtr.toNat + 8)).toNat ≠ 4096
    ∧ (ep).settled = true := by decide
theorem test_page_request : goesTo (exec (.pageRequest 1 slotPasid 0x40000 511 false true true) (ep)) (fun t => (t.funcs.find 1).map (·.pageReqs) = some 64
    && ((t.hub 0).prq).map (fun q => (q.prg, q.va)) = [(511, 0x40000)] && t.memWord 0xBFFFD00000 = 1) = true := by decide
/-- A write and a read at the end of the page, and a write that the lease does not allow; the sub-link is a root port. -/
theorem witness_InboundRequests_dma : ((ep).sub (fnSub 1)).mode ≠ 1 ∧ epFunc.refuse = false ∧ 0x4FFFF % 0x10000 + [(9 : Byte)].length ≤ 0x10000
    ∧ ((ep).inbound 0 slotPasid 0x4FFFF true true).1 = .mem (slotFrame + 0x2FFFF) ∧ ((ep).inbound 0 slotPasid 0x4FFFF false true).1 = .mem (slotFrame + 0x2FFFF)
    ∧ ((ep 0).inbound 0 slotPasid 0x4FFFF true true).1 = .refuse 0x04D := by decide
theorem test_dma_write : goesTo (exec (.inboundDma 1 slotPasid 0x4FFFF true [9]) (ep)) (fun t => t.memByte (slotFrame + 0x2FFFF) = 9
    && Cells.get false t.grants ((slotFrame + 0x20000) / 0x10000)) = true := by decide
theorem test_dma_read : goesTo (exec (.inboundDma 1 slotPasid 0x40000 false [0, 0]) ((ep).memStore (slotFrame + 0x20000) [5, 6])) (fun t => t.sent.map (fun x => (x.addr, x.data)) = [(1, some [5, 6])]) = true := by decide
/-- A write that crosses a granule, as steps of their own (log 129); a translation of more pages than the lease covers. -/
theorem witness_InboundRequests_torn : (({ (ep) with tear := [true] } : State).tears true).1 = true
    ∧ goesTo (exec (.inboundDma 1 slotPasid 0x4000F true [8, 9]) { (ep) with tear := [true] }) (fun t => t.torn.all.map (fun e => e.2.todo.keys) = [[0, 1]]
      && t.memByte (slotFrame + 0x2000F) = 0) = true := by decide
theorem test_dma_write_refused : goesTo (exec (.inboundDma 1 slotPasid 0x4FFFF true [9]) (ep 0)) (fun t => t.memByte (slotFrame + 0x2FFFF) = 0) = true := by decide
theorem witness_InboundRequests_counter : ((ep).inbound ((ep).hubFor slotPasid) slotPasid 0x20018 true false).1 = .ctr (slotFrame + 0x10018)
    ∧ 0x20018 % 8 = 0 ∧ (slotFrame + 0x10018) % 8 = 0 ∧ 0xFFFFFFFF < 2 ^ 32 := by decide
theorem test_inbound_counter_write : goesTo (exec (.inboundCounterWrite slotPasid 0x20018 4 0xFFFFFFFF) (ep)) (fun t => t.ops.all.map (fun e => (e.2.ctr, e.2.act)) == [(memC, .add 0xFFFFFFFF)]) = true := by decide
theorem test_inbound_fetchadd : goesTo (exec (.inboundFetchadd slotPasid 0x20018 8 0xFFFFFFFF true) (ep)) (fun t => t.ops.all.map (fun e => (e.2.act, e.2.who)) == [(.add 0xFFFFFFFF, .port 0 true)])
    && goesTo (exec (.inboundFetchadd slotPasid 0x20018 8 0x100000000 true) (ep)) (fun t => t.ops == [] && t.sent.map (·.refused) = [true])
    && goesTo (exec (.inboundFetchadd slotPasid 0x20018 4 1 true) (ep)) (fun t => t.ops == []) = true := by decide

-- CompletionsAndLinks: a request of each kind, 2 s old; a sub-link, a peer, a stream and a quarantined range
def reqOf (k : ReqKind) : Req := { kind := k, sub := 0, addr := 1, since := 0, team := 1, pc := 0x10000, va := 0x30000 }
def ntbSub : Sub := { mode := 1, up := true, wins := [(64, some { inbound := true, off := 0, size := 0x10000, tgt := 0 })]
                      streams := [(0, some { keyed := true, refreshing := some 1 })] }
def asking (k : ReqKind) (g : Group := {}) : State := { ending (aTeam .compute) [(1024, some waitingC)] with
  groups := [(16, some g)]
  clock := 30000000 * 700
  reqs := [(8, some (reqOf k))]
  subs := [(0, some ntbSub)]
  peers := [(2, some 0)]
  quarantine := [(3, some { ctx := 3, pasid := slotPasid, pages := [(0x10000, slotFrame)] })]
  funcs := [(1, some { rid := 1, port := 0, sub := 0, state := 1 })] }
theorem witness_CompletionsAndLinks : (asking (.fetchAdd (anOp (.peer 0x30000) (.add 1)))).reqs.find 8 = some (reqOf (.fetchAdd (anOp (.peer 0x30000) (.add 1))))
    ∧ (asking (.cfgWrite 16 0)).reqs.find 8 = some (reqOf (.cfgWrite 16 0)) ∧ (asking (.atsInv (some ⟨16, 0⟩) 1 none)).reqs.find 8 = some (reqOf (.atsInv (some ⟨16, 0⟩) 1 none))
    ∧ (asking (.atsInv none 1 (some 5))).reqs.find 8 = some (reqOf (.atsInv none 1 (some 5))) ∧ (reqOf (.cfgWrite 16 0)).since + 50000 * 700 ≤ (asking (.cfgWrite 16 0)).clock
    ∧ 0 + 10000 * 700 ≤ (asking (.cfgWrite 16 0)).clock ∧ 0 + 30000000 * 700 ≤ (asking (.cfgWrite 16 0)).clock := by decide
theorem test_fetchadd_completion : goesTo (exec (.peerFetchaddCompletion 8 none 41) (asking (.fetchAdd (anOp (.peer 0x30000) (.add 1))))) (fun t => t.reqs == []
    && t.answers.all.map (fun e => e.2.val) == [.value 41]) = true := by decide
/-- The errors of a FetchAdd: a translation failure at the peer is 0x126, any other 0x122 (R463). -/
theorem test_fetchadd_error : let o : CtrOp := { anOp (.peer 0x30000) (.add 1) with pend := some 1 }
    let g : Group := { pends := [(1, some { regs := [.s 4], need := 1 })] }
    goesTo (exec (.peerFetchaddCompletion 8 (some 6) 0) (asking (.fetchAdd o) g)) (fun t => (t.teams.find 1).map (fun x => (x.trap.code, x.trap.va)) = some (0x126, 0x20018))
      && goesTo (exec (.peerFetchaddCompletion 8 (some 5) 0) (asking (.fetchAdd o) g)) (fun t => (t.teams.find 1).map (fun x => x.trap.code) = some 0x122) = true := by decide
theorem test_configuration_write_completes : goesTo (exec (.configurationWriteCompletion 8 none) (asking (.cfgWrite 16 0))) (fun t => (t.frags.find 1024).map (·.st) = some .active && t.reqs == []) = true := by decide
theorem test_request_timeout : goesTo (exec (.requestTimeout 8) (asking (.cfgWrite 16 0))) (fun t => (t.teams.find 1).map (fun x => (x.trap.code, x.trap.va)) = some (0x132, 0x30000)) = true := by decide
theorem test_late_abort_resets_the_function : goesTo (exec (.requestTimeout 8) (asking (.driver 1 0x135 none))) (fun t => (t.funcs.find 1).map (·.state) = some 2 && t.reqs == []) = true := by decide
theorem witness_CompletionsAndLinks_links : let s := asking (.cfgWrite 16 0)
    (s.subs.find 0).map (·.up) = some true ∧ s.peers.find 2 = some 0 ∧ (s.sub 0).streams.find 0 = some { keyed := true, refreshing := some 1 } ∧ 1 + 7000000 ≤ s.clock
      ∧ s.quarantine.find 3 = some { ctx := 3, pasid := slotPasid, pages := [(0x10000, slotFrame)] } ∧ s.invalOpen none = false := by decide
theorem witness_CompletionsAndLinks_inv : (asking (.cfgWrite 16 0)).Inv := ⟨by decide, by decide, by decide⟩
theorem test_link_down : goesTo (exec (.linkDown 0) (asking (.cfgWrite 16 0))) (fun t => (t.sub 0).up = false && t.reqs == [] && (t.teams.find 1).map (fun x => x.trap.code) = some 0x124) = true := by decide
theorem test_peer_reset : goesTo (exec (.peerReset 2 false) (asking (.cfgWrite 16 0))) (fun t => (t.sub 0).wins == [] && (t.sub 0).up && (t.teams.find 1).map (fun x => x.trap.code) = some 0x125) = true := by decide
theorem test_ide_failure : goesTo (exec (.ideIntegrityFailure 0 0 false) (asking (.cfgWrite 16 0))) (fun t => ((t.sub 0).streams.find 0).map (·.insecure) = some true) = true := by decide
theorem test_ide_refresh_timeout : goesTo (exec (.ideRefreshTimeout 0 0) (asking (.cfgWrite 16 0))) (fun t => ((t.sub 0).streams.find 0).map (·.refreshing) = some none) = true := by decide
theorem test_quarantine_seal : goesTo (exec (.quarantineSeal 3) ((asking (.cfgWrite 16 0)).memStore (slotFrame + 0xFFFF) [9])) (fun t => t.memByte (slotFrame + 0xFFFF) = 0
    && (t.quarantine.find 3).map (·.sealed) = some true) = true := by decide

-- PowerAndReset
theorem witness_PowerAndReset : State.reset.power = .running ∧ State.reset.awakeTeams = [] ∧ (∀ e ∈ State.reset.teams.all, e.2.kind ≠ .prologue) ∧ State.reset.migrations = []
    ∧ (9 : Nat) < 10 ∧ State.reset.life = .manufacture ∧ ({ dev with power := .resuming 3 } : State).power = .resuming 3 := by decide
theorem test_power_alarm : goesTo (exec (.powerAlarmRaise 18000) dev) (fun t => t.alarm = false) && goesTo (exec (.powerAlarmRaise 18001) dev) (fun t => t.alarm) = true := by decide
theorem test_retention_entry : goesTo (exec (.retentionEntry 2) cached) (fun t => t.power = .entering 0x152)
    && goesTo (exec (.retentionEntry 2) { cached with teams := [], groups := [], frags := [] }) (fun t => t.power = .retention && (t.core coreOf).l1 == [] && t.memByte (slotFrame + 63) = 9) = true := by decide
theorem test_resume : goesTo (exec (.resume [] false) { dev with power := .retention }) (fun t => t.power = .resuming 1)
    && goesTo (exec (.resume [] false) { dev with power := .resuming 3 }) (fun t => t.power = .running) = true := by decide
/-- Memory that does not leave self-refresh ends in a reset (R477). -/
theorem test_resume_abandoned : goesTo (exec (.resume [] true) { dev with power := .retention }) (fun t => t.mem == [] && t.clock = 0 && t.events = [0x156, 0x157, 0x17D]) = true := by decide
theorem test_thermal_trip : goesTo (exec (.thermalTrip 9) dev) (fun t => t.thermtrip = false) && goesTo (exec (.thermalTrip 10) dev) (fun t => t.thermtrip) = true := by decide
theorem test_reset : goesTo (exec (.reset .powerOn .flash) { dev with power := .off, alarmAt := 12000 }) (fun t => t.mem == [] && t.power = .running && t.alarmAt = 18000) = true := by decide
theorem test_life_cycle : goesTo (exec (.lifeCycleChange .provisioned true) dev) (fun t => t.life = .provisioned && t.mem == [])
    && goesTo (exec (.lifeCycleChange .deployed true) dev) (fun t => t.life = .manufacture && t.mem == dev.mem) = true := by decide
theorem test_supplies_off : goesTo (exec .supplyRemoval dev) (fun t => t.power = .off && t.mem == [] && (step t matches .fault .unpowered)) = true := by decide

end Sys2Proof.Machine
end

section
/-! SUPPORT. Laws of the control words: where control goes (R41, R162), what a link holds (R168, R169), and what a trap saves (R414, R424). -/

namespace Sys2Proof.Machine

-- Transfers of control ------------------------------------------------------------------------------------------------

/-- The target of a relative form counts words from the word itself (R162). -/
theorem Now.target_eq {w : Nat} (n : Now) (disp : BitVec w) : n.target disp = n.f.pc + BitVec.ofInt 64 (8 * disp.toInt) := by
  rw [BitVec.ofInt_mul]
  rfl

theorem State.checkTarget_of_reaches {s s' : State} {n : Now} {t : Word} (h : s.reaches n t s') : s.checkTarget n t = (none, s') := by
  obtain ⟨haligned, hbelow, w, hfetch, hext⟩ := h
  unfold State.checkTarget
  rw [if_neg (not_not_intro haligned), if_neg (Nat.not_le.2 hbelow), hfetch]
  simp only [if_neg hext]

/-- A control word that writes registers opens one pending result and leaves the rest to the transfer. -/
theorem State.opens6_of_ne_nil (s : State) (n : Now) {l : List RegVal} (hl : l ≠ []) :
    s.opens6 n l = ({ s with nextId := s.nextId + 1 }, n.opens s.cur.slot s.nextId 0 (shortPend l 0 (s.clock + 2) false)) := by
  unfold State.opens6
  rw [if_neg (by simpa using hl)]

theorem State.branch_of_reaches {s s' : State} {n : Now} {t : Word} (h : s.reaches n t s') : s.branch n t = s'.jumped n n.g t := by
  unfold State.branch
  rw [State.checkTarget_of_reaches h]
  rfl

theorem State.branch_linked {s s' : State} {n : Now} {t : Word} {l : List RegVal} (h : s.reaches n t s') (hl : l ≠ []) :
    s.branch n t l = s'.linked n l t := by
  unfold State.branch
  rw [State.checkTarget_of_reaches h]
  simp only [State.opens6_of_ne_nil _ _ hl]
  rfl

theorem State.next6_fits {s : State} {n : Now} (hf : n.fits 8) : s.next6 n = s.after n n.g 8 2 := State.done_fits hf n 2 rfl

theorem State.next6_linked {s : State} {n : Now} {l : List RegVal} (hf : n.fits 8) (hl : l ≠ []) :
    s.next6 n l = s.linked n l (n.f.pc + 8) := by
  unfold State.next6
  simp only [State.opens6_of_ne_nil _ _ hl]
  exact State.done_fits hf _ 2 rfl

-- Links ---------------------------------------------------------------------------------------------------------------

theorem State.mode_ne_prologue_of_cores {s : State} {n : Now} (hp : s.permits .cores n) : n.t.kind ≠ .prologue := by
  intro hk
  have hmode := hp.2
  rw [hk] at hmode
  cases hmode

/-- A mode that permits a link's word permits the link (R181). -/
theorem linkBarred_of_permits {s : State} {n : Now} {link : Link} (hp : s.permits (linkPermit link) n) : linkBarred n link = false := by
  cases link with
  | sca r => rfl
  | vec k => exact decide_eq_false (State.mode_ne_prologue_of_cores hp)

theorem lanesOf_ne_nil {m : Mask} (hm : m ≠ 0) : lanesOf m ≠ [] := by
  intro hnil
  refine hm (BitVec.eq_of_getLsbD_eq fun i hi => ?_)
  have hout : i ∉ lanesOf m := by simp [hnil]
  simpa [mem_lanesOf, hi] using hout

theorem linkVals_vec_ne_nil {em : Mask} (hem : em ≠ 0) (k : Fin 64) (x : Word) : linkVals em (.vec k) x ≠ [] := by
  obtain ⟨i, hi⟩ := List.exists_mem_of_ne_nil _ (lanesOf_ne_nil hem)
  simp only [linkVals, laneVals, ne_eq, List.flatMap_eq_nil_iff, not_forall]
  exact ⟨i, hi, by simp [pairVals]⟩

/-- A pair whose active lanes agree holds their common address (R169). -/
theorem linkBase_vec_of_agree {n : Now} {k : Fin 64} {x : Word} (hem : n.f.em ≠ 0)
    (h : ∀ i, i < 32 → n.f.em.getLsbD i = true → n.g.pairGet (2 * k.val) i = x) : linkBase n (.vec k) = some x := by
  have hall : ∀ i ∈ lanesOf n.f.em, n.g.pairGet (2 * k.val) i = x := fun i hi =>
    let ⟨hlt, hbit⟩ := (mem_lanesOf _ i).1 hi; h i hlt hbit
  obtain ⟨a, l, hl⟩ := List.exists_cons_of_ne_nil (lanesOf_ne_nil hem)
  rw [hl] at hall
  unfold linkBase
  simp only [hl, List.map_cons, List.headD_cons, hall a List.mem_cons_self]
  exact if_pos (by simpa using fun i hi => hall i (List.mem_cons_of_mem _ hi))

/-- A pair in which two active lanes differ holds no address (R169). -/
theorem linkBase_vec_of_differ {n : Now} {k : Fin 64} {i j : Nat} (hi : i < 32) (hj : j < 32) (hbi : n.f.em.getLsbD i = true)
    (hbj : n.f.em.getLsbD j = true) (h : n.g.pairGet (2 * k.val) i ≠ n.g.pairGet (2 * k.val) j) : linkBase n (.vec k) = none := by
  have hmi := (mem_lanesOf n.f.em i).2 ⟨hi, hbi⟩
  have hmj := (mem_lanesOf n.f.em j).2 ⟨hj, hbj⟩
  unfold linkBase
  refine if_neg fun hall => h ?_
  simp only [List.all_map, List.all_eq_true, Function.comp_apply, decide_eq_true_eq] at hall
  rw [hall i hmi, hall j hmj]

theorem State.callTo_of_reaches {s s' : State} {n : Now} {link : Link} {t : Word} {size : Nat} (hp : s.permits (linkPermit link) n)
    (hf : n.fits size) (hl : linkVals n.f.em link (n.f.pc + BitVec.ofNat 64 size) ≠ []) (h : s.reaches n t s') :
    s.callTo n link t size = s'.linked n (linkVals n.f.em link (n.f.pc + BitVec.ofNat 64 size)) t := by
  unfold State.callTo
  rw [linkBarred_of_permits hp, State.checkTarget_of_reaches h]
  simp only [Nat.not_le.2 hf, State.opens6_of_ne_nil _ _ hl]
  rfl

theorem State.returnBy_of_reaches {s s' : State} {n : Now} {link : Link} {x off : Word} (code : Code) (hp : s.permits (linkPermit link) n)
    (hbase : linkBase n link = some x) (h : s.reaches n (x + off) s') : s.returnBy n link off code = s'.jumped n n.g (x + off) := by
  unfold State.returnBy
  rw [linkBarred_of_permits hp, hbase]
  exact State.branch_of_reaches h

theorem State.returnBy_of_none {s : State} {n : Now} {link : Link} (off : Word) (code : Code) (hp : s.permits (linkPermit link) n)
    (hbase : linkBase n link = none) : s.returnBy n link off code = s.trapNow n { code := code } := by
  unfold State.returnBy
  rw [linkBarred_of_permits hp, hbase]
  rfl

-- The control words ---------------------------------------------------------------------------------------------------

section
variable {s s' : State} {n : Now}

theorem exec_bra_reaches (hp : s.permits .any n) {disp : BitVec 30} (h : s.reaches n (n.target disp) s') :
    exec (.bra disp) s = .next (s'.jumped n n.g (n.target disp)) := by
  rw [exec_bra, execBra, State.word_permits hp, State.branch_of_reaches h]

theorem exec_braL_reaches (hp : s.permits .any n) {abs : BitVec 56} (h : s.reaches n (abs.setWidth 64) s') :
    exec (.braL abs) s = .next (s'.jumped n n.g (abs.setWidth 64)) := by
  rw [exec_braL, execBraL, State.word_permits hp, State.branch_of_reaches h]

/-- A guard that no active lane satisfies (R166). -/
theorem exec_brc_not_taken (hp : s.permits .any n) (hf : n.fits 8) {g : Guard} (hg : n.f.em &&& n.g.guard g = 0) (disp : BitVec 30) :
    exec (.brc g disp) s = .next (s.after n n.g 8 2) := by
  have hfalse : guardTrue n.f n.g g = false := by simp [guardTrue, activeLanes, hg]
  rw [exec_brc, execBrc, State.word_permits hp, hfalse, ← State.next6_fits hf]
  rfl

/-- A guard that some active lane satisfies (R166). -/
theorem exec_brc_taken (hp : s.permits .any n) {g : Guard} (hg : n.f.em &&& n.g.guard g ≠ 0) {disp : BitVec 30}
    (h : s.reaches n (n.target disp) s') : exec (.brc g disp) s = .next (s'.jumped n n.g (n.target disp)) := by
  have htrue : guardTrue n.f n.g g = true := by simpa [guardTrue, activeLanes] using hg
  rw [exec_brc, execBrc, State.word_permits hp, htrue, if_pos rfl, State.branch_of_reaches h]

theorem exec_call_reaches {link : Link} (hp : s.permits (linkPermit link) n) (hf : n.fits 8)
    (hl : linkVals n.f.em link (n.f.pc + 8) ≠ []) {disp : BitVec 30} (h : s.reaches n (n.target disp) s') :
    exec (.call link disp) s = .next (s'.linked n (linkVals n.f.em link (n.f.pc + 8)) (n.target disp)) := by
  rw [exec_call, execCall, State.word_permits hp, State.callTo_of_reaches hp hf hl h]
  rfl

theorem exec_callL_reaches {link : Link} (hp : s.permits (linkPermit link) n) (hf : n.fits 16)
    (hl : linkVals n.f.em link (n.f.pc + 16) ≠ []) {abs : BitVec 56} (h : s.reaches n (abs.setWidth 64) s') :
    exec (.callL link abs) s = .next (s'.linked n (linkVals n.f.em link (n.f.pc + 16)) (abs.setWidth 64)) := by
  rw [exec_callL, execCallL, State.word_permits hp, State.callTo_of_reaches hp hf hl h]
  rfl

theorem exec_ret_reaches {link : Link} {x : Word} (hp : s.permits (linkPermit link) n) (hbase : linkBase n link = some x)
    (h : s.reaches n x s') : exec (.ret link) s = .next (s'.jumped n n.g x) := by
  have hx : x + 0 = x := BitVec.add_zero x
  rw [exec_ret, execRet, State.word_permits hp, State.returnBy_of_reaches _ hp hbase (hx.symm ▸ h), hx]

theorem exec_jmpi_reaches {link : Link} {x : Word} {b : SReg} (hp : s.permits (linkPermit link) n) (hbase : linkBase n link = some x)
    (h : s.reaches n (x + 8 * n.g.sget b.val) s') : exec (.jmpi link b) s = .next (s'.jumped n n.g (x + 8 * n.g.sget b.val)) := by
  rw [exec_jmpi, execJmpi, State.word_permits hp, State.returnBy_of_reaches _ hp hbase h]

/-- RET and JMPI by a pair in which two active lanes differ (R169). -/
theorem exec_return_differ {k : Fin 64} (hp : s.permits .cores n) (hbase : linkBase n (.vec k) = none) (b : SReg) :
    exec (.ret (.vec k)) s = .next (s.trapNow n { code := 0x023 }) ∧ exec (.jmpi (.vec k) b) s = .next (s.trapNow n { code := 0x027 }) := by
  have hlink : s.permits (linkPermit (.vec k)) n := hp
  constructor
  · rw [exec_ret, execRet, State.word_permits hlink, State.returnBy_of_none _ _ hlink hbase]
  · rw [exec_jmpi, execJmpi, State.word_permits hlink, State.returnBy_of_none _ _ hlink hbase]

/-- SDBNZ whose count ends (R167). -/
theorem exec_sdbnz_ends (hp : s.permits .any n) (hf : n.fits 8) {d : SReg} (hx : n.g.sget d.val - 1 = 0) (disp : BitVec 30) :
    exec (.sdbnz d disp) s = .next (s.linked n [.s d.val (n.g.sget d.val - 1)] (n.f.pc + 8)) := by
  rw [exec_sdbnz, execSdbnz, State.word_permits hp]
  simp only [hx, ne_eq, not_true_eq_false, if_false]
  rw [State.next6_linked hf (List.cons_ne_nil _ _)]

/-- SDBNZ whose count goes on (R167). -/
theorem exec_sdbnz_goes_on (hp : s.permits .any n) {d : SReg} (hx : n.g.sget d.val - 1 ≠ 0) {disp : BitVec 30}
    (h : s.reaches n (n.target disp) s') :
    exec (.sdbnz d disp) s = .next (s'.linked n [.s d.val (n.g.sget d.val - 1)] (n.target disp)) := by
  rw [exec_sdbnz, execSdbnz, State.word_permits hp]
  simp only [if_pos hx]
  rw [State.branch_linked h (List.cons_ne_nil _ _)]

theorem exec_nop_fits (hp : s.permits .any n) (hf : n.fits 8) : exec .nop s = .next (s.after n n.g 8 2) := by
  rw [exec_nop, execNop, State.word_permits hp, State.next6_fits hf]

end

/-- Settles O17: each word of its two families by its own law, with the target and the link's address rewritten to the model's. -/
theorem controlTransfer : Obligations.ControlTransfer := by
  unfold Obligations.ControlTransfer
  simp only [← Now.target_eq, BitVec.ofNat_toNat]
  refine ⟨fun s n hp hf hfL g disp abs r d b => ?_, fun s n hp hf hfL hem k disp abs b => ?_⟩
  · exact ⟨fun _ h => exec_bra_reaches hp h, fun _ h => exec_braL_reaches hp h,
      fun hg => exec_brc_not_taken hp hf hg disp, fun _ hg h => exec_brc_taken hp hg h,
      fun _ h => exec_call_reaches (link := .sca r) hp hf (List.cons_ne_nil _ _) h,
      fun _ h => exec_callL_reaches (link := .sca r) hp hfL (List.cons_ne_nil _ _) h,
      fun _ h => exec_ret_reaches (link := .sca r) hp rfl h, fun _ h => exec_jmpi_reaches (link := .sca r) hp rfl h,
      fun hx => exec_sdbnz_ends hp hf hx disp, fun _ hx h => exec_sdbnz_goes_on hp hx h, exec_nop_fits hp hf⟩
  · exact ⟨fun _ h => exec_call_reaches (link := .vec k) hp hf (linkVals_vec_ne_nil hem _ _) h,
      fun _ h => exec_callL_reaches (link := .vec k) hp hfL (linkVals_vec_ne_nil hem _ _) h,
      fun _ _ hx h => exec_ret_reaches (link := .vec k) hp (linkBase_vec_of_agree hem hx) h,
      fun _ _ hx h => exec_jmpi_reaches (link := .vec k) hp (linkBase_vec_of_agree hem hx) h,
      fun _ _ hi hj hbi hbj hne => exec_return_differ hp (linkBase_vec_of_differ hi hj hbi hbj hne) b⟩

-- Traps ---------------------------------------------------------------------------------------------------------------

/-- The fragment whose word is being issued has its team, its group and itself on record. -/
theorem State.find_of_now {s : State} {n : Now} (h : s.now = some n) :
    s.teams.find s.cur.team = some n.t ∧ s.groups.find s.cur.gid = some n.g ∧ s.frags.find s.cur.fid = some n.f := by
  unfold State.now State.at' at h
  split at h
  · next t g f ht hg hf =>
    cases h
    exact ⟨ht, hg, hf⟩
  · cases h

/-- The trap registers of a trap at issue that gives TRAPDATA and no TRAPVA, as a system group holds them (R424); a team's record also
names the group and the order of the trap (R414, R415). -/
def State.trapRegs (s : State) (n : Now) (code : Code) (data : Word) : TrapRegs :=
  { v := true, code := code, pc := n.f.pc, va := Config.freeWord s.fresh, data := data, em := n.f.em, slot := s.cur.slot, ck := s.clock }

theorem State.trapValues_data (s : State) (code : Code) (data before : Word) :
    s.trapValues { code := code, data := some data } before = ((Config.freeWord s.fresh, data), { s with fresh := s.fresh + 1 }) := rfl

/-- A trap other than 0x050 in compute mode stops the team (R414). -/
theorem State.trapNow_compute {s : State} {n : Now} (h : s.now = some n) (hk : n.t.kind = .compute) {f : Fail} (hc : f.code ≠ 0x050) :
    s.trapNow n f = s.trapTeam s.cur n.f.pc f := by
  unfold State.trapNow State.raise
  simp only [(State.find_of_now h).1, hk]
  exact if_neg fun hpark => hc hpark.1

/-- A trap in system mode is taken through the group's vector (R424). -/
theorem State.trapNow_system {s : State} {n : Now} (h : s.now = some n) (hk : n.t.kind = .system) (f : Fail) :
    s.trapNow n f = s.trapSystem s.cur n.f.pc f := by
  unfold State.trapNow State.raise
  simp only [(State.find_of_now h).1, hk]

/-- A trap in compute mode touches no register and no byte of memory. -/
theorem State.trapTeam_frame (s : State) (c : Cur) (pc : Word) (f : Fail) :
    (s.trapTeam c pc f).groups = s.groups ∧ (s.trapTeam c pc f).mem = s.mem := ⟨rfl, rfl⟩

theorem Team.record_resident {t : Team} (h : t.run = .resident) (x : TrapRegs) :
    t.record x = { t with trap := x, run := .stopped, parkNow := false } := by
  unfold Team.record
  rw [h]

/-- A resident team that traps at issue stops, with the trap recorded and the rest of its record as it was (R414). -/
theorem State.trapTeam_resident {s : State} {n : Now} (h : s.now = some n) (hr : n.t.run = .resident) (code : Code) (data : Word) :
    (s.trapTeam s.cur n.f.pc { code := code, data := some data }).teams.find s.cur.team
      = some { n.t with trap := { s.trapRegs n code data with grp := s.cur.grp, atIssue := true }, run := .stopped, parkNow := false } := by
  obtain ⟨hteam, -, hfrag⟩ := State.find_of_now h
  rw [← Team.record_resident hr]
  simp [State.trapTeam, State.trapValues_data, State.trapRegs, State.updTeam, State.updFrag, hteam, hfrag]

/-- With no result pending, completing a group's results closes windows; its registers, the teams and memory stay as they were (R32). -/
theorem State.complete_of_no_pends {s : State} {gid : Nat} {g : Group} (hg : s.groups.find gid = some g) (hp : g.pends = []) :
    (s.complete gid).teams = s.teams ∧ (s.complete gid).mem = s.mem ∧ (s.complete gid).clock = s.clock
      ∧ (s.complete gid).groups.find gid = some { g with held := g.held.map (fun h => { h with wins := [] }) } := by
  have hkeys : ((s.groups.find gid).map (fun g => g.pends.keys)).getD [] = [] := by simp [hg, hp, Tab.keys, Tab.all]
  unfold State.complete
  simp only [hkeys, List.foldl_nil]
  unfold State.settle
  simp [hg, hp, Tab.all]

/-- A system group with V clear and no result pending that traps at issue saves the trap, and its other registers stay as they were (R424). -/
theorem State.trapSystem_clear {s : State} {n : Now} (h : s.now = some n) (hv : n.g.trap.v = false) (hp : n.g.pends = []) (code : Code)
    (data : Word) :
    let t := s.trapSystem s.cur n.f.pc { code := code, data := some data }
    t.teams = s.teams ∧ t.mem = s.mem ∧ t.groups.find s.cur.gid
      = some { n.g with trap := s.trapRegs n code data, held := n.g.held.map (fun h => { h with wins := [] }) } := by
  obtain ⟨-, hgroup, -⟩ := State.find_of_now h
  have hat : s.at' s.cur = some n := h
  obtain ⟨hteams, hmem, hclock, hheld⟩ := State.complete_of_no_pends (s := { s with fresh := s.fresh + 1 }) hgroup hp
  unfold State.trapSystem
  simp only [hat, hv, State.trapValues_data]
  refine ⟨hteams, hmem, (Tab.find_upd _ _ _).trans ?_⟩
  rw [hheld, hclock]
  rfl

/-- TRAP raises its cause, in the modes that permit it (R180). -/
theorem exec_trap_raises {s : State} {n : Now} (hp : s.permits .cores n) (k : Fin 8) (payload : BitVec 20) :
    exec (.trap k payload) s = .next (s.trapNow n { code := BitVec.ofNat 9 (0x030 + k.val), data := some (BitVec.ofNat 64 payload.toNat) }) := by
  rw [exec_trap, execTrap, State.word_permits hp, BitVec.ofNat_toNat]
  rfl

/-- No cause of TRAP is the cause that parks a PAGED launch. -/
theorem trapCode_ne_park (k : Fin 8) : (BitVec.ofNat 9 (0x030 + k.val) : Code) ≠ 0x050 := by
  revert k
  decide

/-- Settles O20: TRAP raises its cause, and each mode's delivery of it changes the trap registers alone. -/
theorem softwareTrap : Obligations.SoftwareTrap := by
  unfold Obligations.SoftwareTrap
  intro s n hp k payload code saved
  have hexec := exec_trap_raises hp k payload
  refine ⟨hexec, fun hk hr => ⟨_, hexec, ?_⟩, fun hk hv hpends => ⟨_, hexec, ?_⟩⟩
  · rw [State.trapNow_compute hp.1 hk (trapCode_ne_park k)]
    obtain ⟨hgroups, hmem⟩ := State.trapTeam_frame s s.cur n.f.pc { code := code, data := some (BitVec.ofNat 64 payload.toNat) }
    exact ⟨hgroups, hmem, _, State.trapTeam_resident hp.1 hr _ _, rfl, ⟨rfl, rfl, rfl, rfl, rfl, rfl⟩, rfl⟩
  · rw [State.trapNow_system hp.1 hk]
    obtain ⟨hteams, hmem, hgroup⟩ := State.trapSystem_clear hp.1 hv hpends code (BitVec.ofNat 64 payload.toNat)
    exact ⟨hteams, hmem, _, hgroup, ⟨rfl, rfl, rfl, rfl, rfl, rfl⟩, rfl⟩

end Sys2Proof.Machine
end


section
/-! SUPPORT. Laws of the return from a trap (R425): the group registers through the checks of a target, counter operations and the fault log; a
second trap of a group (R424); and the fields of a word (R28, R44). -/

namespace Sys2Proof.Machine

-- The groups through memory, counters and the fault log -----------------------------------------------------------------

section
variable (s : State)

@[simp] theorem State.memWrite_groups (pa : Nat) (l : List Byte) (bad : Bool) : (s.memWrite pa l bad).groups = s.groups := by
  unfold State.memWrite
  split_ifs
  · rfl
  · rfl
  · exact (congrArg State.groups (s.memStore_frame pa l bad)).trans rfl

@[simp] theorem State.homeWrite_groups (pa : Nat) (l : List Byte) (bad : Bool) : (s.homeWrite pa l bad).groups = s.groups := by
  rw [State.homeWrite_frame]

@[simp] theorem State.ctrPut_groups (c : Ctr) (x : Word) : (s.ctrPut c x).groups = s.groups := by
  cases c with
  | mem pa => exact s.memWrite_groups pa _ _
  | null | scr t i | peer pa => rfl

@[simp] theorem State.answer_groups (o : CtrOp) (v : AnsVal) : (s.answer o v).groups = s.groups := by
  unfold State.answer
  split <;> rfl

theorem State.foldl_answer_groups (l : List CtrOp) (v : AnsVal) : (l.foldl (fun s o => s.answer o v) s).groups = s.groups := by
  induction l generalizing s with
  | nil => rfl
  | cons o l ih => rw [List.foldl_cons, ih, State.answer_groups]

@[simp] theorem State.wake_groups (c : Ctr) : (s.wake c).groups = s.groups := State.foldl_answer_groups _ _ _

/-- An add wakes waiters by their answers, which reach their groups in steps of their own (R218, R223). -/
@[simp] theorem State.ctrAdd_groups (c : Ctr) (v : Word) : (s.ctrAdd c v).groups = s.groups := by
  unfold State.ctrAdd
  split
  · rfl
  · rfl
  · rw [State.wake_groups]
    split_ifs
    · exact s.ctrPut_groups c _
    · exact s.ctrPut_groups c _

/-- A translation touches no group (R348). -/
@[simp] theorem State.xlate_groups (p : Place) (pasid va : Nat) (ok : Word → Bool) : (s.xlate p pasid va ok).2.groups = s.groups := by
  rw [State.xlate_filled]
  rfl

/-- The check of a counter operand touches what its translation touches (R212). -/
@[simp] theorem State.vaCtr_groups (p : Party) (u : CtrUse) (x : Nat) : (s.vaCtr p u x).2.groups = s.groups := by
  unfold State.vaCtr
  split_ifs
  · rfl
  · rfl
  · dsimp only
    split <;> rename_i heq <;> have h := congrArg (fun r => r.2.groups) heq <;> simp only [State.xlate_groups] at h
    · exact h.symm
    · exact h.symm
    · split_ifs
      · exact h.symm
      · split <;> exact h.symm
      · split <;> exact h.symm

@[simp] theorem State.hubOperand_groups (hub pasid : Nat) (u : CtrUse) (x : Word) : (s.hubOperand hub pasid u x).2.groups = s.groups := by
  unfold State.hubOperand
  split_ifs
  · rfl
  · rfl
  · exact s.vaCtr_groups _ u _

@[simp] theorem State.queueAdd_groups (q : Queue) (x : Word) (v : Nat) (scope : Option Nat) : (s.queueAdd q x v scope).groups = s.groups := by
  have h := s.hubOperand_groups q.hub q.pasid (.add false) x
  unfold State.queueAdd
  split <;> rename_i heq <;> rw [heq] at h
  · exact h
  · exact h

@[simp] theorem State.queueFault_groups (k : Nat) : (s.queueFault k).groups = s.groups := by
  unfold State.queueFault
  split
  · exact s.queueAdd_groups _ _ _ _
  · rfl

@[simp] theorem State.flushLog_groups (h n : Nat) : (s.flushLog h n).groups = s.groups := by
  induction n generalizing s with
  | zero => rfl
  | succ n ih =>
    unfold State.flushLog
    dsimp only
    split
    · rfl
    · split_ifs
      · rw [ih, State.putHub_groups]
        split <;> simp
      · rfl

@[simp] theorem State.logEntry_groups (h : Nat) (e : FaultEntry) : (s.logEntry h e).groups = s.groups :=
  State.flushLog_groups _ _ _

end

-- A second trap of a system group (R424) --------------------------------------------------------------------------------

theorem State.system_of_permits {s : State} {n : Now} (hp : s.permits .system n) : n.t.kind = .system := by
  obtain ⟨-, hmode⟩ := hp
  cases hk : n.t.kind with
  | system => rfl
  | compute | prologue => rw [hk] at hmode; cases hmode

/-- A system group whose V is set keeps every register through a further trap: its team stops and its recovery core starts. -/
theorem State.trapSystem_set_groups {s : State} {n : Now} (h : s.now = some n) (hv : n.g.trap.v = true) (pc : Word) (f : Fail) :
    (s.trapSystem s.cur pc f).groups = s.groups := by
  have hat : s.at' s.cur = some n := h
  unfold State.trapSystem
  simp [hat, hv]

/-- The checks of a target change caches and A bits alone (R41). -/
theorem State.checkTarget_filled (s : State) (n : Now) (t : Word) : (s.checkTarget n t).2 = s.filledAs (s.checkTarget n t).2 := by
  have h := s.fetchWord_filled (n.party s.cur.team) t.toNat
  unfold State.checkTarget
  split_ifs
  · rfl
  · rfl
  · split <;> rename_i heq <;> rw [heq] at h
    · exact h
    · exact h

-- ERET (R425) -----------------------------------------------------------------------------------------------------------

section
variable {s s' : State} {n : Now}

theorem exec_eret_clear (hp : s.permits .system n) (hv : n.g.trap.v = false) :
    exec .eret s = .next (s.trapNow n { code := 0x02F }) := by
  rw [exec_eret, execEret, State.word_permits hp, hv]
  rfl

theorem exec_eret_reaches (hp : s.permits .system n) (hv : n.g.trap.v = true) (h : s.reaches n n.g.trap.pc s') :
    exec .eret s = .next (s'.holding { n.g with trap := { n.g.trap with v := false } }
      { n.f with pc := n.g.trap.pc, em := n.g.trap.em &&& n.f.em, ready := some (s'.clock + 2) }) := by
  rw [exec_eret, execEret, State.word_permits hp, hv, State.checkTarget_of_reaches h]
  rfl

theorem exec_eret_refused (hp : s.permits .system n) (hv : n.g.trap.v = true) {f : Fail} (h : s.checkTarget n n.g.trap.pc = (some f, s')) :
    exec .eret s = .next (s'.trapNow n f) := by
  rw [exec_eret, execEret, State.word_permits hp, hv, h]
  rfl

/-- A TRAPPC that R41 refuses leaves the group as it was, V included: it is a second trap (R424). -/
theorem State.eret_refused_keeps_group (hp : s.permits .system n) (hv : n.g.trap.v = true) {f : Fail}
    (h : s.checkTarget n n.g.trap.pc = (some f, s')) : (s'.trapNow n f).groups.find s.cur.gid = some n.g := by
  have hfill : s' = s.filledAs s' := by simpa [h] using s.checkTarget_filled n n.g.trap.pc
  have hnow : s'.now = some n := by rw [hfill]; exact hp.1
  have hcur : s'.cur = s.cur := by rw [hfill]; rfl
  rw [State.trapNow_system hnow (State.system_of_permits hp), State.trapSystem_set_groups hnow hv, ← hcur]
  exact (State.find_of_now hnow).2.1

end

/-- With no handler of its group active, an active fragment of a resident team may issue (R420, R424). -/
theorem State.mayIssue_of_clear {s : State} {n : Now} (hawake : s.awake = true) (hrun : n.t.run = .resident)
    (hbudget : n.t.dbg.budget ≠ some 0) (hv : n.g.trap.v = false) (hst : n.f.st = .active) : s.mayIssue n = true := by
  simp [State.mayIssue, hawake, hrun, hbudget, hv, hst]

-- The word of ERET (R28, R44, R425) -------------------------------------------------------------------------------------

theorem Fields.pack_unpack {w : Nat} (hw : w < 2 ^ 64) : (Fields.unpack w).pack = w := by
  simp only [Fields.pack, Fields.unpack, nbits]
  omega

/-- A row that uses no field passes the checks exactly where every field is zero (R28). -/
theorem Layout.fault_empty (allot : Nat) (f : Fields) :
    ({} : Layout).fault allot f = none ↔ f = { form := f.form, op := f.op } := by
  obtain ⟨form, op, d, a, b, g, la, m⟩ := f
  simp only [Layout.fault, Use.classFault, Use.reserved, Option.none_or, Fields.mk.injEq]
  constructor
  · intro h
    split_ifs at h
    simp_all
  · rintro ⟨-, -, rfl, rfl, rfl, rfl, rfl, rfl⟩
    rfl

/-- A word of ERET's OP that passes the checks is ERET, in system mode. -/
theorem decodeWord_eret {allot w : Nat} (hform : (Fields.unpack w).form = 0xA) (hop : (Fields.unpack w).op = 0x02) :
    decodeWord .system allot w = .instr .eret ↔ ({} : Layout).fault allot (Fields.unpack w) = none := by
  cases hfault : ({} : Layout).fault allot (Fields.unpack w) <;>
    simp [decodeWord, layout, layoutSys, modeFault, build, buildSys, hform, hop, hfault]

/-- Of the words of ERET's FORM and OP, the one with no field set is ERET (R425). -/
theorem decodeWord_eret_iff {w : Nat} (hw : w / 2 ^ 52 = 0xA02) (allot : Nat) :
    decodeWord .system allot w = .instr .eret ↔ w = 0xA020000000000000 := by
  have hform : (Fields.unpack w).form = 0xA := by simp only [Fields.unpack, nbits]; omega
  have hop : (Fields.unpack w).op = 0x02 := by simp only [Fields.unpack, nbits]; omega
  rw [decodeWord_eret hform hop, Layout.fault_empty, hform, hop]
  constructor
  · intro h
    rw [← Fields.pack_unpack (w := w) (by omega), h]
    rfl
  · rintro rfl
    rfl

/-- Settles O21: each clause by the law of its case of V and of TRAPPC, and the word by its fields. -/
theorem exceptionReturn : Obligations.ExceptionReturn := by
  unfold Obligations.ExceptionReturn
  intro s s' n hp
  refine ⟨exec_eret_clear hp, fun hv h => ⟨exec_eret_reaches hp hv h, fun m ht hg hst hrun hbudget hawake => ?_⟩, fun f hv h => ?_, by decide,
    fun w hw => decodeWord_eret_iff hw 128⟩
  · exact State.mayIssue_of_clear hawake (ht ▸ hrun) (ht ▸ hbudget) (by rw [hg]) hst
  · exact ⟨_, exec_eret_refused hp hv h, rfl, n.g, State.eret_refused_keeps_group hp hv h, hv⟩

end Sys2Proof.Machine
end
